-- ==== Sys2Proof/Word.lean ====
section
/-! DEFINITION. The word types of the V16 and their plainest arithmetic (00 R1, R4; 03 R32). -/

namespace Sys2Proof

/-- One byte of memory. -/
abbrev Byte := BitVec 8

/-- An instruction word or a block header (09 R133). -/
abbrev Word := BitVec 32

/-- A 64-bit integer, address, token payload or system register (03 R32). -/
abbrev W64 := BitVec 64

/-- A 512-bit vector, record or wide token payload (09 R142). -/
abbrev W512 := BitVec 512

/-- A logical time; its order is the unsigned order of its 64 bits (20 R291). -/
abbrev LTime := BitVec 64

/-- The time that no frontier reaches: every frontier at it has passed everything (20 R301). -/
def LTime.top : LTime := 0xFFFFFFFFFFFFFFFF#64

end Sys2Proof
end

