-- ==== Sys2Proof/Config.lean ====
section
/-! DEFINITION. What one V16 fixes and the manual does not say: the free values of the model.
Each is a constant with no body, so no proof can see its value; each names its log entry. -/

namespace Sys2Proof.Config

/-- The byte of the boot ROM at an offset below 64 KiB: not architectural (02 R18). Log entry 7 (DESIGN CHOICE). -/
opaque bootRom : Nat → Byte

/-- Where a slice stands along its seam, or along which outer edge of its die: whether the edge is the one in x, and the row or
column. 01 Table 1-2 gives the seam or the die of each stack and no place on it. Log entry 8 (DESIGN CHOICE). -/
opaque slicePlace : Nat → Bool × Nat

/-- Whether the second of the two bridge stacks of a seam stands at a row or column of it (01 Table 1-2). Log entry 8 (DESIGN
CHOICE). -/
opaque relayUpper : Nat → Nat → Bool

/-- The set of a line at its slice (04 R53 gives 2,048 sets of 16 ways and no index). Log entry 95 (DESIGN CHOICE). -/
opaque cacheSet : Nat → Nat

/-- The bytes of the items of a save area whose layout is not architectural, as the restore logic of the V16 writes them: the
item, its size, and a number that stands for the state saved (24 R424). Log entry 9 (DESIGN CHOICE). -/
opaque saveLayout : Nat → Nat → Nat → List Byte

/-- The readings of a TELEMETRY response: temperatures and coolant (26 Table 26-2). Log entry 10 (DESIGN CHOICE). -/
opaque telemetry : Nat → W64

/-- A value that the manual states no rule for, drawn afresh at each use. Log entry 12 (DESIGN CHOICE). -/
opaque freeValue : Nat → W64

/-- What a status word of a host interface holds when an endpoint transfer fails (12 R199). Log entry 13 (DESIGN CHOICE). -/
opaque hostStatus : Nat → W64

end Sys2Proof.Config
end

