-- ==== Sys2Proof/Machine/Maps.lean ====
section
/-! DEFINITION. Maps: finite maps as sorted lists of key and value, the bit fields that tables of the manual name,
and byte order (00 R1). -/

namespace Sys2Proof.Machine

/-- A finite map: keys strictly rising when it is built by `Map.set`. -/
abbrev Map (α : Type) := List (Nat × α)

/-- The value at a key, if one is listed. -/
def Map.find {α : Type} : Map α → Nat → Option α
  | [], _ => none
  | (k, v) :: m, i => if k = i then some v else if i < k then none else Map.find m i

/-- The value at a key; an unlisted key holds `d`. -/
def Map.get {α : Type} (d : α) (m : Map α) (i : Nat) : α := (Map.find m i).getD d

/-- List a value at a key. -/
def Map.set {α : Type} : Map α → Nat → α → Map α
  | [], i, v => [(i, v)]
  | (k, w) :: m, i, v =>
    if i < k then (i, v) :: (k, w) :: m
    else if i = k then (i, v) :: m
    else (k, w) :: Map.set m i v

/-- Drop a key. -/
def Map.drop {α : Type} : Map α → Nat → Map α
  | [], _ => []
  | (k, w) :: m, i => if k = i then m else (k, w) :: Map.drop m i

/-- Change the value at a key; an unlisted key holds `d`. -/
def Map.modify {α : Type} (d : α) (m : Map α) (i : Nat) (g : α → α) : Map α := m.set i (g (m.get d i))

/-- The keys that are listed. -/
def Map.keys {α : Type} (m : Map α) : List Nat := m.map Prod.fst

/-- Change every listed value. -/
def Map.mapVals {α : Type} (g : Nat → α → α) (m : Map α) : Map α := m.map fun e => (e.1, g e.1 e.2)

/-! ## Bits and bytes -/

/-- The bits [hi : lo] of a value as a number. -/
def bits {w : Nat} (v : BitVec w) (hi lo : Nat) : Nat := (v.extractLsb' lo (hi + 1 - lo)).toNat

/-- The bit i of a value. -/
def bitAt {w : Nat} (v : BitVec w) (i : Nat) : Bool := v.getLsbD i

/-- A number placed with its lowest bit at `lo`, cut to `n` bits. -/
def place (w lo n v : Nat) : BitVec w := BitVec.ofNat w ((v % 2 ^ n) * 2 ^ lo)

/-- Replace the bits [lo + n - 1 : lo] of a value. -/
def insertBits {w : Nat} (v : BitVec w) (lo n : Nat) (x : Nat) : BitVec w :=
  (v &&& ~~~(place w lo n (2 ^ n - 1))) ||| place w lo n x

/-- One bit from a Bool. -/
def b2n (b : Bool) : Nat := if b then 1 else 0

/-- The number that bytes hold, the first byte lowest (00 R1). -/
def leNat : List Byte → Nat
  | [] => 0
  | b :: bs => b.toNat + 256 * leNat bs

/-- The first `n` bytes of a number, lowest first. -/
def leBytes : Nat → Nat → List Byte
  | 0, _ => []
  | n + 1, v => BitVec.ofNat 8 v :: leBytes n (v / 256)

/-- The low `w` bits of a value read as two's complement, as a 64-bit value. -/
def sext64 (w : Nat) (v : Nat) : W64 := (BitVec.ofNat w v).signExtend 64

/-- The number with its bits at and above `n` cleared. -/
def lowBits (n v : Nat) : Nat := v % 2 ^ n

/-- Divide and round up. -/
def ceilDiv (a b : Nat) : Nat := (a + b - 1) / b

/-- The first element of a list that satisfies a test, with its place. -/
def findIdx {α : Type} (q : α → Bool) : List α → Nat → Option (Nat × α)
  | [], _ => none
  | a :: as, i => if q a then some (i, a) else findIdx q as (i + 1)

/-- Whether a number lies in [lo, lo + n). -/
def inRange (x lo n : Nat) : Bool := lo ≤ x && x < lo + n

/-- A value of 64 bits from its fields: a place, a width and a number for each. -/
def packFields (w : Nat) : List (Nat × Nat × Nat) → BitVec w
  | [] => 0
  | (lo, n, v) :: fs => place w lo n v ||| packFields w fs

end Sys2Proof.Machine
end

