-- ==== Sys2Proof/Syntax.lean ====
section
/-! DEFINITION. Syntax: the operand forms and the one instruction type, a constructor for every row of the
opcode table. Encoded instructions carry the fields of their formats (09 R135); the steps of the machine that
have no encoding carry the choice that the step makes, which the manual leaves to the order of the agents. -/

namespace Sys2Proof

/-- The predicate mode of a predicable instruction (09 R138, Table 9-11). -/
inductive Pm where
  /-- issues without a predicate -/
  | always
  /-- `?t`: only on a true predicate -/
  | ifTrue
  /-- `?f`: only on a false predicate -/
  | ifFalse
  deriving DecidableEq, Repr

/-- The SZ field of format M (09 R136, Table 9-9). -/
inductive Sz where
  | s8
  | z8
  | s16
  | z16
  | s32
  | z32
  | x64
  | x128
  deriving DecidableEq, Repr

/-- The mode of JOIN (09 Table 9-8, 12 Table 12-1). -/
inductive JoinMode where
  | isect
  | union
  | sub
  | madd
  | less
  deriving DecidableEq, Repr

/-- The scope of a FENCE (11 R188, Table 11-5). -/
inductive FenceScope where
  | firing
  | node
  | group
  | region
  | device
  | system
  deriving DecidableEq, Repr

/-- The sub-operation of ABSNEG (10 R168). -/
inductive AbsNeg where
  | abs
  | neg
  deriving DecidableEq, Repr

/-- The sub-operation of BITC (10 R168). -/
inductive BitCount where
  | clz
  | ctz
  | popc
  deriving DecidableEq, Repr

/-- The width that EXT extends from (10 R168). -/
inductive ExtWidth where
  | w8
  | w16
  | w32
  deriving DecidableEq, Repr

/-- The condition of CMP (10 R170, Table 10-5). -/
inductive Cond where
  | eq
  | ne
  | lt
  | le
  | gt
  | ge
  | tst
  deriving DecidableEq, Repr

/-- The condition of CMPI (10 R173, Table 10-7). -/
inductive CondI where
  | eq
  | ne
  | ltS
  | geS
  | ltZ
  | geZ
  | leS
  | gtS
  deriving DecidableEq, Repr

/-- The sub-operation of ATOM, ATOML and EPATOM (11 Table 11-4). -/
inductive AtomSub where
  | add
  | and
  | or
  | xor
  | mins
  | minu
  | maxs
  | maxu
  | xchg
  | fadd
  deriving DecidableEq, Repr

/-- The rounding mode (03 R37, Table 3-2). -/
inductive Round where
  /-- nearest, ties to even -/
  | rn
  /-- toward zero -/
  | rz
  /-- toward +infinity -/
  | rp
  /-- toward -infinity -/
  | rm
  deriving DecidableEq, Repr

/-- The lane type of a floating-point instruction (13 R201, Table 13-1). -/
inductive FType where
  | f16
  | bf16
  | f32
  | f64
  | vf16
  | vbf16
  | vf32
  | vf64
  deriving DecidableEq, Repr

/-- The lane type of a vector instruction that has no scalar form (13 Table 13-3). -/
inductive VType where
  | vf16
  | vbf16
  | vf32
  | vf64
  deriving DecidableEq, Repr

/-- The sub-operation of FMINMAX (13 R204). -/
inductive MinMaxSub where
  | min
  | max
  | minp
  | maxp
  deriving DecidableEq, Repr

/-- The condition of FCMP (13 R205). -/
inductive FCmpSub where
  | eq
  | lt
  | le
  | un
  deriving DecidableEq, Repr

/-- The sub-operation of FSIGN (13 R207). -/
inductive FSignSub where
  | cpy
  | ncpy
  | xsgn
  deriving DecidableEq, Repr

/-- The integer width of CVTI and CVTF (13 R210). -/
inductive IntWidth where
  | w8
  | w16
  | w32
  | w64
  deriving DecidableEq, Repr

/-- The GX layout of GXPACK and GXUNP (13 R211, R212). -/
inductive GxWidth where
  | gx2
  | gx4
  | gx7
  deriving DecidableEq, Repr

/-- The matrix type (14 R217, Table 14-1). -/
inductive MatType where
  | f64
  | f32
  | f16
  | bf16
  | gx
  deriving DecidableEq, Repr

/-- A tile buffer of the matrix unit, as MLDL numbers them (14 Table 14-3). -/
inductive TileBuf where
  | ta0
  | ta1
  | tb0
  | tb1
  deriving DecidableEq, Repr

/-- The chain mode of MMA (14 R222). -/
inductive MmaMode where
  | z
  | k
  | d
  deriving DecidableEq, Repr

/-- The sub-operation of PACT (15 R237, Table 15-3). -/
inductive PactSub where
  | get
  | act
  | adopt
  | deact
  | tidy
  deriving DecidableEq, Repr

/-- The sub-operation of PSUM (15 R243). -/
inductive PsumSub where
  | sum
  | max
  | min
  deriving DecidableEq, Repr

/-- The sub-operation of PCOPY (15 R244). -/
inductive PcopySub where
  | copy
  | swap
  deriving DecidableEq, Repr

/-- A typed coprocessor queue (22 R427, Table 22-13). -/
inductive Queue where
  | rast
  | zb
  | tess
  | tfil
  | rtrav
  | asb
  deriving DecidableEq, Repr

/-- Where an instruction delivers its result (09 R137, Table 9-10). -/
inductive Tgt where
  /-- kind 000: nothing -/
  | none
  /-- kind 001: operand 0 of a slot -/
  | opL (slot : BitVec 6)
  /-- kind 010: operand 1 of a slot -/
  | opR (slot : BitVec 6)
  /-- kind 011: the predicate of a slot -/
  | pred (slot : BitVec 6)
  /-- kind 100: a register -/
  | reg (idx : BitVec 6)
  /-- kind 101: an output port -/
  | port (idx : BitVec 6)
  /-- kind 110: operand 2 of a slot -/
  | opX (slot : BitVec 6)
  deriving DecidableEq, Repr

/-- What SITE delivers: SEL and K together (15 R242, Table 15-6). -/
inductive SiteSel where
  | inp (k : BitVec 3)
  | x
  | y
  | z
  | rule
  | walls
  | count
  deriving DecidableEq, Repr

/-- What the check of a code word finds: nothing, a corrected error, or an error that cannot be corrected
(02 R29, R30; 04 R70). -/
inductive SoftError where
  | clean
  | corrected
  | uncorrectable
  deriving DecidableEq, Repr

/-- An agent that runs blocks: the control thread of a region, the node of a PE, a firing of an AG node, or the
rule firings of a PE (16 R248). -/
inductive Agent where
  | ctl (region : Nat)
  | node (pe : Nat)
  | ag (ag firing : Nat)
  | rule (pe : Nat)
  deriving DecidableEq, Repr

/-- Where the executive writes a register: a physical address of executive space (02 Table 2-1), a register of a
region or of a PE by its number (24 Table 24-12), or a save key word of the module. -/
inductive RegPlace where
  | phys (addr : Nat)
  | region (region num : Nat)
  | pe (pe num : Nat)
  | module (num : Nat)
  deriving DecidableEq, Repr

/-- A count unit of a bay, a die aggregator or the root (20 R300). -/
inductive CountPlace where
  | bay (b : Nat)
  | die (d : Nat)
  | root
  deriving DecidableEq, Repr

/-- One change of a count batch: a pointstamp and its change (20 R297). -/
structure CountChange where
  loc   : Nat
  time  : LTime
  delta : Int
  deriving DecidableEq, Repr

/-- A control location that a batch of another module opens, the region that holds it and its epoch (20 R306). -/
structure Opening where
  loc    : Nat
  holder : Nat
  epoch  : Nat
  deriving DecidableEq, Repr

/-- What a batch of another module holds: the module, the changes and the epochs that it opens (20 R306; 26 R387). -/
structure PeerChanges where
  peer   : Nat
  counts : List CountChange
  opens  : List Opening
  deriving DecidableEq, Repr

/-- The trap record of 64 bytes (24 Table 24-2), field by field. -/
structure TrapRecord where
  fcode  : BitVec 12
  origin : BitVec 4
  sev    : BitVec 2
  slot   : BitVec 6
  agent  : BitVec 16
  qseq   : BitVec 16
  time   : LTime
  block  : W64
  info0  : W64
  info1  : W64
  wait   : W64
  job    : BitVec 16
  flags  : BitVec 5
  pts    : BitVec 48
  deriving DecidableEq, Repr

/-- A mailbox edge of a graph: the circuit `tag` that leaves the box of the PE with region-relative index `pe` on
`side` (0 north, 1 east, 2 south, 3 west) through the mailbox `slice`, the mailbox on the second seam of a circuit between diagonal
dies, the box of the other die that it reaches (08 R126), and the locations at which the circuit ends beyond it (20 R297). -/
structure MailEdge where
  pe    : Nat
  side  : Nat
  tag   : Nat
  slice : Nat
  second : Option Nat
  toPe  : Nat
  locs  : List Nat
  deriving DecidableEq, Repr

/-- What the graph of a job says of one section beside its image in memory: its sinks, the queue and hold
locations of its coprocessor calls, its mailbox edges and its streaming block list (17 Table 17-1, 22 R330). -/
structure SectionMeta where
  image  : W64
  sinks  : List Nat
  queues : List (Queue × Nat × Nat)
  mail   : List MailEdge
  sbb    : List (Nat × List Word)
  nthr   : Nat
  entry  : Nat
  deriving DecidableEq, Repr

/-- A launch package (17 Table 17-1, 26 Table 26-2): the root of translation, the kernel graph, the budgets, the
group table, the endpoints, the address of the path-summary table (20 R295), the source and control locations, once for each holder, and
the chunks placed in device memory. -/
structure LaunchPackage where
  xroot    : W64
  kgbase   : W64
  nentry   : Nat
  ceiling  : Nat
  budget   : Nat
  stall    : Nat
  jbudget  : Nat
  flags    : BitVec 3
  cappages : Nat
  debug    : Bool
  groups   : List (Nat × W64)
  endpts   : List (Nat × Nat)
  table    : Nat
  sources  : List Nat
  chunks   : List (Nat × BitVec 16 × List Byte)
  /-- first contents of local memory: the entry, the place of the PE in its region, the local address and the bytes -/
  backing  : List (Nat × Nat × Nat × List Byte)
  sections : List SectionMeta
  /-- the other modules that the job spans (20 R306) -/
  peers    : Nat
  deriving DecidableEq, Repr

/-- The instructions and steps of the V16: one constructor for each row of the opcode table. The first 146 are
encoded instructions; the others are the steps of the machine that carry no encoding (95). -/
inductive Instr where
  /-- READ (R140). Delivers the value of a g, n or v register to two targets, waiting while it is empty unless FE is set. -/
  | read (reg : BitVec 6) (fe : Bool) (t : Tgt) (u : Tgt)
  /-- MOV (R164). Delivers op0 unchanged, with its kind, payload, CAP and width, to two targets. -/
  | mov (p : Pm) (t : Tgt) (u : Tgt)
  /-- MOVI (R164). Delivers the sign-extended 14-bit immediate as DATA. -/
  | movi (p : Pm) (t : Tgt) (imm : BitVec 14)
  /-- MOVIS (R164). Shifts op0 left by 14 bits and ORs in the zero-extended immediate. -/
  | movis (p : Pm) (t : Tgt) (imm : BitVec 14)
  /-- NULL (R164). Delivers NULL to each target so that a path not taken meets NOUT. -/
  | null (p : Pm) (t : Tgt) (u : Tgt)
  /-- RECV (R190). Delivers and consumes the head token of a mandatory input port at the firing's time. -/
  | recv (port : BitVec 6) (t : Tgt) (u : Tgt)
  /-- RECVK (R152). Delivers and keeps the head of a port, discarding older heads superseded at the firing's time. -/
  | recvk (port : BitVec 6) (t : Tgt) (u : Tgt)
  /-- RECVO (R153). Delivers the head of an optional port at the firing's time, or ABSENT once the frontier has passed. -/
  | recvo (port : BitVec 6) (t : Tgt) (u : Tgt)
  /-- JOIN (R192). Merges two keyed runs by mode, consuming one or both heads and making one delivery. -/
  | join (pa : BitVec 6) (pb : BitVec 6) (mode : JoinMode) (t : Tgt)
  /-- BRO (R276). Exits the control block to a target at a signed word offset from its header. -/
  | bro (p : Pm) (exit : BitVec 3) (off : BitVec 20)
  /-- BRI (R277). Exits the control block to the address held in op0. -/
  | bri (p : Pm) (exit : BitVec 3)
  /-- CALLO (R277). Exits to an offset target and pushes the following header on the return stack. -/
  | callo (p : Pm) (exit : BitVec 3) (off : BitVec 20)
  /-- RETB (R277). Exits to the address popped from the return stack. -/
  | retb (p : Pm) (exit : BitVec 3)
  /-- HALT (R278). Ends the control thread at commit when the region stands IDLE. -/
  | halt (p : Pm)
  /-- FENCE (R189). At commit waits until every write in its scope is acknowledged, then releases effects that leave the consistent domain. -/
  | fence (p : Pm) (gslot : BitVec 2) (scope : FenceScope)
  /-- ADD (R165). Delivers the sum of two operands modulo 2^64. -/
  | add (p : Pm) (t : Tgt) (u : Tgt)
  /-- SUB (R165). Delivers op0 minus op1 modulo 2^64. -/
  | sub (p : Pm) (t : Tgt) (u : Tgt)
  /-- MUL (R165). Delivers the low 64 bits of the product. -/
  | mul (p : Pm) (t : Tgt) (u : Tgt)
  /-- MULH (R165). Delivers the high 64 bits of the signed or unsigned 128-bit product. -/
  | mulh (p : Pm) (t : Tgt) (u : Tgt) (sg : Bool)
  /-- DIV (R166). Delivers the signed or unsigned quotient, with defined results for zero and overflow. -/
  | div (p : Pm) (t : Tgt) (u : Tgt) (sg : Bool)
  /-- REM (R166). Delivers the signed or unsigned remainder. -/
  | rem (p : Pm) (t : Tgt) (u : Tgt) (sg : Bool)
  /-- AND (R165). Delivers the bitwise AND. -/
  | and (p : Pm) (t : Tgt) (u : Tgt)
  /-- OR (R165). Delivers the bitwise OR. -/
  | or (p : Pm) (t : Tgt) (u : Tgt)
  /-- XOR (R165). Delivers the bitwise exclusive OR. -/
  | xor (p : Pm) (t : Tgt) (u : Tgt)
  /-- ANDN (R165). Delivers op0 AND NOT op1. -/
  | andn (p : Pm) (t : Tgt) (u : Tgt)
  /-- SHL (R167). Shifts op0 left by op1[5:0]. -/
  | shl (p : Pm) (t : Tgt) (u : Tgt)
  /-- SHR (R167). Shifts op0 right logically by op1[5:0]. -/
  | shr (p : Pm) (t : Tgt) (u : Tgt)
  /-- SRA (R167). Shifts op0 right arithmetically by op1[5:0]. -/
  | sra (p : Pm) (t : Tgt) (u : Tgt)
  /-- ROT (R167). Rotates op0 left by op1[5:0]. -/
  | rot (p : Pm) (t : Tgt) (u : Tgt)
  /-- MIN (R165). Delivers the smaller operand, signed or unsigned. -/
  | min (p : Pm) (t : Tgt) (u : Tgt) (sg : Bool)
  /-- MAX (R165). Delivers the larger operand, signed or unsigned. -/
  | max (p : Pm) (t : Tgt) (u : Tgt) (sg : Bool)
  /-- ABSNEG (R168). Delivers the absolute value or the negation of op0. -/
  | absneg (p : Pm) (t : Tgt) (u : Tgt) (sub : AbsNeg)
  /-- BITC (R168). Counts leading zeros, trailing zeros or set bits of op0. -/
  | bitc (p : Pm) (t : Tgt) (u : Tgt) (sub : BitCount)
  /-- BFX (R169). Extracts a bit field with sign or zero extension. -/
  | bfx (p : Pm) (t : Tgt) (u : Tgt) (sg : Bool)
  /-- BFI (R169). Inserts the low bits of op1 into a field of op0. -/
  | bfi (p : Pm) (t : Tgt) (u : Tgt)
  /-- CMP (R170). Delivers 1 or 0 according to a comparison condition. -/
  | cmp (p : Pm) (t : Tgt) (u : Tgt) (cond : Cond) (sg : Bool)
  /-- SEL (R171). Delivers op1 or op2 unchanged according to a condition on op0. -/
  | sel (p : Pm) (t : Tgt) (u : Tgt) (nz : Bool)
  /-- EXT (R168). Sign- or zero-extends the low 8, 16 or 32 bits of op0. -/
  | ext (p : Pm) (t : Tgt) (u : Tgt) (ew : ExtWidth) (sg : Bool)
  /-- ADDI (R172). Adds a sign-extended immediate. -/
  | addi (p : Pm) (t : Tgt) (imm : BitVec 14)
  /-- ANDI (R172). ANDs with a sign-extended immediate. -/
  | andi (p : Pm) (t : Tgt) (imm : BitVec 14)
  /-- ORI (R172). ORs with a sign-extended immediate. -/
  | ori (p : Pm) (t : Tgt) (imm : BitVec 14)
  /-- XORI (R172). Exclusive-ORs with a sign-extended immediate. -/
  | xori (p : Pm) (t : Tgt) (imm : BitVec 14)
  /-- SHLI (R172). Shifts left by an immediate amount. -/
  | shli (p : Pm) (t : Tgt) (imm : BitVec 6)
  /-- SHRI (R172). Shifts right logically by an immediate amount. -/
  | shri (p : Pm) (t : Tgt) (imm : BitVec 6)
  /-- SRAI (R172). Shifts right arithmetically by an immediate amount. -/
  | srai (p : Pm) (t : Tgt) (imm : BitVec 6)
  /-- CMPI (R173). Compares op0 with an 11-bit immediate under a 3-bit condition. -/
  | cmpi (p : Pm) (t : Tgt) (cond : CondI) (imm : BitVec 11)
  /-- MULI (R172). Multiplies by a sign-extended immediate modulo 2^64. -/
  | muli (p : Pm) (t : Tgt) (imm : BitVec 14)
  /-- XLATE (R78). Walks the translation tables and emits a page capability, a fault token, a fault, or withholds for service. -/
  | xlate (p : Pm) (t : Tgt) (u : Tgt) (wr : Bool) (nf : Bool)
  /-- PAADD (R84). Adds a 64-bit offset to a capability, keeping CAP only within its page. -/
  | paadd (p : Pm) (t : Tgt) (u : Tgt)
  /-- PAOFF (R84). Adds a signed immediate byte offset to a capability, keeping CAP only within its page. -/
  | paoff (p : Pm) (t : Tgt) (imm : BitVec 14)
  /-- LD (R179). Loads 1 to 16 bytes of device memory through a capability during execution. -/
  | ld (p : Pm) (t : Tgt) (lsid : BitVec 4) (sz : Sz) (imm : BitVec 7)
  /-- ST (R180). Stores 1 to 16 bytes to device memory through a capability at commit. -/
  | st (p : Pm) (lsid : BitVec 4) (sz : Sz) (imm : BitVec 7)
  /-- LDV (R179). Loads a 64-byte line as four granule accesses. -/
  | ldv (p : Pm) (t : Tgt) (lsid : BitVec 4) (imm : BitVec 7)
  /-- STV (R180). Stores a 64-byte line at commit, clearing poison when overwriting whole. -/
  | stv (p : Pm) (lsid : BitVec 4) (imm : BitVec 7)
  /-- LDL (R186). Loads from the PE's local memory. -/
  | ldl (p : Pm) (t : Tgt) (lsid : BitVec 4) (sz : Sz) (imm : BitVec 7)
  /-- STL (R186). Stores to the PE's local memory at commit. -/
  | stl (p : Pm) (lsid : BitVec 4) (sz : Sz) (imm : BitVec 7)
  /-- LDLW (R109). Waits for a full granule, reads it, and keeps or clears its full/empty bit. -/
  | ldlw (p : Pm) (t : Tgt) (lsid : BitVec 4) (sz : Sz) (q : Bool) (off : BitVec 6)
  /-- STLF (R187). Stores to local memory and sets the granule full, optionally waiting for it to be empty. -/
  | stlf (p : Pm) (lsid : BitVec 4) (sz : Sz) (q : Bool) (off : BitVec 6)
  /-- LDLV (R186). Loads 64 bytes of local memory. -/
  | ldlv (p : Pm) (t : Tgt) (lsid : BitVec 4) (imm : BitVec 7)
  /-- STLV (R186). Stores 64 bytes to local memory at commit. -/
  | stlv (p : Pm) (lsid : BitVec 4) (imm : BitVec 7)
  /-- ATOM (R184). Performs an atomic read-modify-write at the line's slice at commit. -/
  | atom (p : Pm) (t : Tgt) (lsid : BitVec 4) (sz : Sz) (sub : AtomSub) (off : BitVec 3)
  /-- CAS (R184). Performs a compare-and-swap at the line's slice at commit. -/
  | cas (p : Pm) (t : Tgt) (lsid : BitVec 4) (sz : Sz) (imm : BitVec 7)
  /-- ATOML (R185). Performs an atomic sub-operation on local memory at commit. -/
  | atoml (p : Pm) (t : Tgt) (lsid : BitVec 4) (sz : Sz) (sub : AtomSub) (off : BitVec 3)
  /-- BUFDEF (R193). Binds or unbinds a buffer handle to a ring of slots. -/
  | bufdef (p : Pm) (h : BitVec 5)
  /-- BUFGET (R193). Waits for slot RD in the state it takes and delivers its local address, or EOS. -/
  | bufget (p : Pm) (t : Tgt) (u : Tgt) (h : BitVec 5)
  /-- BUFPUT (R193). Moves the oldest draining or filling slot on and sends its notice. -/
  | bufput (p : Pm) (h : BitVec 5)
  /-- BUFSTAT (R193). Delivers the handle status word. -/
  | bufstat (p : Pm) (t : Tgt) (u : Tgt) (h : BitVec 5)
  /-- CPYOPEN (R95). Copies a tensor descriptor and opens a stream on one or up to four handles. -/
  | cpyopen (p : Pm) (h : BitVec 5)
  /-- CPYCLOSE (R96). Ends a stream, letting tiles land or writing full slots, or clears a poisoned handle. -/
  | cpyclose (p : Pm) (h : BitVec 5)
  /-- CPYWAIT (R96). Waits for the stream to close and delivers the status word; a join edge. -/
  | cpywait (p : Pm) (t : Tgt) (u : Tgt) (h : BitVec 5)
  /-- GATHER (R196). Loads from device memory on an AG node, as LD with no LSID. -/
  | gather (p : Pm) (t : Tgt) (u : Tgt) (sz : Sz)
  /-- SCATTER (R196). Stores to device memory on an AG node at commit, as ST. -/
  | scatter (p : Pm) (sz : Sz)
  /-- EPATOM (R199). Sends an 8-byte atomic to a host endpoint after commit. -/
  | epatom (p : Pm) (t : Tgt) (u : Tgt) (sub : AtomSub)
  /-- EPFENCE (R200). At commit waits for the host to acknowledge every earlier endpoint write of the agent. -/
  | epfence (p : Pm)
  /-- LMSTREAM (R198). Starts the PE's local-memory stream source or sink engine at commit. -/
  | lmstream (p : Pm) (t : Tgt)
  /-- FADD (R203). Floating-point addition, rounded once per lane. -/
  | fadd (p : Pm) (t : Tgt) (u : Tgt) (ty : FType) (rnd : Round)
  /-- FSUB (R203). Floating-point subtraction. -/
  | fsub (p : Pm) (t : Tgt) (u : Tgt) (ty : FType) (rnd : Round)
  /-- FMUL (R203). Floating-point multiplication. -/
  | fmul (p : Pm) (t : Tgt) (u : Tgt) (ty : FType) (rnd : Round)
  /-- FMA (R203). Fused multiply-add rounded once. -/
  | fma (p : Pm) (t : Tgt) (u : Tgt) (ty : FType) (rnd : Round)
  /-- FDIV (R203). Correctly rounded floating-point division. -/
  | fdiv (p : Pm) (t : Tgt) (u : Tgt) (ty : FType) (rnd : Round)
  /-- FSQRT (R203). Correctly rounded square root. -/
  | fsqrt (p : Pm) (t : Tgt) (u : Tgt) (ty : FType) (rnd : Round)
  /-- FRSQ (R203). Correctly rounded reciprocal square root. -/
  | frsq (p : Pm) (t : Tgt) (u : Tgt) (ty : FType) (rnd : Round)
  /-- FMINMAX (R204). Delivers the minimum or maximum with NaN-avoiding or NaN-propagating forms. -/
  | fminmax (p : Pm) (t : Tgt) (u : Tgt) (ty : FType) (sub : MinMaxSub)
  /-- FCMP (R205). Delivers a lane mask of a floating-point comparison. -/
  | fcmp (p : Pm) (t : Tgt) (u : Tgt) (ty : FType) (sub : FCmpSub)
  /-- FCLASS (R206). Delivers a one-hot class word per lane. -/
  | fclass (p : Pm) (t : Tgt) (u : Tgt) (ty : FType)
  /-- FSIGN (R207). Replaces the sign bit by copy, inverse copy or XOR. -/
  | fsign (p : Pm) (t : Tgt) (u : Tgt) (ty : FType) (sub : FSignSub)
  /-- FRND (R203). Rounds to an integer value in the same format. -/
  | frnd (p : Pm) (t : Tgt) (u : Tgt) (ty : FType) (rnd : Round)
  /-- FEXP2 (R203). Correctly rounded power of two. -/
  | fexp2 (p : Pm) (t : Tgt) (u : Tgt) (ty : FType) (rnd : Round)
  /-- FLOG2 (R203). Correctly rounded base-2 logarithm. -/
  | flog2 (p : Pm) (t : Tgt) (u : Tgt) (ty : FType) (rnd : Round)
  /-- CVT (R208). Converts between floating-point formats, including deterministic stochastic rounding. -/
  | cvt (p : Pm) (t : Tgt) (dty : FType) (rsd : Bool) (part : BitVec 2) (ty : FType) (rnd : Round)
  /-- CVTI (R210). Converts a scalar float to an integer of given width and signedness. -/
  | cvti (p : Pm) (t : Tgt) (iw : IntWidth) (sg : Bool) (ty : FType) (rnd : Round)
  /-- CVTF (R210). Converts an integer to a scalar float. -/
  | cvtf (p : Pm) (t : Tgt) (iw : IntWidth) (sg : Bool) (ty : FType) (rnd : Round)
  /-- GXPACK (R211). Encodes 16 FP32 lanes canonically into a GX block. -/
  | gxpack (p : Pm) (t : Tgt) (u : Tgt) (gw : GxWidth)
  /-- GXUNP (R212). Decodes a GX block into lanes. -/
  | gxunp (p : Pm) (t : Tgt) (u : Tgt) (ty : FType) (gw : GxWidth)
  /-- VRED (R213). Sums all lanes exactly and rounds once. -/
  | vred (p : Pm) (t : Tgt) (u : Tgt) (ty : VType) (rnd : Round)
  /-- VSHUF (R216). Permutes or rotates lanes. -/
  | vshuf (p : Pm) (t : Tgt) (u : Tgt) (ty : VType) (rot : Bool)
  /-- VBCAST (R216). Broadcasts a scalar to every lane. -/
  | vbcast (p : Pm) (t : Tgt) (u : Tgt) (ty : VType)
  /-- VLANE (R215). Gets or replaces one lane. -/
  | vlane (p : Pm) (t : Tgt) (u : Tgt) (ty : VType) (put : Bool)
  /-- VDOT (R214). Forms an exact dot product, optionally plus an addend, rounded once. -/
  | vdot (p : Pm) (t : Tgt) (u : Tgt) (ty : FType) (rnd : Round)
  /-- MLDA (R223). Queues a tile load of an A tile from virtual device memory. -/
  | mlda (p : Pm) (ty : MatType) (buf : Bool)
  /-- MLDB (R223). Queues a tile load of a B tile from virtual device memory. -/
  | mldb (p : Pm) (ty : MatType) (buf : Bool)
  /-- MLDL (R223). Queues a tile load from local memory into any tile buffer. -/
  | mldl (p : Pm) (ty : MatType) (buf : TileBuf)
  /-- MMA (R222). Queues a tile multiply-accumulate into a binary128 accumulator in z, k or d mode. -/
  | mma (p : Pm) (ty : MatType) (mode : MmaMode)
  /-- MST (R226). Queues a rounded store of an accumulator tile to device or local memory. -/
  | mst (p : Pm) (ty : MatType) (acc : BitVec 2)
  /-- MREL (R227). Queues a release of an accumulator tile as wide tokens followed by EOR and unmaps it. -/
  | mrel (p : Pm) (t : Tgt) (ty : MatType) (acc : BitVec 2)
  /-- MJOB (R229). Queues a whole blocked matrix product described by a job card. -/
  | mjob (p : Pm) (ty : MatType) (acc : BitVec 2)
  /-- CTR (R228). Advances a two-level counter in an n register, optionally taking a bound from port 63. -/
  | ctr (p : Pm) (t : Tgt) (u : Tgt) (bp : Bool) (reg : BitVec 4)
  /-- PLDEF (R236). Defines a plane and clears its activity map after commit. -/
  | pldef (p : Pm) (plane : BitVec 4)
  /-- PSHIFT (R239). Shifts a whole plane over the region lattice with boundary modes. -/
  | pshift (p : Pm) (cst : Bool)
  /-- PSTEP (R241). Runs the resident rule blocks over every site of stepped bricks. -/
  | pstep (p : Pm)
  /-- PACT (R237). Gets, activates, adopts, deactivates or tidies bricks of a plane. -/
  | pact (p : Pm) (t : Tgt) (u : Tgt) (sub : PactSub)
  /-- PSUM (R243). Delivers the sum, maximum or minimum of a plane over the PE's sub-lattice. -/
  | psum (p : Pm) (t : Tgt) (u : Tgt) (sub : PsumSub)
  /-- PCOPY (R244). Copies or swaps planes after commit. -/
  | pcopy (p : Pm) (sub : PcopySub)
  /-- LMARCH (R245). Marches a ray through an occupancy plane with exact arithmetic. -/
  | lmarch (p : Pm) (t : Tgt) (u : Tgt) (plane : BitVec 4)
  /-- SITE (R242). Delivers site values, coordinates, rule index, walls or lane count in a rule block. -/
  | site (p : Pm) (t : Tgt) (u : Tgt) (sel : SiteSel)
  /-- TIME_NOW (R309). Delivers the logical time of the current firing or block. -/
  | timeNow (p : Pm) (t : Tgt) (u : Tgt)
  /-- TIME_CMP (R309). Compares two times and counts equal leading fields. -/
  | timeCmp (p : Pm) (t : Tgt) (u : Tgt)
  /-- TIME_MAKE (R309). Sets or increases one field of a time, optionally truncating deeper counters. -/
  | timeMake (p : Pm) (t : Tgt) (u : Tgt)
  /-- TIME_FIELD (R309). Delivers one field of a time. -/
  | timeField (p : Pm) (t : Tgt) (u : Tgt)
  /-- FRONT_READ (R310). Queries the root and delivers the announced frontier of a location. -/
  | frontRead (p : Pm) (t : Tgt) (u : Tgt)
  /-- FRONT_WAIT (R310). Waits until a location's frontier passes a time and delivers it. -/
  | frontWait (p : Pm) (t : Tgt) (u : Tgt)
  /-- FRONT_SUBSCRIBE (R311). Subscribes the thread's bay, or binds a node's frontier port, to a location. -/
  | frontSubscribe (p : Pm)
  /-- TCAP_NEW (R312). Opens a capability in a free slot at a permitted time. -/
  | tcapNew (p : Pm) (t : Tgt) (u : Tgt)
  /-- TCAP_ADVANCE (R312). Moves a held capability to a later time. -/
  | tcapAdvance (p : Pm)
  /-- TCAP_DROP (R312). Drops a held capability; a source's last drop also sends EOS. -/
  | tcapDrop (p : Pm)
  /-- CALLQ (R329). Sends a 64-byte call record to a typed coprocessor queue at commit. -/
  | callq (p : Pm) (queue : Queue) (ord : Bool)
  /-- SYS_TRAP (R372). Raises the precise fault SWTRAP with a code. -/
  | sysTrap (p : Pm)
  /-- SYS_ERET (R373). Leaves the handler in RETRY, SKIP or SEAL mode. -/
  | sysEret (p : Pm)
  /-- SYS_BKPT (R372). Raises BREAK to the executive when debugging is enabled, otherwise acts as NULL. -/
  | sysBkpt (p : Pm)
  /-- SYS_FEATQ (R374). Delivers the part code, die and feature bits. -/
  | sysFeatq (p : Pm) (t : Tgt) (u : Tgt)
  /-- SYS_WDOG (R375). Delivers SYS_WDOG and lowers the deadline or sets the stall limit. -/
  | sysWdog (p : Pm) (t : Tgt) (u : Tgt)
  /-- SYS_PMONCTL (R400). Programs, enables or clears bay counters at commit. -/
  | sysPmonctl (p : Pm)
  /-- SYS_PMONRD (R401). Delivers a counter's count word or the region sum. -/
  | sysPmonrd (p : Pm) (t : Tgt) (u : Tgt)
  /-- SYS_RRMARK (R402). Folds a value into the agent's path digest at commit. -/
  | sysRrmark (p : Pm)
  /-- SYS_TLBINV (R376). Drops matching cached translations at every translator. -/
  | sysTlbinv (p : Pm)
  /-- SYS_CSLOAD (R377). Binds or unbinds a coprocessor control-store image for a job and unit type. -/
  | sysCsload (p : Pm)
  /-- SREG_RD (R378). Reads a system register into the dataflow. -/
  | sregRd (p : Pm) (t : Tgt) (num : BitVec 13)
  /-- SREG_WR (R378). Writes the writable fields of a system register at commit. -/
  | sregWr (p : Pm) (num : BitVec 13)
  /-- SECT_CFGLOAD (R281). Reads and checks a section image and sends its CONF tokens at commit. -/
  | sectCfgload (p : Pm)
  /-- SECT_ARM (R282). Opens source capabilities at a new epoch and sends BOUND tokens. -/
  | sectArm (p : Pm)
  /-- SECT_BOUND (R283). Sends a BOUND token to port 63 of a named PE. -/
  | sectBound (p : Pm)
  /-- SECT_DRAIN (R284). Stops every source, drops its capabilities and sends EOS. -/
  | sectDrain (p : Pm)
  /-- SECT_SINKW (R285). Waits until the frontier at every sink passes a time and delivers the least frontier. -/
  | sectSinkw (p : Pm) (t : Tgt) (u : Tgt)
  /-- SECT_RELEASE (R286). Waits for the region to be idle, clears its state and returns its bays. -/
  | sectRelease (p : Pm)
  /-- SECT_GRED (R287). Reduces a register over a group's members after a frontier passes. -/
  | sectGred (p : Pm) (t : Tgt) (u : Tgt)
  /-- SECT_GBCAST (R287). Writes a value into a register of every member of a group. -/
  | sectGbcast (p : Pm)
  /-- SLICE_ACCESS (R55). A slice takes a request from a class queue and applies it to its line in line order, updating leases. -/
  | sliceAccess (slice cls victim : Nat) (sram : SoftError)
  /-- SECTOR_FILL (R55). A sector fill from HBM lands, correcting or poisoning, and the waiting requests are applied in arrival order. -/
  | sectorFill (slice idx : Nat) (ecc : SoftError)
  /-- BOLTER_FILL (R66). The storage blocks of a view sector return and are decoded into engine form. -/
  | bolterFill (slice idx : Nat)
  /-- SCRUB_READ (R31). The base-die scrubber reads and checks a line, poisoning it on an uncorrectable error. -/
  | scrubRead (line : Nat) (ecc : SoftError)
  /-- MAILBOX_FORWARD (R61). A mailbox slice forwards a circuit's token across a seam when the next stage has room. -/
  | mailboxForward (slice tag : Nat)
  /-- RELAY_FORWARD (R289). A bridge-stack slice relays a request or its response unchanged toward its slice. -/
  | relayForward (packet : Nat)
  /-- ART_ENTRY_ENABLE (R22). A write setting EN of an address-range entry is accepted or refused with FAIL. -/
  | artEntryEnable (entry : Nat) (stride : BitVec 5)
  /-- ART_ENTRY_DISABLE (R23). A write clearing EN disables an address-range entry at every copy before it is acknowledged. -/
  | artEntryDisable (entry : Nat)
  /-- OWNER_TAG_WRITE (R27). A write to an owner tag is applied to all sixteen copies before acknowledgement. -/
  | ownerTagWrite (page : Nat) (tag : BitVec 16)
  /-- ERROR_LOG_FREE (R28). The executive frees an error-log entry by writing V = 0. -/
  | errorLogFree (slice entry : Nat)
  /-- LOST_CLEAR (R28). The executive clears the LOST count by writing 0. -/
  | lostClear (slice : Nat)
  /-- WRITE_BACK_RANGE (R62). MOP 001 starts a write-back of a range at all slices. -/
  | writeBackRange
  /-- WRITE_BACK_INVALIDATE_RANGE (R62). MOP 010 starts a write-back and invalidate of a range at all slices. -/
  | writeBackInvalidateRange
  /-- WRITE_BACK_INVALIDATE_ALL (R62). MOP 011 writes back and invalidates every line at all slices. -/
  | writeBackInvalidateAll
  /-- REBASE (R58). MOP 100 sets EVTS to 0 at every slice and clears LEASEHI, refused if any line is valid. -/
  | rebase
  /-- MAINTENANCE_DONE (R62). Every slice finishes the maintenance command and BUSY clears. -/
  | maintenanceDone
  /-- FORMAT_WINDOW_ENABLE (R64). A write setting EN of a format window is accepted or refused with FAIL. -/
  | formatWindowEnable (window : Nat) (word3 : W64)
  /-- FORMAT_WINDOW_DISABLE (R69). Disabling a window writes back and invalidates its view lines before acknowledgement. -/
  | formatWindowDisable (window : Nat)
  /-- REGISTER_WRITE (R378). A write to a system or control register with no behaviour of its own updates its writable fields. -/
  | registerWrite (place : RegPlace) (value : W64)
  /-- PAGE_RESUME (R80). The executive resumes a job and page, and every withheld translation walks again. -/
  | pageResume (job vpage : Nat)
  /-- PAGE_REFUSE (R80). The executive refuses a job and page, and withheld translations raise REFUSED. -/
  | pageRefuse (job vpage : Nat)
  /-- WITHHELD_TIMEOUT (R81). A translation withheld for 2^22 cycles drains its region to a checkpoint. -/
  | withheldTimeout (idx : Nat)
  /-- DEVICE_REPLY (R178). A device access response reaches its agent, updating pts and landing any deferred register. -/
  | deviceReply (packet : Nat)
  /-- COPY_TILE_START (R94). A copy engine holding a credit starts the next tile in traversal order after its overflow checks. -/
  | copyTileStart (bay stream : Nat)
  /-- COPY_TILE_COMPLETE (R92). The last access of a tile completes: an inbound slot becomes full or an outbound slot frees. -/
  | copyTileComplete (bay stream : Nat) (host : List Byte)
  /-- COPY_POISON (R100). A copy failure poisons every handle of the stream, queues a record and stops it. -/
  | copyPoison (bay stream : Nat) (fcode : BitVec 7)
  /-- FREE_NOTICE (R94). A free notice reaches the engine and adds a credit. -/
  | freeNotice (bay stream : Nat)
  /-- FULL_NOTICE (R92). A full notice reaches the engine, which drains the outbound slot. -/
  | fullNotice (bay stream : Nat)
  /-- COPY_MARKER (R102). The marker reaches a copy engine, which settles and saves its streams before passing it on. -/
  | copyMarker (bay : Nat)
  /-- PAGE_REFILL (R111). A local page refill lands, forwarding-table entries are applied over it, and waiting accesses proceed. -/
  | pageRefill (pe page : Nat)
  /-- FRAME_WRITEBACK (R106). A dirty frame's write-back to backing is acknowledged and the frame becomes clean. -/
  | frameWriteback (pe page : Nat)
  /-- FULL_EMPTY_WAKE (R109). A granule reaches the waited state and the oldest waiter is served. -/
  | fullEmptyWake (pe granule : Nat)
  /-- LMSTREAM_SOURCE_TOKEN (R114). The source engine reads 64 bytes and emits one wide token when the circuit has room. -/
  | lmstreamSourceToken (pe : Nat)
  /-- LMSTREAM_SINK_TOKEN (R198). The sink engine takes a token and writes it as an engine write, or stops on a bad kind. -/
  | lmstreamSinkToken (pe : Nat)
  /-- TOKEN_HOP (R119). A token advances one hop on its circuit when the next buffer or input port has room. -/
  | tokenHop (pe tag : Nat)
  /-- PACKET_HOP (R123). A packet advances on a packet plane by dimension order under the bubble rule. -/
  | packetHop (packet : Nat) (merge : Option Nat)
  /-- REQUEST_DAMAGED (R132). A damaged request packet is discarded and answered with UNCORR. -/
  | requestDamaged (packet : Nat)
  /-- REPLY_RESEND (R132). A damaged reply packet is resent from the previous hop. -/
  | replyResend (packet : Nat)
  /-- LINKUNCORR (R132). A reply fails 16 consecutive attempts on one hop and the requester takes LINKUNCORR. -/
  | linkuncorr (packet : Nat)
  /-- CIRCUIT_UNCORR (R132). An uncorrectable error on a circuit or Race flit is an unrecoverable fault of the destination node. -/
  | circuitUncorr (pe tag : Nat)
  /-- SOFTERR (R360). An uncorrectable error in PE storage is an unrecoverable fault of the owning node. -/
  | softerr (pe : Nat)
  /-- CONF_ARRIVAL (R264). A CONF token reaches a PE and is applied to its pending configuration. -/
  | confArrival (pe : Nat)
  /-- CONFIG_SWITCH (R265). A PE switches to its pending configuration once its last firing has committed and END has arrived. -/
  | configSwitch (pe : Nat)
  /-- NODE_FIRING (R151). A node fires at the least head time once its mandatory ports and kept or optional ports are ready. -/
  | nodeFiring (pe : Nat)
  /-- SOURCE_FIRING (R299). A source node fires at the least time among its held capabilities. -/
  | sourceFiring (pe : Nat)
  /-- AG_ADMIT (R197). An AG node admits a ready firing, oldest time first, up to eight in flight. -/
  | agAdmit (ag : Nat)
  /-- CONTROL_BLOCK_FETCH (R275). The control thread fetches and checks the block at its program counter. -/
  | controlBlockFetch (region : Nat)
  /-- BLOCK_COMMIT (R148). A complete firing or control block commits all its effects together and emits its count batch. -/
  | blockCommit
  /-- COALESCE_LAUNCH (R271). A coalescing port launches its batch on threshold, frontier or another kind. -/
  | coalesceLaunch (pe port : Nat)
  /-- COALESCE_TIMEOUT (R271). 4,096 cycles after the oldest record arrived, the batch launches with cause 11. -/
  | coalesceTimeout (pe port : Nat)
  /-- STREAM_BLOCK_SELECT (R268). The streaming dispatcher selects a block, snapshots its bitmap and sends its image. -/
  | streamBlockSelect (region : Nat)
  /-- STREAM_THREAD_REPORT (R269). A thread's next-block value on port 63 sets its bit, and the round ends when all have reported. -/
  | streamThreadReport (region pe : Nat)
  /-- COUNT_BATCH_FORWARD (R300). A count unit or aggregator forwards or merges batches toward the root. -/
  | countBatchForward (unit : CountPlace) (mergeNext : Bool)
  /-- ROOT_BATCH_APPLY (R300). The root applies a batch whole and recomputes frontiers. -/
  | rootBatchApply (job : Nat)
  /-- ANNOUNCEMENT_ARRIVAL (R301). A frontier announcement reaches a subscribed port or agent and updates its frontier. -/
  | announcementArrival (job idx : Nat)
  /-- PEER_BATCH (R387). A batch from a peer root arrives and is applied in arrival order. -/
  | peerBatch (job : Nat) (changes : PeerChanges) (stamp : Nat)
  /-- PEER_CONNECTION_LOSS (R387). A root-to-root connection fails and every module aborts the job with PEERLOST. -/
  | peerConnectionLoss (job : Nat)
  /-- MMA_EXECUTE (R222). The matrix unit runs an MMA from its queue, mapping and draining tiles. -/
  | mmaExecute (pe : Nat) (residueOk : Bool)
  /-- TILE_LOAD_EXECUTE (R223). A queued tile load fills its buffer row by row, holding on page faults. -/
  | tileLoadExecute (pe : Nat)
  /-- MST_EXECUTE (R226). A queued MST rounds an accumulator and writes its units. -/
  | mstExecute (pe : Nat)
  /-- MREL_EXECUTE (R227). A queued MREL sends the tile as wide tokens and EOR, then frees the tile. -/
  | mrelExecute (pe : Nat)
  /-- MJOB_EXECUTE (R229). A queued MJOB walks its index space of tile loads, MMAs and MSTs. -/
  | mjobExecute (pe : Nat)
  /-- MATRIX_MARKER (R230). The marker reaches a PE's matrix unit, which stops at a boundary and saves its state. -/
  | matrixMarker (pe : Nat)
  /-- LATTICE_LOCAL_APPLY (R234). A committed PLDEF, PACT or PCOPY is applied as one step in the PE's local order. -/
  | latticeLocalApply (pe : Nat)
  /-- PSHIFT_RUN (R239). A committed PSHIFT exchanges Race data with neighbours and writes the destination plane. -/
  | pshiftRun (region : Nat)
  /-- PSTEP_RUN (R241). A committed PSTEP exchanges rims, fires rule blocks per lane group and applies all writes together. -/
  | pstepRun (region : Nat)
  /-- MARCH_HANDOFF (R246). A ray crossing into another PE's sub-lattice is handed to that PE's march engine. -/
  | marchHandoff (pe : Nat)
  /-- CALL_TAKE (R325). A coprocessor unit takes a call from its queue, loading the job's control store if needed. -/
  | callTake (die : Nat) (queue : Queue) (unit : Nat)
  /-- CALL_RETURN (R331). A completed call sends its return record once earlier-time returns on its circuit have left. -/
  | callReturn (die : Nat) (queue : Queue) (unit : Nat)
  /-- ZB_RELEASE (R334). The frontier at a ZB queue passes a time and the held calls are applied in SEQ order. -/
  | zbRelease (die unit : Nat)
  /-- UNIT_TIMEOUT (R337). A call that has run 2^24 unit cycles faults inside its unit. -/
  | unitTimeout (die : Nat) (queue : Queue) (unit : Nat)
  /-- QUEUE_MARKER (R340). The marker reaches a coprocessor queue, which saves queued and held calls. -/
  | queueMarker (die : Nat) (queue : Queue) (region : Nat)
  /-- WS_ENTRY_READ (R313). The Windshaft reads a kernel-graph entry and checks it. -/
  | wsEntryRead (job : Nat)
  /-- WS_POOL_ENTER (R317). A ready entry enters the ready pool when a place frees, and is dispatched or bids. -/
  | wsPoolEnter (job : Nat)
  /-- WS_ENTRY_COMPLETE (R318). An entry completes once its agents' writes are acknowledged, or fails with WSFAIL. -/
  | wsEntryComplete (job entry : Nat)
  /-- SLUICE_DECISION (R321). The Sluice ranks bids and admits those that fit, counting bypasses. -/
  | sluiceDecision
  /-- HANDLER_ENTRY (R354). The control thread enters its handler with the oldest interrupting record. -/
  | handlerEntry (region : Nat)
  /-- QOVF (R353). A record arriving at a full fault queue stops and contains the region. -/
  | qovf (region : Nat) (record : TrapRecord)
  /-- DEADLINE (R358). DLEFT reaches 0 and the region is contained with class DEADLINE. -/
  | deadline (region : Nat)
  /-- STALL (R358). The stall count reaches its limit and the region is contained. -/
  | stall (region : Nat)
  /-- HALT_GRACE_EXPIRY (R358). The thread fails to halt within 2^20 cycles after a watchdog and the section is aborted. -/
  | haltGraceExpiry (region : Nat)
  /-- JOBDEADLINE (R359). The job budget runs out and the executive aborts the job. -/
  | jobdeadline (job : Nat)
  /-- PREEMPT_INJECT (R361). The executive makes every source of a domain send MARK. -/
  | preemptInject (region : Nat)
  /-- MARK_RECEIVED (R362). A node's first MARK makes it save state and channel tokens and forward MARK. -/
  | markReceived (pe port : Nat)
  /-- CUT_COMPLETE (R364). Every agent has saved and written back, and the domain's bays are freed. -/
  | cutComplete (region : Nat)
  /-- DRAINTIMEOUT (R364). A cut not complete within 2^24 cycles contains the domain and loses the context. -/
  | draintimeout (region : Nat)
  /-- RESTORE_CONTEXT (R368). A saved context is checked and reloaded onto admitted bays. -/
  | restoreContext (context : Nat)
  /-- JOBSUBMIT (R385). A host submits a launch package and the executive places and launches the job. -/
  | jobsubmit (conn : Nat) (seq : Word) (pkg : LaunchPackage)
  /-- JOBABORT (R385). A host aborts a job. -/
  | jobabort (conn : Nat) (seq : Word) (job : Nat)
  /-- EPATTACH (R386). A host attaches an endpoint range to a job. -/
  | epattach (conn : Nat) (seq : Word) (job idx extent : Nat)
  /-- EPDETACH (R385). A host detaches an endpoint unless an open stream names it. -/
  | epdetach (conn : Nat) (seq : Word) (job idx : Nat)
  /-- CHECKPOINT (R392). Drains every context and writes all device memory to a safe-store endpoint. -/
  | checkpoint (conn : Nat) (seq : Word) (idx : Nat)
  /-- RESTORE (R392). Writes a checkpoint image back and restores each saved context. -/
  | restoreImage (conn : Nat) (seq : Word) (idx : Nat)
  /-- TELEMETRY (R385). Returns power states, temperatures, coolant readings and counter snapshots. -/
  | telemetry (conn : Nat) (seq : Word)
  /-- REPLAY (R395). Runs a recorded job again for a number of passes, reporting each. -/
  | replay (conn : Nat) (seq : Word) (job npass : Nat)
  /-- EXPORT (R389). Translates a virtual range once and fixes it for remote access under an export index. -/
  | exportRange (conn : Nat) (seq : Word) (job : Nat) (base len : W64) (perm : BitVec 2)
  /-- UNEXPORT (R385). Frees an export index once every remote operation on it is acknowledged. -/
  | unexportRange (conn : Nat) (seq : Word) (job idx : Nat)
  /-- RMA_READ (R389). The hub serves a remote read of an exported range line by line at the slices. -/
  | rmaRead (conn job idx offset len : Nat)
  /-- RMA_WRITE (R389). The hub serves a remote write into an exported range. -/
  | rmaWrite (conn job idx offset : Nat) (data : List Byte)
  /-- RMA_ATOMIC (R389). The hub serves an 8-byte remote atomic in the slice ALU. -/
  | rmaAtomic (conn job idx offset : Nat) (sub : AtomSub) (operand : W64)
  /-- ENDPOINT_ACK (R200). The host interface acknowledges an endpoint write or atomic, delivering any old value. -/
  | endpointAck (transfer : Nat) (old : W64)
  /-- EPFAIL (R199). An endpoint transfer is refused or its connection is lost, failing registers and queuing EPFAIL. -/
  | epfail (transfer : Nat)
  /-- PAGE_CAPTURE (R394). The first job write to an uncaptured page waits while the page is copied to the capture area. -/
  | pageCapture (job page : Nat)
  /-- POWER_UP (R390). Management core 0 runs the boot ROM, trains memory and requests the executive image. -/
  | powerUp
  /-- BOOT_IMAGE_ARRIVAL (R390). The executive image arrives, its signature is checked, and the executive starts. -/
  | bootImageArrival (hosts : List Nat) (signatureOk : Bool)
  /-- BOOT_RETRY (R391). After 2^30 cycles without a verified image the boot ROM requests again. -/
  | bootRetry
  /-- BAY_IDLE_ENTRY (R404). A bay holding no region gates its clock within 1,024 cycles. -/
  | bayIdleEntry (bay : Nat)
  /-- THERMAL_THROTTLE (R405). A die junction reaches 95 C and the fabric clock steps down until below 90 C. -/
  | thermalThrottle (die celsius : Nat)
  /-- THERMAL_SHUTDOWN (R405). A junction reaches 105 C and the module stops every job and powers the fabric down. -/
  | thermalShutdown (die celsius : Nat)
  /-- BREAK_RESUME (R372). The executive sets SKIPBK and resumes an agent whose BKPT delivered a BREAK record to it. -/
  | breakResume (agent : Agent)
  /-- CONNECTION_REQUEST (R384). A host opens an Ultra Ethernet connection, which the executive accepts only if the host is named in its image. -/
  | connectionRequest (host : Nat)
  /-- BADMSG (R385). A command message with a reserved OP or a nonzero reserved header bit is answered BADMSG and has no other effect. -/
  | badmsg (conn : Nat) (seq : Word) (op : Byte)
  /-- RMA_READ_RESPONSE (R385). Host memory data that the executive read by RMA, such as a launch package or a checkpoint image, arrives at the module. -/
  | rmaReadResponse (conn : Nat) (data : List Byte)
  /-- BAY_POWER_GATING (R404). The executive power-gates a bay into OFF, or returns it from OFF. -/
  | bayPowerGating (bay : Nat) (off : Bool)
  /-- SELF_REFRESH (R404). The executive places an HBM stack in self-refresh. -/
  | selfRefresh (stack : Nat) (on : Bool)
  deriving DecidableEq, Repr

/-- Whether a constructor is an encoded instruction (it has a word) or a step of the machine. -/
def Instr.encoded : Instr → Bool
  | .read _ _ _ _ => true
  | .mov _ _ _ => true
  | .movi _ _ _ => true
  | .movis _ _ _ => true
  | .null _ _ _ => true
  | .recv _ _ _ => true
  | .recvk _ _ _ => true
  | .recvo _ _ _ => true
  | .join _ _ _ _ => true
  | .bro _ _ _ => true
  | .bri _ _ => true
  | .callo _ _ _ => true
  | .retb _ _ => true
  | .halt _ => true
  | .fence _ _ _ => true
  | .add _ _ _ => true
  | .sub _ _ _ => true
  | .mul _ _ _ => true
  | .mulh _ _ _ _ => true
  | .div _ _ _ _ => true
  | .rem _ _ _ _ => true
  | .and _ _ _ => true
  | .or _ _ _ => true
  | .xor _ _ _ => true
  | .andn _ _ _ => true
  | .shl _ _ _ => true
  | .shr _ _ _ => true
  | .sra _ _ _ => true
  | .rot _ _ _ => true
  | .min _ _ _ _ => true
  | .max _ _ _ _ => true
  | .absneg _ _ _ _ => true
  | .bitc _ _ _ _ => true
  | .bfx _ _ _ _ => true
  | .bfi _ _ _ => true
  | .cmp _ _ _ _ _ => true
  | .sel _ _ _ _ => true
  | .ext _ _ _ _ _ => true
  | .addi _ _ _ => true
  | .andi _ _ _ => true
  | .ori _ _ _ => true
  | .xori _ _ _ => true
  | .shli _ _ _ => true
  | .shri _ _ _ => true
  | .srai _ _ _ => true
  | .cmpi _ _ _ _ => true
  | .muli _ _ _ => true
  | .xlate _ _ _ _ _ => true
  | .paadd _ _ _ => true
  | .paoff _ _ _ => true
  | .ld _ _ _ _ _ => true
  | .st _ _ _ _ => true
  | .ldv _ _ _ _ => true
  | .stv _ _ _ => true
  | .ldl _ _ _ _ _ => true
  | .stl _ _ _ _ => true
  | .ldlw _ _ _ _ _ _ => true
  | .stlf _ _ _ _ _ => true
  | .ldlv _ _ _ _ => true
  | .stlv _ _ _ => true
  | .atom _ _ _ _ _ _ => true
  | .cas _ _ _ _ _ => true
  | .atoml _ _ _ _ _ _ => true
  | .bufdef _ _ => true
  | .bufget _ _ _ _ => true
  | .bufput _ _ => true
  | .bufstat _ _ _ _ => true
  | .cpyopen _ _ => true
  | .cpyclose _ _ => true
  | .cpywait _ _ _ _ => true
  | .gather _ _ _ _ => true
  | .scatter _ _ => true
  | .epatom _ _ _ _ => true
  | .epfence _ => true
  | .lmstream _ _ => true
  | .fadd _ _ _ _ _ => true
  | .fsub _ _ _ _ _ => true
  | .fmul _ _ _ _ _ => true
  | .fma _ _ _ _ _ => true
  | .fdiv _ _ _ _ _ => true
  | .fsqrt _ _ _ _ _ => true
  | .frsq _ _ _ _ _ => true
  | .fminmax _ _ _ _ _ => true
  | .fcmp _ _ _ _ _ => true
  | .fclass _ _ _ _ => true
  | .fsign _ _ _ _ _ => true
  | .frnd _ _ _ _ _ => true
  | .fexp2 _ _ _ _ _ => true
  | .flog2 _ _ _ _ _ => true
  | .cvt _ _ _ _ _ _ _ => true
  | .cvti _ _ _ _ _ _ => true
  | .cvtf _ _ _ _ _ _ => true
  | .gxpack _ _ _ _ => true
  | .gxunp _ _ _ _ _ => true
  | .vred _ _ _ _ _ => true
  | .vshuf _ _ _ _ _ => true
  | .vbcast _ _ _ _ => true
  | .vlane _ _ _ _ _ => true
  | .vdot _ _ _ _ _ => true
  | .mlda _ _ _ => true
  | .mldb _ _ _ => true
  | .mldl _ _ _ => true
  | .mma _ _ _ => true
  | .mst _ _ _ => true
  | .mrel _ _ _ _ => true
  | .mjob _ _ _ => true
  | .ctr _ _ _ _ _ => true
  | .pldef _ _ => true
  | .pshift _ _ => true
  | .pstep _ => true
  | .pact _ _ _ _ => true
  | .psum _ _ _ _ => true
  | .pcopy _ _ => true
  | .lmarch _ _ _ _ => true
  | .site _ _ _ _ => true
  | .timeNow _ _ _ => true
  | .timeCmp _ _ _ => true
  | .timeMake _ _ _ => true
  | .timeField _ _ _ => true
  | .frontRead _ _ _ => true
  | .frontWait _ _ _ => true
  | .frontSubscribe _ => true
  | .tcapNew _ _ _ => true
  | .tcapAdvance _ => true
  | .tcapDrop _ => true
  | .callq _ _ _ => true
  | .sysTrap _ => true
  | .sysEret _ => true
  | .sysBkpt _ => true
  | .sysFeatq _ _ _ => true
  | .sysWdog _ _ _ => true
  | .sysPmonctl _ => true
  | .sysPmonrd _ _ _ => true
  | .sysRrmark _ => true
  | .sysTlbinv _ => true
  | .sysCsload _ => true
  | .sregRd _ _ _ => true
  | .sregWr _ _ => true
  | .sectCfgload _ => true
  | .sectArm _ => true
  | .sectBound _ => true
  | .sectDrain _ => true
  | .sectSinkw _ _ _ => true
  | .sectRelease _ => true
  | .sectGred _ _ _ => true
  | .sectGbcast _ => true
  | .sliceAccess _ _ _ _ => false
  | .sectorFill _ _ _ => false
  | .bolterFill _ _ => false
  | .scrubRead _ _ => false
  | .mailboxForward _ _ => false
  | .relayForward _ => false
  | .artEntryEnable _ _ => false
  | .artEntryDisable _ => false
  | .ownerTagWrite _ _ => false
  | .errorLogFree _ _ => false
  | .lostClear _ => false
  | .writeBackRange => false
  | .writeBackInvalidateRange => false
  | .writeBackInvalidateAll => false
  | .rebase => false
  | .maintenanceDone => false
  | .formatWindowEnable _ _ => false
  | .formatWindowDisable _ => false
  | .registerWrite _ _ => false
  | .pageResume _ _ => false
  | .pageRefuse _ _ => false
  | .withheldTimeout _ => false
  | .deviceReply _ => false
  | .copyTileStart _ _ => false
  | .copyTileComplete _ _ _ => false
  | .copyPoison _ _ _ => false
  | .freeNotice _ _ => false
  | .fullNotice _ _ => false
  | .copyMarker _ => false
  | .pageRefill _ _ => false
  | .frameWriteback _ _ => false
  | .fullEmptyWake _ _ => false
  | .lmstreamSourceToken _ => false
  | .lmstreamSinkToken _ => false
  | .tokenHop _ _ => false
  | .packetHop _ _ => false
  | .requestDamaged _ => false
  | .replyResend _ => false
  | .linkuncorr _ => false
  | .circuitUncorr _ _ => false
  | .softerr _ => false
  | .confArrival _ => false
  | .configSwitch _ => false
  | .nodeFiring _ => false
  | .sourceFiring _ => false
  | .agAdmit _ => false
  | .controlBlockFetch _ => false
  | .blockCommit => false
  | .coalesceLaunch _ _ => false
  | .coalesceTimeout _ _ => false
  | .streamBlockSelect _ => false
  | .streamThreadReport _ _ => false
  | .countBatchForward _ _ => false
  | .rootBatchApply _ => false
  | .announcementArrival _ _ => false
  | .peerBatch _ _ _ => false
  | .peerConnectionLoss _ => false
  | .mmaExecute _ _ => false
  | .tileLoadExecute _ => false
  | .mstExecute _ => false
  | .mrelExecute _ => false
  | .mjobExecute _ => false
  | .matrixMarker _ => false
  | .latticeLocalApply _ => false
  | .pshiftRun _ => false
  | .pstepRun _ => false
  | .marchHandoff _ => false
  | .callTake _ _ _ => false
  | .callReturn _ _ _ => false
  | .zbRelease _ _ => false
  | .unitTimeout _ _ _ => false
  | .queueMarker _ _ _ => false
  | .wsEntryRead _ => false
  | .wsPoolEnter _ => false
  | .wsEntryComplete _ _ => false
  | .sluiceDecision => false
  | .handlerEntry _ => false
  | .qovf _ _ => false
  | .deadline _ => false
  | .stall _ => false
  | .haltGraceExpiry _ => false
  | .jobdeadline _ => false
  | .preemptInject _ => false
  | .markReceived _ _ => false
  | .cutComplete _ => false
  | .draintimeout _ => false
  | .restoreContext _ => false
  | .jobsubmit _ _ _ => false
  | .jobabort _ _ _ => false
  | .epattach _ _ _ _ _ => false
  | .epdetach _ _ _ _ => false
  | .checkpoint _ _ _ => false
  | .restoreImage _ _ _ => false
  | .telemetry _ _ => false
  | .replay _ _ _ _ => false
  | .exportRange _ _ _ _ _ _ => false
  | .unexportRange _ _ _ _ => false
  | .rmaRead _ _ _ _ _ => false
  | .rmaWrite _ _ _ _ _ => false
  | .rmaAtomic _ _ _ _ _ _ => false
  | .endpointAck _ _ => false
  | .epfail _ => false
  | .pageCapture _ _ => false
  | .powerUp => false
  | .bootImageArrival _ _ => false
  | .bootRetry => false
  | .bayIdleEntry _ => false
  | .thermalThrottle _ _ => false
  | .thermalShutdown _ _ => false
  | .breakResume _ => false
  | .connectionRequest _ => false
  | .badmsg _ _ _ => false
  | .rmaReadResponse _ _ => false
  | .bayPowerGating _ _ => false
  | .selfRefresh _ _ => false

end Sys2Proof
end

