-- ==== Sys2Proof/Machine/State.lean ====
section
/-! DEFINITION. State: every piece of state that the manual gives the machine, as plain data, and the machine right
after reset. INVENTORY.md lists each field with the rule that names it and its reset value. -/

namespace Sys2Proof.Machine

/-! ## Values and tokens -/

/-- The kind of a value or token (09 R142, R145): the eight token kinds and the internal kind NULL. -/
inductive Kind where
  | data
  | eos
  | eor
  | err
  | mark
  | bound
  | conf
  | absent
  | null
  deriving DecidableEq, Repr

/-- A value in a block or in a port: kind, width, CAP bit and payload (09 R142, R145). -/
structure Value where
  kind : Kind
  wide : Bool
  cap  : Bool
  bits : W512
  deriving DecidableEq, Repr

/-- A token: a value, its logical time, and the stamp that travels beside the tag (09 R142; 16 R250). -/
structure Token where
  val   : Value
  time  : LTime
  stamp : Nat
  deriving DecidableEq, Repr

/-- The flags of Table 3-3: NV, DZ, OF, UF, NX (03 R43). -/
structure Flags where
  nv : Bool
  dz : Bool
  ovf : Bool
  unf : Bool
  nx : Bool
  deriving DecidableEq, Repr

/-- No flag. -/
def Flags.none : Flags := ⟨false, false, false, false, false⟩

/-- Sticky union of flags (03 R43). -/
def Flags.or (a b : Flags) : Flags :=
  ⟨a.nv || b.nv, a.dz || b.dz, a.ovf || b.ovf, a.unf || b.unf, a.nx || b.nx⟩

/-! ## Faults as the machine reports them -/

/-- The fault codes of Table 24-1 (24 R351). -/
inductive FaultCode where
  | blockfmt
  | illinsn
  | feature
  | opdup
  | outcount
  | blockexit
  | lsiddup
  | regempty
  | regdup
  | recvorder
  | joinorder
  | xlate
  | capability
  | align
  | lmrange
  | memerr
  | lmuncorr
  | lmrefill
  | fetch
  | badbuf
  | bufbusy
  | bufstate
  | bufdup
  | baddesc
  | copy
  | eprange
  | streamkind
  | epfail
  | matstate
  | matopnd
  | mataddr
  | badjob
  | boundkind
  | matload
  | matstore
  | matjob
  | badplane
  | badshift
  | pstepbind
  | marcharg
  | rulefault
  | timeovf
  | timeopnd
  | timecap
  | frontloc
  | frontsub
  | badroute
  | badgroup
  | sbbnext
  | calldepth
  | retempty
  | sectstate
  | secttime
  | sectdest
  | sectopnd
  | sinkerr
  | callfmt
  | swtrap
  | brk
  | sysopnd
  | privop
  | eretstate
  | csbad
  | racemismatch
  | conffmt
  | timeorder
  | linkuncorr
  | softerr
  | matresidue
  | sealed
  | deadline
  | stall
  | draintimeout
  | qovf
  | wsentry
  | wsfail
  | jobdeadline
  | ctxlost
  | restorefeat
  | countfull
  | coprerr
  deriving DecidableEq, Repr

/-- The code of a fault (24 Table 24-1). -/
def FaultCode.code : FaultCode → BitVec 12
  | .blockfmt => 0x001#12
  | .illinsn => 0x002#12
  | .feature => 0x003#12
  | .opdup => 0x004#12
  | .outcount => 0x005#12
  | .blockexit => 0x006#12
  | .lsiddup => 0x007#12
  | .regempty => 0x008#12
  | .regdup => 0x009#12
  | .recvorder => 0x00A#12
  | .joinorder => 0x00B#12
  | .xlate => 0x010#12
  | .capability => 0x011#12
  | .align => 0x012#12
  | .lmrange => 0x013#12
  | .memerr => 0x014#12
  | .lmuncorr => 0x015#12
  | .lmrefill => 0x016#12
  | .fetch => 0x017#12
  | .badbuf => 0x020#12
  | .bufbusy => 0x021#12
  | .bufstate => 0x022#12
  | .bufdup => 0x023#12
  | .baddesc => 0x024#12
  | .copy => 0x025#12
  | .eprange => 0x026#12
  | .streamkind => 0x027#12
  | .epfail => 0x028#12
  | .matstate => 0x030#12
  | .matopnd => 0x031#12
  | .mataddr => 0x032#12
  | .badjob => 0x033#12
  | .boundkind => 0x034#12
  | .matload => 0x035#12
  | .matstore => 0x036#12
  | .matjob => 0x037#12
  | .badplane => 0x040#12
  | .badshift => 0x041#12
  | .pstepbind => 0x042#12
  | .marcharg => 0x043#12
  | .rulefault => 0x044#12
  | .timeovf => 0x050#12
  | .timeopnd => 0x051#12
  | .timecap => 0x052#12
  | .frontloc => 0x053#12
  | .frontsub => 0x054#12
  | .badroute => 0x060#12
  | .badgroup => 0x061#12
  | .sbbnext => 0x062#12
  | .calldepth => 0x063#12
  | .retempty => 0x064#12
  | .sectstate => 0x065#12
  | .secttime => 0x066#12
  | .sectdest => 0x067#12
  | .sectopnd => 0x068#12
  | .sinkerr => 0x069#12
  | .callfmt => 0x06A#12
  | .swtrap => 0x070#12
  | .brk => 0x071#12
  | .sysopnd => 0x072#12
  | .privop => 0x073#12
  | .eretstate => 0x074#12
  | .csbad => 0x075#12
  | .racemismatch => 0x080#12
  | .conffmt => 0x081#12
  | .timeorder => 0x082#12
  | .linkuncorr => 0x083#12
  | .softerr => 0x084#12
  | .matresidue => 0x085#12
  | .sealed => 0x086#12
  | .deadline => 0x090#12
  | .stall => 0x091#12
  | .draintimeout => 0x092#12
  | .qovf => 0x093#12
  | .wsentry => 0x0A0#12
  | .wsfail => 0x0A1#12
  | .jobdeadline => 0x0A2#12
  | .ctxlost => 0x0A3#12
  | .restorefeat => 0x0A4#12
  | .countfull => 0x0A5#12
  | .coprerr => 0x0B0#12

/-- A fault with the information of its trap record (24 Table 24-2). -/
structure Trap where
  code  : FaultCode
  info0 : W64
  info1 : W64
  deriving DecidableEq, Repr

/-- A register: full with a value, empty, or failed with the fault that it records (09 R139, R141); the timestamp of
the load that filled it (16 R250), and whether a deferred write to it is still pending. -/
inductive RegState where
  | empty
  | full
  | failed (t : Trap)
  deriving DecidableEq, Repr

/-- A register of a control thread or of a node. -/
structure Reg where
  st      : RegState
  bits    : W512
  cap     : Bool
  ts      : Nat
  pending : Bool
  deriving DecidableEq, Repr

/-! ## Requests to device memory -/

/-- Slice error codes (02 Table 2-4). -/
inductive ErrCode where
  | unmapped
  | priv
  | guard
  | owner
  | uncorr
  | poison
  deriving DecidableEq, Repr

/-- What a request does at its line (04 R55, R60). -/
inductive ReqOp where
  /-- read `n` bytes -/
  | load
  /-- write `n` bytes -/
  | store
  /-- LDV: four granule accesses (11 R183) -/
  | loadV
  /-- STV: four granule accesses (11 R183) -/
  | storeV
  /-- a read-modify-write in the slice (11 Table 11-4) -/
  | atom (sub : AtomSub)
  /-- compare and swap (11 R184) -/
  | cas
  deriving DecidableEq, Repr

/-- Whom the reply of a request goes to. -/
inductive Origin where
  /-- a load slot of the block that owns the port -/
  | load (slot : Nat) (sz : Sz)
  /-- a store-class slot; its deferred registers take the old value -/
  | store (slot : Nat) (sz : Sz)
  /-- an access of a tile of a copy stream, with the local byte it stands for -/
  | copy (tile off : Nat)
  deriving DecidableEq, Repr

/-- A crossing of a seam: the die that a packet left, the die that it entered, the row or column of the seam, and the bridge
stack that relayed it (01 R8; 08 R123). -/
structure Crossing where
  out   : Nat
  into  : Nat
  at_   : Nat
  stack : Nat
  deriving DecidableEq, Repr

/-- Who makes a request, as the error log names it (02 Table 2-5): RKIND, and the global PE id or the unit number. -/
structure Requester where
  kind : Nat
  unit : Nat
  deriving DecidableEq, Repr

/-- A request to device memory or view space (02 R25; 04 R56). -/
structure Req where
  rid    : Nat
  port   : Nat
  op     : ReqOp
  addr   : Nat
  n      : Nat
  data   : W512
  data2  : W512
  pts    : Nat
  renew  : Bool
  job    : BitVec 16
  cls    : Nat
  pe     : Nat
  /-- the requester that an error log names (02 R28) -/
  from_  : Requester
  origin : Origin
  gran   : Nat
  acc    : W512
  regs   : List Nat
  /-- the lease length that it carries (04 R56) -/
  lease  : Nat
  /-- the seams that it has crossed, the last first: its response goes back over them (19 R289) -/
  via    : List Crossing
  deriving DecidableEq, Repr

/-- The reply to a request: the request, an error code or the value, and the line's tags (04 R56). -/
structure Reply where
  req    : Req
  err    : Option ErrCode
  val    : W512
  done   : Bool
  wts    : Nat
  rts    : Nat
  merged : Bool
  /-- the bytes of the whole line at the load's place in line order, for the loads that a router has merged into it (16 R253) -/
  line   : W512
  deriving DecidableEq, Repr

/-- Who makes the accesses of a memory port: an agent of the memory model (16 R248). -/
inductive Who where
  | blk (a : Agent)
  | copy (bay stream : Nat)
  deriving DecidableEq, Repr

/-- The memory side of an agent: its pts, the requests not yet sent, those in flight, and the greatest wts that a write
of it was acknowledged with (11 R178; 16 R248 to R252). -/
structure Port where
  pid    : Nat
  who    : Who
  region : Nat
  job    : Nat
  pts    : Nat
  outbox : List Req
  flight : List Req
  wHi    : Nat
  /-- the time and the header's address of its block, for a record (24 Table 24-2) -/
  time   : LTime
  addr   : W64
  deriving DecidableEq, Repr

/-- A place on the packet planes: a die, and the switch (x, y) on it (08 R123). -/
structure Place where
  die : Nat
  x   : Nat
  y   : Nat
  deriving DecidableEq, Repr

/-- The packet planes (08 Table 8-4). -/
inductive Plane where
  | memory
  | copy
  | exec
  deriving DecidableEq, Repr

/-- What a packet carries. -/
inductive Body where
  | req (r : Req)
  | reply (r : Reply)
  deriving DecidableEq, Repr

/-- A packet in flight: its plane, its place, the side it came in by (0 injected, 1 west, 2 east, 3 south, 4 north, 5 over a seam,
6 not yet injected: it waits where it is made), its destination, and how often it was resent on this hop (08 R122,
R123, R132). -/
structure Packet where
  plane  : Plane
  at_    : Place
  side   : Nat
  dst    : Place
  slice  : Nat
  body   : Body
  resent : Nat
  merged : Option Nat
  deriving DecidableEq, Repr

/-! ## Slices -/

/-- A sector of a line (04 R53). -/
inductive Sector where
  | invalid
  | clean
  | dirty
  deriving DecidableEq, Repr

/-- A line held by a slice: sector states, data, lease times, poison and the scale of a view line (04 R53). -/
structure Line where
  sectors : Vector Sector 4
  data    : W512
  wts     : Nat
  rts     : Nat
  poison  : Bool
  scale   : BitVec 8
  hasScale : Bool
  /-- soft errors in its SRAM that no access has found yet: in a sector 0 to 3, or 4 in its tag or lease (04 R70) -/
  errs    : List (Nat × SoftError)
  deriving DecidableEq, Repr

/-- A fill buffer: the line, the sectors being filled and the requests that wait, in arrival order (04 R55). -/
structure Fill where
  line    : Nat
  sectors : Nat
  waiting : List Req
  deriving DecidableEq, Repr

/-- An entry of the error log (02 Table 2-5). -/
structure ErrEntry where
  v     : Bool
  code  : BitVec 4
  cls   : BitVec 3
  addr  : BitVec 46
  job   : BitVec 16
  rkind : BitVec 2
  rid   : BitVec 32
  deriving DecidableEq, Repr

/-- A memory-side slice (04). -/
structure Slice where
  lines    : Map Line
  queues   : Vector (List Req) 5
  turn     : Nat
  fills    : List Fill
  evts     : Nat
  errlog   : Vector ErrEntry 16
  lost     : Nat
  corrHbm  : Nat
  corrSram : Nat
  mailbox  : Map (List Token)
  /-- soft errors in the oldest token of a mailbox queue, by queue (04 R70) -/
  mailErr  : Map SoftError
  deriving DecidableEq, Repr

/-- An entry of the address-range table (02 Table 2-2). -/
structure ArtEntry where
  base   : BitVec 40
  limit  : BitVec 40
  mask   : W64
  stride : BitVec 5
  fail   : BitVec 2
  en     : Bool
  deriving DecidableEq, Repr

/-- A format window (04 Table 4-3). -/
structure Window where
  vbase  : BitVec 46
  vlimit : BitVec 46
  sbase  : BitVec 46
  en     : Bool
  fmt    : BitVec 2
  sc     : Bool
  fail   : BitVec 3
  scbase : BitVec 46
  deriving DecidableEq, Repr

/-- The maintenance registers (04 Table 4-2). -/
structure Maint where
  maddr   : BitVec 46
  mlen    : W64
  busy    : Bool
  err     : Bool
  leasehi : Bool
  mop     : BitVec 3
  deriving DecidableEq, Repr

/-! ## Translation -/

/-- The permission that a page-fault request names (05 R80). -/
inductive Need where
  | none
  | read
  | write
  deriving DecidableEq, Repr

/-- A translator: one at each PE and control thread, at each copy engine, and at the hub (05 R79, R85). -/
inductive Translator where
  | pe (i : Nat)
  | engine (bay : Nat)
  | unit (die code n : Nat)
  | hub
  deriving DecidableEq, Repr

/-- A completed leaf translation kept in a translator's cache (05 R79): virtual page, size and the leaf. -/
structure TlbEntry where
  who   : Translator
  job   : Nat
  vpage : Nat
  big   : Bool
  entry : W64
  deriving DecidableEq, Repr

/-- Who waits for a withheld translation (05 R80, R85). -/
inductive Waiter where
  | slot (a : Agent) (slot : Nat)
  | stream (bay stream : Nat)
  | matrix (pe : Nat)
  | fetch (region : Nat)
  | hubEntry (job : Nat)
  | unit (die code n : Nat)
  deriving DecidableEq, Repr

/-- A withheld translation: who waits, the job and virtual page, the permission demanded, the cycle of its request, and
the executive's answer (05 R80, R81). -/
structure Withheld where
  waiter : Waiter
  region : Nat
  job    : Nat
  vpage  : Nat
  need   : Need
  since  : Nat
  answer : Option Bool
  deriving DecidableEq, Repr

/-! ## Copy engines and handles -/

/-- A slot of a handle (06 R92). -/
inductive SlotState where
  | free
  | filling
  | full
  | draining
  deriving DecidableEq, Repr

/-- A buffer handle (06 R91, Table 6-2). `opened` says that it was opened since its last BUFDEF (06 R96); `order` lists
the slots taken by the PE, oldest first. -/
structure Handle where
  psn    : Bool
  fcode  : BitVec 7
  dir    : BitVec 2
  isOpen : Bool
  eos    : Bool
  rd     : Nat
  wr     : Nat
  nsl    : Nat
  slotb  : Nat
  base   : Nat
  slots  : List SlotState
  order  : List Nat
  opened : Bool
  /-- tiles of the open stream that BUFGET has taken -/
  taken  : Nat
  /-- the pts of the tile in each slot, for the join of BUFGET (06 R99) -/
  slotPts : List Nat
  /-- the tiles of the open stream, and the pts of the copy that has closed, for the join (06 R93, R99) -/
  total  : Nat
  joinPts : Nat
  deriving DecidableEq, Repr

/-- A tensor descriptor, unpacked (06 Table 6-1). -/
structure Desc where
  base   : W64
  epidx  : Nat
  ep     : Bool
  esz    : Nat
  ndim   : Nat
  box    : List Nat
  pad    : W64
  stride : List Int
  start  : List Int
  extent : List Nat
  tiles  : List Nat
  deriving DecidableEq, Repr

/-- A tile in flight: its index in traversal order, its slot in each branch handle, and how many of its accesses have not
returned. -/
structure Tile where
  idx  : Nat
  slots : List Nat
  left : Nat
  pts  : Nat
  deriving DecidableEq, Repr

/-- What makes a stream the copy of a kernel-graph entry: the entry, the other descriptor, and the tile that the engine
stages (21 Table 21-3). The stream reads a tile by one descriptor and writes it by the other. -/
structure CopyPair where
  entry : Nat
  other : Desc
  stage : List Byte
  deriving DecidableEq, Repr

/-- A copy stream of a copy engine (06 R94 to R102). -/
structure Stream where
  live    : Bool
  issuer  : Agent
  region  : Nat
  job     : Nat
  desc    : Desc
  inbound : Bool
  /-- the branch handles: PE and handle number, branch 0 first (06 R97) -/
  handles : List (Nat × Nat)
  /-- branch 0, which names the stream in its record also after its handle has been closed (06 R96, R100) -/
  head    : Nat × Nat
  next    : Nat
  credits : List Nat
  notices : List Nat
  tiles   : List Tile
  stopped : Bool
  closing : Bool
  /-- the port of the opening commit, and the request number at the fork: the stream starts when the issuer's accesses below it
  have returned (06 R99; 16 R254) -/
  after   : Nat
  upto    : Nat
  started : Bool
  /-- a failure that has still to poison its handles: the code of Table 6-4 and the tile (06 R100) -/
  bad     : Option (Nat × Nat)
  /-- tiles, with their slots, that a marker has sent back and that are fetched again (06 R102) -/
  again   : List (Nat × List Nat)
  pair    : Option CopyPair
  port    : Port
  deriving DecidableEq, Repr

/-! ## Local memory -/

/-- An entry of the local page table (07 Table 7-2). -/
structure LptEntry where
  bppn : BitVec 30
  job  : BitVec 16
  gen  : BitVec 8
  p    : Bool
  d    : Bool
  pin  : Bool
  wb   : Bool
  deriving DecidableEq, Repr

/-- An entry of the store-to-load forwarding table (07 R111): bytes of a granule in the order taken, and the pending
full/empty action. -/
structure FwdEntry where
  gran : Nat
  data : BitVec 128
  mask : BitVec 16
  fill : Bool
  deriving DecidableEq, Repr

/-- A waiter for a granule: the agent, its slot, and the state it waits for (07 R109). -/
structure FeWaiter where
  gran  : Nat
  agent : Agent
  slot  : Nat
  full  : Bool
  deriving DecidableEq, Repr

/-- The LMSTREAM source engine of a PE (07 R114; 12 R198). -/
structure SrcEngine where
  busy  : Bool
  port  : Nat
  addr  : Nat
  left  : Nat
  time  : LTime
  stamp : Nat
  /-- it has met a fault of local memory, and goes on when the node is resumed -/
  hurt  : Bool
  deriving DecidableEq, Repr

/-- The LMSTREAM sink engine of a PE (07 R114; 12 R198). -/
structure SnkEngine where
  busy  : Bool
  port  : Nat
  addr  : Nat
  left  : Nat
  bad   : Option Token
  hurt  : Bool
  deriving DecidableEq, Repr

/-! ## The matrix unit -/

/-- A binary128 value by its bits (03). -/
abbrev Q128 := BitVec 128

/-- A tile load that runs in the queue: the source is device memory at a virtual address, or local memory. -/
structure TileLoad where
  buf    : TileBuf
  loc    : Bool
  base   : W64
  stride : W64
  deriving DecidableEq, Repr

/-- The level of a job card: a count and a role, 0 unused, 1 K, 2 M, 3 N (14 Table 14-5). -/
structure JobLevel where
  count : Nat
  role  : Nat
  deriving DecidableEq, Repr

/-- A job card (14 Table 14-5). -/
structure JobCard where
  abase : W64
  bbase : W64
  cbase : W64
  ars   : W64
  brs   : W64
  crs   : W64
  levels : List JobLevel
  otype : MatType
  rnd   : Round
  deriving DecidableEq, Repr

/-- What a command of the matrix unit does (14 R220). -/
inductive MatOp where
  | load (l : TileLoad)
  | mma (ty : MatType) (mode : MmaMode) (acc : Nat) (a1 b1 : Bool) (gamma : BitVec 32)
  | mst (ty : MatType) (acc : Nat) (base stride : W64) (rnd : Round) (loc : Bool)
  | mrel (ty : MatType) (acc : Nat) (port : Nat) (rnd : Round) (time : LTime)
  | job (ty : MatType) (acc : Nat) (card : JobCard)
  deriving DecidableEq, Repr

/-- A command in the queue of the matrix unit: its operation, its issuer (for the fault record), the port of the
issuing agent whose writes it waits for (16 R254), and its own progress: the row or unit, the index vector of a job and
the step within it (14 R223, R229, R230). -/
structure MatCmd where
  op     : MatOp
  agent  : Agent
  block  : W64
  slot   : Nat
  time   : LTime
  job    : Nat
  /-- the issuer is an executive agent: its accesses carry 0xFFFF (02 R25) -/
  exec   : Bool
  after  : Nat
  /-- the request number at which the command entered the queue (11 R188) -/
  id     : Nat
  pts    : Nat
  wHi    : Nat
  row    : Nat
  index  : List Nat
  phase  : Nat
  /-- tokens of an MREL that are still to leave -/
  tokens : List Token
  deriving DecidableEq, Repr

/-- A physical accumulator tile: free, mapped or draining (14 R219). -/
inductive PhysState where
  | free
  | mapped
  | draining
  deriving DecidableEq, Repr

/-- The matrix unit of a PE (14). -/
structure Matrix where
  bufs    : List (List Byte)
  tiles   : List (List Q128)
  phys    : List PhysState
  map     : List (Option Nat)
  rows    : List Nat
  mflags  : Flags
  queue   : List MatCmd
  stopped : Bool
  /-- the marker has reached the unit: it runs no further command (14 R230) -/
  cut     : Bool
  /-- the greatest wts returned to completed device tile loads of the node, for the joining FENCE (14 R224) -/
  joinPts : Nat
  /-- the same, of the commands of the PE's home control thread -/
  joinCtl : Nat
  /-- the EOS that follow tokens still to leave by their ports: the port, the tag of the circuit and the token (20 R299) -/
  behind  : List (Nat × Nat × Token)
  deriving DecidableEq, Repr

/-! ## The lattice unit -/

/-- An entry of the plane table (15 Table 15-1): the descriptor, the quiescent value and the activity map. -/
structure PlaneEntry where
  desc : W64
  q    : W64
  act  : BitVec 256
  deriving DecidableEq, Repr

/-- An operation of the lattice unit that runs after the commit that issued it (15 Table 15-2). -/
inductive LatOp where
  | pldef (plane : Nat) (desc q : W64)
  | pshift (word cst : W64)
  | pstep (win wout : W64)
  | pact (sub : PactSub) (plane word : Nat) (mask : W64)
  | pcopy (sub : PcopySub) (src dst : Nat)
  deriving DecidableEq, Repr

/-- A lattice operation that waits for its turn, with the time and slot that issued it. -/
structure LatPend where
  op   : LatOp
  time : LTime
  slot : Nat
  deriving DecidableEq, Repr

/-- The Race data that a PE has sent for a collective operation (15 R235): the number of the collective, its operand words
and time, and the values of its plane, brick by brick and site by site. -/
structure RaceData where
  idx  : Nat
  op   : LatOp
  time : LTime
  vals : List Nat
  deriving DecidableEq, Repr

/-- A ray in flight at a march engine (15 R245, R246): the issuer, its slot, the march's registers. -/
structure Ray where
  agent : Agent
  slot  : Nat
  plane : Nat
  cell  : List Int
  num   : List Int
  den   : List Int
  sgn   : List Int
  last  : Option (List Int)
  n     : Nat
  limit : Nat
  result : Option W64
  deriving DecidableEq, Repr

/-- A write that a rule firing makes: plane, site and value (15 R241). -/
structure SiteWrite where
  plane : Nat
  brick : Nat
  site  : Nat
  val   : W64
  deriving DecidableEq, Repr

/-- A lane group of a rule firing: the rule, its sites (brick and site index), and what SITE delivers for it
(15 R241, R242). -/
structure RuleGroup where
  rule  : Nat
  sites : List (Nat × Nat)
  inputs : List W512
  x     : W512
  y     : W512
  z     : W512
  rules : W512
  walls : W512
  deriving DecidableEq, Repr

/-- The PSTEP in progress on a PE: its words, the values read before it began, the lane groups still to fire, and the
writes gathered (15 R241). -/
structure StepRun where
  live   : Bool
  wout   : W64
  time   : LTime
  lanes  : Nat
  /-- input plane and site values of the snapshot, as lists of lane payloads per group -/
  groups : List RuleGroup
  writes : List SiteWrite
  flags  : Flags
  deriving DecidableEq, Repr

/-! ## Effects that wait for the commit (09 R148) -/

/-- The full/empty action of a local store (07 Table 7-3). -/
inductive FeAct where
  /-- STL, STLV, ATOML -/
  | keep
  /-- STLF -/
  | fill
  /-- STLF.w: the commit waits until the granule is empty -/
  | waitFill
  deriving DecidableEq, Repr

/-- How a control block ends (18 Table 18-1). -/
inductive ExitKind where
  | goto (pc : W64)
  | call (pc : W64)
  | ret
  | halt
  /-- SYS.eret with its mode and address (24 R373) -/
  | eret (mode : Nat) (skip : W64)
  deriving DecidableEq, Repr

/-- What a section's image gives one PE or AG node (29 R420): its place among the region's nodes, its CONF records, and its
output-port, switch and location tables. -/
structure PeImage where
  place : Nat
  confs : List W512
  outp  : Map (BitVec 16)
  sw    : Map (BitVec 16)
  locs  : Map (BitVec 32)
  /-- the byte offset of its record in the image (24 Table 24-2) -/
  base  : Nat
  deriving DecidableEq, Repr

/-- What the section commands know of one node: its place, the capability location of a source, whether its block reads
port 63 through CTR, the location of its port 63, and the groups that it names. -/
structure NodeInfo where
  place  : Nat
  source : Option Nat
  bound  : Bool
  portLoc : Option Nat
  groups : List Nat
  deriving DecidableEq, Repr

/-- A section as its region knows it: the image's address, its configured nodes, all its locations, its sinks, its control
location with its depth, the queue and hold locations of its calls, its mailbox edges, and its streaming block list with the
thread count and the entry block. -/
structure SectInfo where
  image  : W64
  nodes  : List NodeInfo
  locs   : List Nat
  sinks  : List Nat
  ctl    : Option (Nat × Nat)
  queues : List (Queue × Nat × Nat)
  mail   : List MailEdge
  sbb    : Map (List Word)
  nthr   : Nat
  entry  : Nat
  deriving DecidableEq, Repr

/-- A section image that CFGLOAD has read and checked (18 R281). -/
structure SectImage where
  info : SectInfo
  pes  : List PeImage
  rets : List (Nat × Queue)
  deriving DecidableEq, Repr

/-- What travels to the configuration input of a PE: a CONF record (17 R264), or the tables that belong to the configuration
(18 R423). -/
inductive ConfItem where
  | record (w : W512)
  | tables (outp : Map (BitVec 16)) (locs : Map (BitVec 32)) (nodeOff : Nat) (ruleOffs : Map Nat)
  deriving DecidableEq, Repr

/-- A section command that acts at commit (18 Table 18-2). -/
inductive SectOp where
  | cfgload (img : SectImage)
  | arm (payload : W64) (epoch : Nat)
  /-- the place of the node, the payload and the time -/
  | bound (place : Nat) (payload : W64) (time : LTime)
  | drain
  | sinkw
  | release
  | gred (root : Option Nat) (reg : Nat) (val : W64)
  | gbcast (grp reg : Nat) (val : W64)
  deriving DecidableEq, Repr

/-- A change of the capability slots (20 R312). -/
inductive TcapOp where
  | new (slot loc : Nat) (time : LTime)
  | advance (slot : Nat) (time : LTime)
  | drop (slot : Nat)
  deriving DecidableEq, Repr

/-- An effect of an instruction that takes place when its block commits (09 R148). -/
inductive Act where
  /-- a register written (`none`: the register keeps its value, 09 Table 9-15) -/
  | reg (idx : Nat) (v : Option Value)
  /-- a register that a deferred write empties (09 R141) -/
  | defer (idx : Nat)
  /-- a deferred load that has returned before the commit: its value and timestamp (09 R141; 16 R250) -/
  | landed (idx : Nat) (v : Value) (ts : Nat)
  /-- a deferred load that has failed before the commit (11 R181) -/
  | lost (idx : Nat) (t : Trap)
  /-- a delivery to an output port (`none`: NULL, nothing sent) -/
  | send (port : Nat) (v : Option Value)
  /-- the counter register that CTR updates (14 R228) -/
  | ctr (idx : Nat) (w : W64)
  /-- a store-class access to device memory: LSID, request and deferred registers -/
  | store (lsid : Nat) (r : Req)
  /-- SCATTER: a store that counts toward nothing (12 R196) -/
  | scatter (r : Req)
  /-- a store to local memory -/
  | lstore (lsid addr n : Nat) (data : W512) (fe : FeAct)
  /-- ATOML: the old value goes to the register at commit (11 R185) -/
  | latom (lsid addr n : Nat) (op : AtomSub) (data : W512) (sz : Sz) (reg : Option Nat)
  | bufdef (h : Nat) (word : W64)
  /-- the slot, and how many slots the handle had given at the issue (12 R195) -/
  | bufget (h slot taken : Nat) (eos : Bool)
  | bufput (h : Nat)
  | cpyopen (h : Nat) (d : Desc) (branches : List (Nat × Nat))
  | cpyclose (h : Nat)
  | lmSource (port addr len : Nat)
  | lmSink (port addr len : Nat)
  | epatom (ep : Nat) (off : Nat) (op : AtomSub) (operand : W64) (regs : List Nat)
  | epfence
  | fence (scope : FenceScope) (gslot : Nat)
  | matrix (op : MatOp)
  /-- MREL whose control word is not DATA: one token of that kind (14 R227) -/
  | mrelKind (port : Nat) (k : Kind)
  | lattice (op : LatOp)
  | subscribe (port loc : Nat)
  | tcap (op : TcapOp)
  | callq (queue : Queue) (ord : Bool) (record : W512)
  | pmonctl (word : W64)
  | rrmark (val : W64)
  | tlbinv (word va : W64)
  | csload (word base : W64)
  | wdog (word : W64)
  | sregWr (num : Nat) (val : W64)
  | sect (op : SectOp)
  deriving DecidableEq, Repr

/-! ## Blocks in execution -/

/-- The state of a slot of a block in execution (09 R144). -/
inductive Phase where
  /-- not issued -/
  | idle
  /-- issued, and waiting for a condition that another agent satisfies -/
  | blocked
  /-- issued, with a device access that has not returned -/
  | inflight
  /-- issued and finished -/
  | issued
  /-- its predicate arrived without matching: it never issues (09 R138) -/
  | skipped
  deriving DecidableEq, Repr

/-- A slot of a block in execution: its operands and predicate as delivered, and its state. -/
structure Slot where
  op0   : Option Value
  op1   : Option Value
  op2   : Option Value
  pred  : Option Value
  phase : Phase
  deriving DecidableEq, Repr

/-- The kind of a block (09 Table 9-1). -/
inductive BlockKind where
  | control
  | node
  | rule
  deriving DecidableEq, Repr

/-- How far a block has come: it runs, or it is committing. -/
inductive FramePhase where
  | running
  /-- committed its memory effects; waits for the FENCE (11 R189) and EPFENCE waits, up to this request number -/
  | fencing (upto : Nat)
  /-- everything has taken effect -/
  | done
  deriving DecidableEq, Repr

/-- An input token that the firing consumes at its commit: the port, and how many heads (09 R150 to R153). -/
structure Take where
  port  : Nat
  count : Nat
  deriving DecidableEq, Repr

/-- A block in execution: one firing or one control block (09 R144 to R148). -/
structure Frame where
  live   : Bool
  agent  : Agent
  kind   : BlockKind
  region : Nat
  job    : Nat
  /-- the PE whose local memory and handles the block uses (07 R104) -/
  pe     : Nat
  header : Word
  /-- the header's address (control), or what the trap record's BLOCK names -/
  addr   : W64
  words  : List Word
  slots  : List Slot
  /-- the slot whose turn it is -/
  turn   : Nat
  time   : LTime
  /-- the executive mode of the block (24 Table 24-3) -/
  exec   : Bool
  outs   : Nat
  stores : Nat
  lsids  : List Nat
  acts   : List (Nat × Act)
  /-- flags raised, with the slot that raised them (03 R43; 24 R378) -/
  flags  : List (Nat × Flags)
  takes  : List Take
  /-- handles named by BUFGET, BUFPUT, BUFDEF, CPYOPEN and CPYCLOSE so far, with the command (12 R194) -/
  bufs   : List (Nat × Nat)
  exit   : Option (ExitKind × BitVec 3)
  /-- output ports whose next action would overflow at this time (20 R293) -/
  ovf    : List Nat
  phase  : FramePhase
  /-- the request number at which the block began: the accesses of earlier commits have lower ones (16 R250) -/
  since  : Nat
  /-- the greatest wts of the writes that the block's FENCEs wait for (16 R252) -/
  fenceW : Nat
  /-- the host streams, by port, whose tiles its EPFENCE or FENCE.system waits for, and how many tiles of each (12 R200) -/
  epUpto : List (Nat × Nat)
  port   : Port
  /-- the lane group of a rule firing -/
  group  : RuleGroup
  lanes  : Nat
  deriving DecidableEq, Repr

/-- A soft error that strikes (02 R29; 04 R70; 07 R112; 08 R132): in a line of HBM; in a sector, or in the tag or lease (4), of a
line that a slice holds; in the oldest token of a mailbox queue; in a granule of a local memory; in a flit of a link into a bay, or in a
register, a FIFO, a configuration, a tile or a buffer of a PE of the bay (24 R360). It stays unseen until an access reads the place; those of the
bay are corrected at once, and SOFTERR, CIRCUIT_UNCORR and the like are the steps of those that cannot be. -/
inductive Upset where
  | hbm (line : Nat) (e : SoftError)
  | line (slice line part : Nat) (e : SoftError)
  | mailbox (slice queue : Nat) (e : SoftError)
  | granule (pe gran : Nat) (e : SoftError)
  | flit (bay : Nat)
  deriving DecidableEq, Repr

/-- Which step comes next: a step of the machine, the turn of a block's slot, or a soft error that strikes. A machine that runs its steps in an
order that the manual leaves open takes the order from this list (00 R3; 17 R274). -/
inductive Turn where
  | event (i : Instr)
  | agent (a : Agent)
  | slot (k : Nat)
  | upset (u : Upset)
  deriving DecidableEq, Repr

/-! ## Processing elements -/

/-- A configuration of a PE: the node block (header and words), rule blocks, group slots and coalescing ports
(17 R263), with the output-port table and the location table that belong to it (18 R423). -/
structure PeConfig where
  node   : Option (List Word)
  rules  : Map (List Word)
  groups : BitVec 36
  coalMask : W64
  coalTh : Map Nat
  outp   : Map (BitVec 16)
  locs   : Map (BitVec 32)
  nregs  : Map W64
  vregs  : Map (BitVec 256)
  ended  : Bool
  /-- the byte offsets of its block headers in the section image (24 Table 24-2) -/
  nodeOff : Nat
  ruleOffs : Map Nat
  deriving DecidableEq, Repr

/-- A coalescing port's batch: its records in arrival order and the cycle at which the oldest arrived (17 R271). -/
structure Batch where
  records : List Token
  since   : Nat
  deriving DecidableEq, Repr

/-- An input port: its tokens, head first, and the frontier that has been announced to it (08 R115; 20 R301). -/
structure InPort where
  q        : List Token
  frontier : LTime
  fstamp   : Nat
  batch    : Batch
  /-- the key last consumed by a JOIN in this run (12 R192) -/
  key      : Option Nat
  /-- heads of a launched batch count one for each record (17 R272) -/
  counts   : List (List LTime)
  /-- the frontier port is bound to a location, with the hold that the root keeps (20 R311) -/
  bound    : Option (Nat × LTime)
  /-- a MARK has arrived and later tokens wait behind the cut (24 R362) -/
  marked   : Bool
  /-- F(L) of the port's location as it was last announced; `frontier` of a coalescing port is its arrival frontier (20 R302, R307) -/
  passed   : LTime
  deriving DecidableEq, Repr

/-- The selector registers of PE scope, and the node's SYS_PESEL (24 Table 24-12): the entry or register that each selects. -/
structure Selectors where
  lpt  : Nat
  pl   : Nat
  loc  : Nat
  port : Nat
  opt  : Nat
  sw   : Nat
  pe   : W64
  deriving DecidableEq, Repr

/-- What uses a local page and waits for its refill (07 R107): an access of a slot of a block (slot 64: the block's commit), a copy
stream, the LMSTREAM engines, the lattice unit, or the matrix unit. -/
inductive PageUser where
  | slot (a : Agent) (slot : Nat)
  | stream (bay stream : Nat)
  | source
  | sink
  | lattice
  | matrix
  deriving DecidableEq, Repr

/-- A pending refill: the page, and who waits for it (07 R107). -/
structure Refill where
  page  : Nat
  users : List PageUser
  deriving DecidableEq, Repr

/-- A refill that has failed: the page, the slice's error code, and those who waited for it (07 R107). -/
structure RefillErr where
  page  : Nat
  code  : Nat
  users : List PageUser
  deriving DecidableEq, Repr

/-- A processing element. -/
structure Pe where
  region   : Option Nat
  active   : PeConfig
  pending  : PeConfig
  nregs    : Map Reg
  vregs    : Map Reg
  inports  : Map InPort
  switch   : Map (BitVec 16)
  /-- switch entries of a following section that wait for END (18 R423) -/
  switchNext : Map (BitVec 16)
  /-- two-token buffers of the circuits that pass this box (08 R119) -/
  boxes    : Map (List Token)
  /-- tokens that left an output port and wait for room in the first buffer, by tag -/
  outq     : Map (List Token)
  /-- CONF tokens on their way to this PE (17 R264) -/
  confq    : List ConfItem
  lmem     : Memory
  full     : List Nat
  /-- granules with an error that cannot be corrected, and with one that can, found by the next access (07 R112) -/
  softBad  : List Nat
  softCorr : List Nat
  lpt      : Map LptEntry
  lback    : W64
  fwd      : List FwdEntry
  refills  : List Refill
  /-- refills that failed, with those of their users that have not yet met the failure (07 R107) -/
  refillErr : List RefillErr
  waiters  : List FeWaiter
  handles  : Map Handle
  src      : SrcEngine
  snk      : SnkEngine
  matrix   : Matrix
  planes   : Map PlaneEntry
  lops     : List LatPend
  /-- collective operations that have sent their Race data, and whether the one at the head has (15 R235) -/
  raceN    : Nat
  raceOpen : Bool
  /-- the last Race data sent, newest first -/
  race     : List RaceData
  march    : List Ray
  stepRun  : StepRun
  caps     : Map LTime
  capHi    : Option Nat
  status   : W64
  digest   : W64
  stamp    : Nat
  /-- the time of the last token sent on each circuit, by tag (24 R355) -/
  lastSent : Map LTime
  wHi      : Nat
  /-- a fault stops further firings until an ERET resumes the PE (24 R353) -/
  stopped  : Bool
  /-- it waits in a BREAK until the executive resumes it (24 R372) -/
  brkStop  : Bool
  sealed   : Bool
  /-- EOS has ended the section's node; the switch waits for END (17 R265) -/
  finished : Bool
  drained  : Bool
  /-- the slot of the thread that its last firing has taken, in streaming mode (17 R269) -/
  thread   : Nat
  /-- its first MARK has arrived: it has saved its state and fires no more (24 R362) -/
  marks    : Bool
  firings  : Nat
  sel      : Selectors
  deriving DecidableEq, Repr

/-- An address-generator node: the order of its firings in flight (12 R197). Its configuration and ports are those of the
entry 16384 + i of `State.pes`; the firings themselves are frames with agent `ag i k`. -/
structure Ag where
  inflight : List Nat
  nextFire : Nat
  deriving DecidableEq, Repr

/-! ## Regions -/

/-- The state of a region's section (18 Table 18-3). -/
inductive SectState where
  | idle
  | loaded
  | armed
  | draining
  | done
  deriving DecidableEq, Repr

/-- A streaming block's bitmap and status (17 Table 17-6). -/
structure StreamBlock where
  image : List Word
  wait  : List Nat
  pass  : Nat
  deriving DecidableEq, Repr

/-- The streaming dispatcher of a region (17 R267 to R269). -/
structure Streamer where
  on      : Bool
  blocks  : Map StreamBlock
  round   : Nat
  /-- the block that runs, and the threads of its snapshot that have not reported -/
  block   : Nat
  inRound : Bool
  open_   : List Nat
  /-- no block has a thread that waits: the section has ended -/
  ended   : Bool
  deriving DecidableEq, Repr

/-- Where a pre-emption of a region stands (24 R361 to R364). -/
inductive Preempt where
  | none
  | draining (since : Nat)
  | saved
  deriving DecidableEq, Repr

/-- A region: its control thread, its registers and its fault queue. The region's number is that of its lower-left bay,
64·d + 8·by + bx. -/
structure Region where
  live     : Bool
  job      : Nat
  entry    : Nat
  sysreg   : W64
  xroot    : W64
  /-- the first page of the backing areas that the executive has given the region (07 R105) -/
  backing  : Nat
  stitch   : W64
  pc       : W64
  g        : Map Reg
  rstack   : List W64
  pts      : Nat
  status   : W64
  tvec     : W64
  epc      : W64
  trec     : W512
  digest   : W64
  halted   : Bool
  /-- RELEASE has returned the bays; the thread may still run blocks (18 R286) -/
  released : Bool
  sect     : SectState
  next     : Bool
  /-- the current section, and the one that rides behind it while NEXT = 1 -/
  info     : SectInfo
  nextInfo : SectInfo
  epoch    : Option Nat
  caps     : Map LTime
  /-- the location and the depth of each slot, and A_S of each control location that the thread has opened an epoch at (20 R298) -/
  capLoc   : Map (Nat × Nat)
  capHi    : Map Nat
  sinkErr  : Option Nat
  /-- the time of the last token sent to port 63 of a node, by its place (18 R283) -/
  boundTimes : Map LTime
  retTable : Map (Queue × Nat)
  /-- the return circuits that the root has closed since ARM (23 R349) -/
  closed   : List Nat
  /-- the frontiers announced to the bay, of the locations that the thread has subscribed to (20 R310) -/
  fronts   : Map (LTime × Nat)
  faultq   : List TrapRecord
  qseq     : Nat
  wdog     : W64
  stallCnt : Nat
  frac     : Nat
  wdogHalt : Option Nat
  overflow : Bool
  streamer : Streamer
  preempt  : Preempt
  /-- the withheld translation for which the region is drained (24 R370) -/
  pageWait : Option Withheld
  /-- the bypass count with which it was admitted (21 R324) -/
  bypass   : Nat
  /-- which of the domain's own sources have sent MARK (24 R361): 0 the thread, 1 the root on frontier ports, 2 the queues on
  return circuits, 3 the mailboxes -/
  marks    : List Nat
  /-- the thread waits in a BREAK until the executive resumes it (24 R372) -/
  brkStop  : Bool
  wHi      : Nat
  ctlWHi   : Nat
  sbbsel   : W64
  pesel    : W64
  deriving DecidableEq, Repr

/-! ## The Governor -/

/-- A count batch on its way: the changes and its stamp (20 R297, R300; 16 R250). -/
structure CountBatch where
  job     : Nat
  changes : List CountChange
  stamp   : Nat
  region  : Nat
  /-- epochs opened by these changes: the source or control location, the holder, the epoch (20 R298) -/
  opens   : List (Nat × Nat × Nat)
  deriving DecidableEq, Repr

/-- Who receives an announcement (20 R301). -/
inductive Subscriber where
  | port (pe port : Nat)
  | bay (region : Nat)
  deriving DecidableEq, Repr

/-- An announcement on its way (20 R301; 16 R250). -/
structure Announce where
  loc   : Nat
  val   : LTime
  /-- F(L), where `val` is the arrival frontier of a coalescing port (20 R307) -/
  whole : LTime
  stamp : Nat
  to_   : Subscriber
  deriving DecidableEq, Repr

/-- A source or control location at the root: how many copies of its holder the graph has (28 R410), and the highest epoch
that each holder has opened (20 R298, R301). -/
structure Horizon where
  loc    : Nat
  copies : Nat
  opened : Map Nat
  deriving DecidableEq, Repr

/-- The Governor's root for one job (20 R295 to R311). -/
structure Root where
  nloc     : Nat
  summary  : Map Word
  /-- counts by location, then by time -/
  counts   : List (Nat × LTime × Int)
  stamp    : Nat
  queue    : List CountBatch
  front    : Map LTime
  fstamp   : Map Nat
  subs     : List (Nat × Subscriber)
  out      : List Announce
  /-- the source and control locations -/
  horizons : List Horizon
  /-- frontier-port holds: the location watched, the port's own location, its depth, PE, port and hold -/
  holds    : List (Nat × Nat × Nat × Nat × Nat × LTime)
  /-- the batches applied here that go to the roots of the job's other modules, oldest first (20 R306) -/
  sent     : List CountBatch
  deriving DecidableEq, Repr

/-! ## The Windshaft and the Sluice -/

/-- A kernel-graph entry that the Windshaft holds (21 R313 to R318). -/
structure WsEntry where
  idx    : Nat
  raw    : W512
  ready  : Bool
  age    : Nat
  inPool : Bool
  started : Bool
  /-- a section whose thread has halted, a copy, a batch or a signal whose work has ended -/
  finished : Bool
  failed : Bool
  cause  : W64
  done   : Bool
  region : Option Nat
  /-- the calls of a batch that have been issued, and the return records that have been written -/
  issued : Nat
  count  : Nat
  /-- the greatest timestamp of the accesses of the entry's agents and of its predecessors': the join edge of its completion, from
  which its successors are forked (21 R318) -/
  stamp  : Nat
  deriving DecidableEq, Repr

/-- A bid to the Sluice (21 R320, R321). -/
structure Bid where
  job    : Nat
  entry  : Nat
  prio   : Nat
  age    : Nat
  w      : Nat
  h      : Nat
  /-- the dies that it may take (21 R324; 24 R369) -/
  dies   : List Nat
  bypass : Nat
  /-- a pre-empted section bids again with its saved context -/
  ctx    : Option Nat
  deriving DecidableEq, Repr

/-! ## Jobs -/

/-- An export (26 R389). -/
structure Export where
  base : W64
  len  : Nat
  pages : List (Nat × Nat)
  perm : BitVec 2
  deriving DecidableEq, Repr

/-- What an operation that leaves through the host interface is (12 R199; 06 R98; 21 Table 21-3). -/
inductive Transfer where
  | atomic (word : W64) (sub : AtomSub) (operand : W64) (regs : List Nat) (a : Agent)
  | tile (bay stream tile : Nat)
  | signal (job entry : Nat)
  /-- the image of a checkpoint, for a connection (26 R392) -/
  | image (conn idx : Nat)
  deriving DecidableEq, Repr

/-- An endpoint transfer in flight (12 R199, R200). -/
structure Endpoint where
  id    : Nat
  job   : Nat
  agent : Agent
  region : Nat
  what  : Transfer
  /-- the logical time of the firing or block that began it (26 R393) -/
  time  : LTime
  deriving DecidableEq, Repr

/-- An entry of a job's replay log (26 R393 to R395): 0 an inbound tile, 1 the result of an EPATOM, 2 the old value of an
atomic; the stream or the agent; the tile or the sequence number; the logical time and the bytes. -/
structure LogEntry where
  kind : Nat
  who  : Nat
  seq  : Nat
  time : LTime
  data : List Byte
  deriving DecidableEq, Repr

/-- A job (17 R259, R260; 26 R385 to R397). -/
structure Job where
  live     : Bool
  tag      : Nat
  host     : Nat
  pkg      : LaunchPackage
  root     : Root
  xroot    : W64
  next     : Nat
  entries  : Map WsEntry
  wsStop   : Bool
  wsDone   : Bool
  endpts   : Map Nat
  exports  : Map Export
  budget   : Nat
  frac     : Nat
  rr       : BitVec 2
  pass     : Nat
  log      : List LogEntry
  /-- the entries of the log that a replay pass has not used -/
  left     : List LogEntry
  logAtom  : Bool
  /-- the kernel-graph entries whose regions read ATOMDIV and PATHDIV (26 R397) -/
  atomDiv  : List Nat
  pathDiv  : List Nat
  /-- what the pass report says of each region whose thread has ended, by kernel-graph entry (27 R409) -/
  snaps    : Map (List W64)
  captured : Map (List Byte)
  captOff  : Bool
  capWait  : List Nat
  digests  : Map W64
  pathDig  : Map W64
  /-- device pages that the executive has taken for the job: the first, and how many -/
  areas    : List (Nat × Nat)
  wHi      : Nat
  /-- SYS_GRPSEL (24 Table 24-12) -/
  grpsel   : Nat
  outcome  : Option (BitVec 8)
  deriving DecidableEq, Repr

/-! ## Coprocessors -/

/-- A call in a queue, in a unit or held (22 R325 to R334). `ret` is where the return goes: the caller's region and PE, or
an entry of a kernel graph with the index of the call (22 R333). -/
structure Call where
  queue  : Queue
  ord    : Bool
  record : W512
  time   : LTime
  job    : Nat
  region : Nat
  pe     : Nat
  pts    : Nat
  /-- the caller's port, and the request number at the fork (16 R254) -/
  after  : Nat
  upto   : Nat
  batch  : Option (Nat × Nat × Nat)
  /-- the frontier location of a held call -/
  qloc   : Nat
  hloc   : Nat
  /-- a unit has taken the call before, and a drain has put it back while a withheld translation held it (05 R81) -/
  taken  : Bool
  deriving DecidableEq, Repr

/-- A call that a unit runs: the cycle at which it was taken, and its return once it has ended. -/
structure Running where
  call  : Call
  since : Nat
  ret   : Option W512
  pts   : Nat
  deriving DecidableEq, Repr

/-- A coprocessor unit (22): the base of the control-store image that it holds, none being the default microcode (22 R339), the
16 Ki words of its control store as it loaded them (01 Table 1-1; empty for the default microcode, whose words the manual does not
give), the calls it runs and the calls it holds. -/
structure Unit_ where
  resident : Option W64
  control  : List W64
  running  : Option Running
  /-- the calls that ZB holds, in the order taken, each with its fragments (22 R334, R336) -/
  held     : List (Nat × Call)
  /-- returns that wait for earlier-time returns on their circuit (22 R331) -/
  ready    : List Running
  deriving DecidableEq, Repr

/-- The coprocessors of a die: six queues and their units. -/
structure Copro where
  queues : Map (List Call)
  units  : Map Unit_
  /-- queues, and the regions whose marker has reached them: their calls stay in the queue (22 R340) -/
  cut    : List (Nat × Nat)
  deriving DecidableEq, Repr

/-! ## Saved contexts -/

/-- A performance counter of a bay (26 Table 26-6). -/
structure Pmon where
  en    : Bool
  sat   : Bool
  evt   : Nat
  count : Nat
  deriving DecidableEq, Repr

/-- A saved context of one region (24 R361 to R370): what the restore logic reloads, region-relative. The save area in
device memory holds the same state in the layout of Table 24-7, under its tags. -/
structure Saved where
  live    : Bool
  lost    : Bool
  job     : Nat
  entry   : Nat
  save    : W64
  gen     : Nat
  nb      : Nat
  region  : Region
  pes     : List (Nat × Pe)
  streams : List (Nat × Nat × Stream)
  queued  : List Call
  held    : List Call
  /-- calls that have ended and whose returns wait for those of queued or held calls (22 R331) -/
  ready   : List Running
  /-- the counters of the region's bays, row by row (26 R403) -/
  pmons   : List (Map Pmon)
  /-- what the root keeps for the region's agents while it is away (24 R305): the locations that its bay has subscribed to; the
  ports, by place, with theirs; and the holds of its frontier ports, with the frontiers when it left -/
  bayLocs : List Nat
  ports   : List (Nat × Nat × Nat)
  holds   : List (Nat × Nat × Nat × Nat × Nat × LTime)
  fronts  : Map LTime
  /-- the withheld translation for whose answer it waits, and, once it was refused, whose walk then raises REFUSED (24 R370) -/
  page    : Option Withheld
  /-- the priority, age and bypass count with which it bids again (21 R324) -/
  rank    : Nat × Nat × Nat
  dies    : List Nat
  /-- the region where the Sluice has admitted it -/
  place   : Option Nat
  deriving DecidableEq, Repr

/-! ## Bays, dies and the hub -/

/-- The power state of a bay (26 R404). -/
inductive BayPower where
  | on
  | idle
  | off
  deriving DecidableEq, Repr

/-- A bay: its copy engine, its count unit, its counters and its power (06; 20 R300; 26 R399, R404). -/
structure Bay where
  streams : Map Stream
  batches : List CountBatch
  pmon    : Map Pmon
  power   : BayPower
  /-- the cycle since which it holds no region -/
  idleFor : Nat
  /-- the marker has reached its copy engine (06 R102) -/
  cut     : Bool
  deriving DecidableEq, Repr

/-- A die: its aggregator, its coprocessors, its junction temperature and clock step (20 R300; 22; 26 R405). -/
structure Die where
  batches : List CountBatch
  copro   : Copro
  celsius : Nat
  step    : Nat
  deriving DecidableEq, Repr

/-- A message from the module to a host: a response to a command or an EVENT (26 Table 26-2, R385). -/
structure Message where
  host   : Nat
  op     : Byte
  status : Byte
  seq    : Word
  words  : List W64
  deriving DecidableEq, Repr

/-- An accepted connection (26 R384). -/
structure Conn where
  host : Nat
  /-- an operation that waits for host memory data or for outstanding work: its OP, sequence and arguments -/
  waiting : List (Byte × Word × List Nat)
  pending : Option LaunchPackage
  deriving DecidableEq, Repr

/-- What the executive keeps with the image of a checkpoint (26 R392): the jobs and their saved contexts, the owner tags and
the control stores. The bytes of device memory are with the host. -/
structure Checkpoint where
  jobs     : Map Job
  saves    : Map Saved
  bids     : List Bid
  owner    : Map (BitVec 16)
  bindings : List (Nat × Queue × W64)
  deriving DecidableEq, Repr

/-- The boot stage (26 R390, R391): before POWER_UP; an image requested, at a cycle; waiting after a failed signature, since a
cycle; and the executive running. -/
inductive Boot where
  | cold
  | requested (since : Nat)
  | failed (since : Nat)
  | running
  deriving DecidableEq, Repr

/-! ## The whole machine -/

/-- A signal to the executive: V of an error-log entry has become 1 (02 R28), or a lease time has passed 2^47 (04 R58). -/
inductive Signal where
  | errorLog (slice entry : Nat)
  | leaseHi
  deriving DecidableEq, Repr

/-- The state of the module. -/
structure State where
  /-- the block whose turn it is -/
  cur       : Frame
  /-- the other blocks in execution -/
  parked    : List Frame
  /-- MODEL'S OWN (log entry 6): what comes next -/
  agenda    : List Turn
  /-- MODEL'S OWN (log entry 6): the counter of the free values -/
  freeCount : Nat
  /-- MODEL'S OWN (log entry 6): whether a translator keeps a completed translation (05 R79) -/
  tlbKeep   : Bool
  /-- the fabric cycle -/
  cycle     : Nat
  mem       : Memory
  /-- lines that are poisoned in HBM metadata (02 R30) -/
  poison    : List Nat
  /-- soft errors in lines of HBM that no fill has found yet (02 R29) -/
  hbmErr    : Map SoftError
  /-- signals to the executive that it has not taken (02 R28; 04 R58) -/
  signals   : List Signal
  /-- page owner tags (02 R25) -/
  owner     : Map (BitVec 16)
  art       : Map ArtEntry
  windows   : Map Window
  maint     : Maint
  slices    : Map Slice
  packets   : Map Packet
  nextId    : Nat
  /-- memory ports of agents whose block has committed and whose accesses have not all returned -/
  tails     : List Port
  tlb       : List TlbEntry
  withheld  : List Withheld
  pes       : Map Pe
  ags       : Map Ag
  regions   : Map Region
  bays      : Map Bay
  dies      : Map Die
  jobs      : Map Job
  bids      : List Bid
  wsAge     : Nat
  bindings  : List (Nat × Queue × W64)
  saves     : Map Saved
  saveAddr  : Map W64
  saveKey   : BitVec 128
  transfers : List Endpoint
  conns     : Map Conn
  /-- the images that CHECKPOINT has written, by safe-store endpoint -/
  images    : Map Checkpoint
  messages  : List Message
  /-- the counter of the EVENTs (26 Table 26-2) -/
  eventSeq  : Nat
  boot      : Boot
  hosts     : List Nat
  refresh   : List Nat
  fabricOff : Bool
  deriving DecidableEq, Repr

/-- Why the machine stops. -/
inductive Fault where
  /-- Raised by every step once the fabric is powered down (26 R405): the manual gives no step of a module without power.
  Safe: the machine stops where the hardware does nothing. -/
  | fabricOff
  deriving DecidableEq, Repr

/-- Why an instruction has no meaning here. -/
inductive Refusal where
  /-- No meaning has been given yet: raised only by an arm of `exec`. Safe. -/
  | notModelled (mnemonic : String)
  /-- Raised by CALL_TAKE for a call of a job whose control-store image is not the default microcode: what FUNC does is
  whatever that image defines (22 R339), and the manual gives no meaning of its words. Safe. -/
  | customMicrocode
  deriving DecidableEq, Repr

/-! ## Right after reset -/

/-- A value of kind DATA, 64 bits wide. -/
def Value.data (w : W64) : Value := ⟨.data, false, false, w.setWidth 512⟩

/-- A register that is empty. Log entry 3 (DESIGN CHOICE). -/
def Reg.blank : Reg := ⟨.empty, 0, false, 0, false⟩

/-- A port of no agent. -/
def Port.blank : Port := ⟨0, .blk (.ctl 0), 0, 0, 0, [], [], 0, 0, 0⟩

/-- A lane group that is empty. -/
def RuleGroup.blank : RuleGroup := ⟨0, [], [], 0, 0, 0, 0, 0⟩

/-- A slot that nothing has reached. -/
def Slot.blank : Slot := ⟨none, none, none, none, .idle⟩

/-- No block. -/
def Frame.blank : Frame :=
  { live := false, agent := .ctl 0, kind := .control, region := 0, job := 0, pe := 0, header := 0, addr := 0,
    words := [], slots := [], turn := 0, time := 0, exec := false, outs := 0, stores := 0, lsids := [], acts := [],
    flags := [], takes := [], bufs := [], exit := none, ovf := [], phase := .running, since := 0, fenceW := 0, epUpto := [], port := Port.blank,
    group := RuleGroup.blank, lanes := 0 }

/-- A slice that holds no line. Log entry 2 (DESIGN CHOICE). -/
def Slice.blank : Slice :=
  { lines := [], queues := Vector.replicate 5 [], turn := 0, fills := [], evts := 0,
    errlog := Vector.replicate 16 ⟨false, 0, 0, 0, 0, 0, 0⟩, lost := 0, corrHbm := 0, corrSram := 0, mailbox := [],
    mailErr := [] }

/-- An address-range entry at reset (02 Table 2-2). -/
def ArtEntry.blank : ArtEntry := ⟨0, 0, 0, 0, 0, false⟩

/-- A format window at reset (04 Table 4-3). -/
def Window.blank : Window := ⟨0, 0, 0, false, 0, false, 0, 0⟩

/-- A handle that is unbound (06 Table 6-2). -/
def Handle.blank : Handle :=
  { psn := false, fcode := 0, dir := 0, isOpen := false, eos := false, rd := 0, wr := 0, nsl := 0, slotb := 0, base := 0,
    slots := [], order := [], opened := false, taken := 0, slotPts := [], total := 0, joinPts := 0 }

/-- An input port that holds nothing. -/
def InPort.blank : InPort := ⟨[], 0, 0, ⟨[], 0⟩, none, [], none, false, 0⟩

/-- A configuration with no block. -/
def PeConfig.blank : PeConfig := ⟨none, [], 0, 0, [], [], [], [], [], false, 0, []⟩

/-- A matrix unit at reset (14 R219). Log entry 4 (DESIGN CHOICE). -/
def Matrix.blank : Matrix :=
  { bufs := List.replicate 4 (List.replicate 256 0), tiles := [], phys := List.replicate 8 .free,
    map := List.replicate 4 none, rows := List.replicate 4 0, mflags := Flags.none, queue := [], stopped := false,
    cut := false, joinPts := 0, joinCtl := 0, behind := [] }

/-- No PSTEP in progress. -/
def StepRun.blank : StepRun := ⟨false, 0, 0, 0, [], [], Flags.none⟩

/-- The selectors at reset. Log entry 3 (DESIGN CHOICE). -/
def Selectors.blank : Selectors := ⟨0, 0, 0, 0, 0, 0, 0⟩

/-- A processing element at reset. Log entry 2 (DESIGN CHOICE). Log entry 3 (DESIGN CHOICE). -/
def Pe.blank : Pe :=
  { region := none, active := PeConfig.blank, pending := PeConfig.blank, nregs := [], vregs := [], inports := [],
    switch := [], switchNext := [], boxes := [], outq := [], confq := [], lmem := [], full := [], softBad := [], softCorr := [],
    lpt := [], lback := 0, fwd := [], refills := [], refillErr := [], waiters := [], handles := [],
    src := ⟨false, 0, 0, 0, 0, 0, false⟩, snk := ⟨false, 0, 0, 0, none, false⟩, matrix := Matrix.blank, planes := [], lops := [],
    raceN := 0, raceOpen := false, race := [], march := [], stepRun := StepRun.blank, caps := [], capHi := none, status := 0, digest := 0,
    stamp := 0, lastSent := [], wHi := 0, stopped := false, brkStop := false, sealed := false, finished := false, drained := false, thread := 0,
    marks := false, firings := 0, sel := Selectors.blank }

/-- An AG node at reset. -/
def Ag.blank : Ag := ⟨[], 0⟩

/-- A streaming dispatcher that is off. -/
def Streamer.blank : Streamer := ⟨false, [], 0, 0, false, [], false⟩

/-- No section. -/
def SectInfo.blank : SectInfo := ⟨0, [], [], [], none, [], [], [], 0, 0⟩

/-- A region that holds no section. Log entry 3 (DESIGN CHOICE). -/
def Region.blank : Region :=
  { live := false, job := 0, entry := 0, sysreg := 0, xroot := 0, backing := 0, stitch := 0, pc := 0, g := [],
    rstack := [], pts := 0, status := 0, tvec := 0, epc := 0, trec := 0, digest := 0, halted := false, released := false, sect := .idle,
    next := false, info := SectInfo.blank, nextInfo := SectInfo.blank, epoch := none, caps := [], capLoc := [], capHi := [],
    sinkErr := none, boundTimes := [], retTable := [], closed := [],
    fronts := [], faultq := [], qseq := 0, wdog := 0, stallCnt := 0, frac := 0, wdogHalt := none, overflow := false,
    streamer := Streamer.blank, preempt := .none, pageWait := none, bypass := 0, marks := [], brkStop := false, wHi := 0, ctlWHi := 0, sbbsel := 0,
    pesel := 0 }

/-- A root that counts nothing. -/
def Root.blank : Root :=
  { nloc := 0, summary := [], counts := [], stamp := 0, queue := [], front := [], fstamp := [], subs := [], out := [],
    horizons := [], holds := [], sent := [] }

/-- A launch package that names nothing. -/
def LaunchPackage.blank : LaunchPackage :=
  { xroot := 0, kgbase := 0, nentry := 0, ceiling := 0, budget := 0, stall := 0, jbudget := 0, flags := 0, cappages := 0,
    debug := false, groups := [], endpts := [], table := 0, sources := [], chunks := [], backing := [], sections := [], peers := 0 }

/-- No job. -/
def Job.blank : Job :=
  { live := false, tag := 0, host := 0, pkg := LaunchPackage.blank, root := Root.blank, xroot := 0, next := 0,
    entries := [], wsStop := false, wsDone := false, endpts := [], exports := [], budget := 0, frac := 0, rr := 0,
    pass := 0, log := [], left := [], logAtom := false, atomDiv := [], pathDiv := [], snaps := [], captured := [],
    captOff := false, capWait := [], digests := [], pathDig := [], areas := [], wHi := 0, grpsel := 0, outcome := none }

/-- A bay at reset: it holds no region (26 R404; log entry 5 (DESIGN CHOICE)). -/
def Bay.blank : Bay := ⟨[], [], [], .idle, 0, false⟩

/-- A die at reset. Log entry 5 (DESIGN CHOICE). -/
def Die.blank : Die := ⟨[], ⟨[], [], []⟩, 0, 0⟩

/-- A coprocessor unit with nothing to do. -/
def Unit_.blank : Unit_ := ⟨none, [], none, [], []⟩

/-- A counter at reset (26 Table 26-6). -/
def Pmon.blank : Pmon := ⟨false, false, 0, 0⟩

/-- The machine right after reset: before POWER_UP (26 R390). Every register holds the value that the manual states, and where
it states none the value that log entries 1 to 6 name. Log entry 2 (DESIGN CHOICE). Log entry 5 (DESIGN CHOICE). -/
def State.reset : State :=
  { cur := Frame.blank, parked := [], agenda := [], freeCount := 0, tlbKeep := false, cycle := 0, mem := [],
    poison := [], hbmErr := [], signals := [], owner := [], art := [], windows := [], maint := ⟨0, 0, false, false, false, 0⟩,
    slices := [], packets := [], nextId := 1, tails := [], tlb := [], withheld := [], pes := [], ags := [], regions := [],
    bays := [], dies := [], jobs := [], bids := [], wsAge := 0, bindings := [], saves := [], saveAddr := [], saveKey := 0,
    transfers := [], conns := [], images := [], messages := [], eventSeq := 0, boot := .cold, hosts := [], refresh := [], fabricOff := false }

end Sys2Proof.Machine
end

