-- ==== Sys2Proof/WellFormed.lean ====
section
/-! DEFINITION. WellFormed: what the fields of one instruction must satisfy together, beyond each field's own
values (09 R137, R141; 11 R175; 12 R192 to R199; 13 R202 to R212; 15 R234; 22 R427). A word whose fields decode but
break one of these is an illegal instruction (09 R159). The checks that need the block (the consumer of a target,
the kind of the block, its features) are in Machine/BlockCheck.lean. -/

namespace Sys2Proof

/-- The target is a register or nothing (09 R141). -/
def Tgt.regOrNone : Tgt → Bool
  | .none => true
  | .reg _ => true
  | _ => false

/-- The target is a register. -/
def Tgt.isReg : Tgt → Bool
  | .reg _ => true
  | _ => false

/-- The targets of a load are all registers, or none of them is (09 R141). -/
def loadTargets (t u : Tgt) : Bool := t == .none || u == .none || t.isReg == u.isReg

/-- The target is an output port. -/
def Tgt.isPort : Tgt → Bool
  | .port _ => true
  | _ => false

/-- Whether a size is one that ATOM and ATOML take with a sub-operation (11 Tables 11-1, 11-4). -/
def Sz.atomOk (z : Sz) (sub : AtomSub) : Bool :=
  match z with
  | .s32 | .z32 | .x64 => true
  | .x128 => sub == .xchg
  | _ => false

/-- Whether a size is one that CAS takes (11 Table 11-1). -/
def Sz.casOk : Sz → Bool
  | .s32 | .z32 | .x64 | .x128 => true
  | _ => false

/-- A type of one lane (13 Table 13-1). -/
def FType.scalar : FType → Bool
  | .f16 | .bf16 | .f32 | .f64 => true
  | _ => false

/-- The width of a lane in bits (13 Table 13-1). -/
def FType.bits : FType → Nat
  | .f16 | .bf16 | .vf16 | .vbf16 => 16
  | .f32 | .vf32 => 32
  | .f64 | .vf64 => 64

/-- The pairs that `.rsd` narrows (13 R208). -/
def FType.rsdPair : FType → FType → Bool
  | .f32, .f16 | .f32, .bf16 | .f64, .f32 | .f64, .f16 | .f64, .bf16 => true
  | .vf32, .vf16 | .vf32, .vbf16 | .vf64, .vf32 | .vf64, .vf16 | .vf64, .vbf16 => true
  | _, _ => false

/-- The ratio of the larger lane width to the smaller (13 R208). -/
def FType.ratio (a b : FType) : Nat := max a.bits b.bits / min a.bits b.bits

/-- The checks of one instruction's fields together. -/
def Instr.wellFormed : Instr → Bool
  | .join pa pb _ _ => pa != pb
  | .fence _ gslot scope => scope == .group || gslot == 0
  | .cmp _ _ _ c sg => !(sg && (c == .eq || c == .ne || c == .tst))
  | .atom _ t _ z op _ => z.atomOk op && t.regOrNone
  | .atoml _ t _ z op _ => z.atomOk op && t.regOrNone
  | .cas _ t _ z _ => z.casOk && t.regOrNone
  | .epatom _ t u op => op != .fadd && t.regOrNone && u.regOrNone
  | .gather _ t u _ => loadTargets t u
  | .lmstream _ t => t == .none || t.isPort
  | .cvt _ _ dty rsd part ty rnd =>
    ty.scalar == dty.scalar && ty != dty &&
    (if ty.scalar then part == 0 else part.toNat < FType.ratio ty dty) &&
    (!rsd || (rnd == .rn && FType.rsdPair ty dty))
  | .cvti _ _ _ _ ty _ => ty.scalar
  | .cvtf _ _ _ _ ty _ => ty.scalar
  | .gxunp _ _ _ ty _ => ty == .vf16 || ty == .vbf16 || ty == .vf32
  | .mrel _ t _ _ => t.isPort
  | .pact _ t u op => op == .get || (t == .none && u == .none)
  | .callq _ q ord => !ord || q == .zb
  | _ => true

end Sys2Proof
end

