-- ==== Sys2Proof/Machine/Float.lean ====
section
/-! DEFINITION. Float: the IEEE formats of Table 3-1, exact values and their one rounding (03 R33 to R44, R422). A
finite value is a sign, a magnitude and a power of two; an exact result is a dyadic number; every result is rounded once
from it. -/

namespace Sys2Proof.Machine

/-- An IEEE binary format: exponent and fraction widths (03 Table 3-1). -/
structure Fmt where
  eb : Nat
  fb : Nat
  deriving DecidableEq, Repr

/-- FP16. -/
def fp16 : Fmt := ⟨5, 10⟩
/-- BF16. -/
def bf16 : Fmt := ⟨8, 7⟩
/-- FP32. -/
def fp32 : Fmt := ⟨8, 23⟩
/-- FP64. -/
def fp64 : Fmt := ⟨11, 52⟩
/-- binary128. -/
def fp128 : Fmt := ⟨15, 112⟩

/-- The exponent bias. -/
def Fmt.bias (f : Fmt) : Nat := 2 ^ (f.eb - 1) - 1

/-- The width in bits. -/
def Fmt.width (f : Fmt) : Nat := 1 + f.eb + f.fb

/-- The exponent of the least normal value. -/
def Fmt.emin (f : Fmt) : Int := 1 - (f.bias : Int)

/-- The code of +∞: the exponent field all ones. -/
def Fmt.infCode (f : Fmt) : Nat := (2 ^ f.eb - 1) * 2 ^ f.fb

/-- The default NaN (03 Table 3-1). -/
def Fmt.nanCode (f : Fmt) : Nat := f.infCode + 2 ^ (f.fb - 1)

/-- Put a sign on a magnitude code. -/
def Fmt.signed (f : Fmt) (s : Bool) (m : Nat) : Nat := (if s then 2 ^ (f.eb + f.fb) else 0) + m

/-- What a code stands for: a NaN with its code, an infinity, or (−1)^s · m · 2^e. -/
inductive FVal where
  | nan (code : Nat)
  | inf (s : Bool)
  | fin (s : Bool) (m : Nat) (e : Int)
  deriving DecidableEq, Repr

/-- The sign bit of a code. -/
def Fmt.sign (f : Fmt) (c : Nat) : Bool := (c / 2 ^ (f.eb + f.fb)) % 2 == 1

/-- The value of a code (03 R33). -/
def Fmt.decode (f : Fmt) (c : Nat) : FVal :=
  let c := c % 2 ^ f.width
  let s := f.sign c
  let ex := (c / 2 ^ f.fb) % 2 ^ f.eb
  let fr := c % 2 ^ f.fb
  if ex = 2 ^ f.eb - 1 then (if fr = 0 then .inf s else .nan c)
  else if ex = 0 then .fin s fr (f.emin - f.fb)
  else .fin s (2 ^ f.fb + fr) ((ex : Int) - f.bias - f.fb)

/-- Whether a NaN code is signalling: the top bit of its fraction is 0. -/
def Fmt.signalling (f : Fmt) (c : Nat) : Bool := (c / 2 ^ (f.fb - 1)) % 2 == 0

/-- Set the top fraction bit of a NaN. -/
def Fmt.quiet (f : Fmt) (c : Nat) : Nat := if f.signalling c then c + 2 ^ (f.fb - 1) else c

/-- A code that is a NaN. -/
def Fmt.isNan (f : Fmt) (c : Nat) : Bool :=
  match f.decode c with
  | .nan _ => true
  | _ => false

/-- A signalling NaN. -/
def Fmt.isSnan (f : Fmt) (c : Nat) : Bool := f.isNan c && f.signalling c

/-- Flags with only NV. -/
def Flags.nvOnly : Flags := ⟨true, false, false, false, false⟩
/-- Flags with only DZ. -/
def Flags.dzOnly : Flags := ⟨false, true, false, false, false⟩
/-- NX when the result is inexact. -/
def Flags.nxIf (b : Bool) : Flags := ⟨false, false, false, false, b⟩

/-! ## Exact values -/

/-- A dyadic number n · 2^e. -/
structure Dy where
  n : Int
  e : Int
  deriving DecidableEq, Repr

/-- Zero. -/
def Dy.zero : Dy := ⟨0, 0⟩

/-- The product of two dyadic numbers. -/
def Dy.mul (a b : Dy) : Dy := ⟨a.n * b.n, a.e + b.e⟩

/-- The exact sum of two dyadic numbers. -/
def Dy.add (a b : Dy) : Dy :=
  if a.n = 0 then b else if b.n = 0 then a
  else if a.e ≤ b.e then ⟨a.n + b.n * 2 ^ (b.e - a.e).toNat, a.e⟩
  else ⟨a.n * 2 ^ (a.e - b.e).toNat + b.n, b.e⟩

/-- The exact sum of a list. -/
def Dy.sum (l : List Dy) : Dy := l.foldl Dy.add Dy.zero

/-- The negation. -/
def Dy.neg (a : Dy) : Dy := ⟨-a.n, a.e⟩

/-- Compare two dyadic numbers: −1, 0 or 1. -/
def Dy.cmp (a b : Dy) : Int :=
  let d := (Dy.add a b.neg).n
  if d < 0 then -1 else if d = 0 then 0 else 1

/-- The dyadic number of a finite value; a NaN or infinity gives 0 and is not asked for. -/
def FVal.dy : FVal → Dy
  | .fin s m e => ⟨if s then -(m : Int) else m, e⟩
  | _ => Dy.zero

/-- Floor of log2 of a positive number. -/
def log2n (n : Nat) : Nat := n.log2

/-! ## Rounding -/

/-- Round a magnitude m · 2^e to a multiple of 2^q: the multiple and whether it differs (03 R37). -/
def roundUnits (rnd : Round) (s : Bool) (m : Nat) (e q : Int) : Nat × Bool :=
  if q ≤ e then (m * 2 ^ (e - q).toNat, false)
  else
    let d := (q - e).toNat
    let n := m / 2 ^ d
    let r := m % 2 ^ d
    let up : Bool := match rnd with
      | .rn => decide (2 * r > 2 ^ d) || (decide (2 * r = 2 ^ d) && n % 2 == 1)
      | .rz => false
      | .rp => r != 0 && !s
      | .rm => r != 0 && s
    (if up then n + 1 else n, r != 0)

/-- The code of an overflowed result (03 R38). -/
def Fmt.overflow (f : Fmt) (rnd : Round) (s : Bool) : Nat :=
  let big := f.infCode - 1
  match rnd with
  | .rn => f.signed s f.infCode
  | .rz => f.signed s big
  | .rp => if s then f.signed true big else f.signed false f.infCode
  | .rm => if s then f.signed true f.infCode else f.signed false big

/-- Round (−1)^s · m · 2^e once to a format; a zero keeps the sign given (03 R36 to R39, R43). -/
def Fmt.round (f : Fmt) (rnd : Round) (s : Bool) (m : Nat) (e : Int) : Nat × Flags :=
  if m = 0 then (f.signed s 0, Flags.none)
  else
    let top : Int := (log2n m : Int) + e
    let base := max top f.emin
    let q := base - f.fb
    let (n, inx) := roundUnits rnd s m e q
    let code := (base + f.bias - 1).toNat * 2 ^ f.fb + n
    if f.infCode ≤ code then (f.overflow rnd s, ⟨false, false, true, false, true⟩)
    else
      let tiny := top < f.emin &&
        !(top = f.emin - 1 && (roundUnits rnd s m e (top - f.fb)).1 = 2 ^ (f.fb + 1))
      (f.signed s code, ⟨false, false, false, tiny && inx, inx⟩)

/-- Round a dyadic number once; `zs` is the sign of an exact zero. -/
def Fmt.roundDy (f : Fmt) (rnd : Round) (zs : Bool) (d : Dy) : Nat × Flags :=
  if d.n = 0 then (f.signed zs 0, Flags.none)
  else f.round rnd (decide (d.n < 0)) d.n.natAbs d.e

/-- The sign of an exact zero of a compound expression (03 R39): minus in `.rm`. -/
def zeroSign : Round → Bool
  | .rm => true
  | _ => false

/-- A magnitude known only to lie strictly between m and m + 1 units, as a number that rounds the same way. -/
def jam (m : Nat) (inx : Bool) : Nat := 2 * m + (if inx then 1 else 0)

/-- The first NaN of a list of codes, quieted, with NV when any is signalling (03 R42 part 1). -/
def Fmt.nanOf (f : Fmt) (ops : List Nat) : Option (Nat × Flags) :=
  match ops.find? f.isNan with
  | none => none
  | some c => some (f.quiet (c % 2 ^ f.width), if ops.any f.isSnan then Flags.nvOnly else Flags.none)

/-- The result of an invalid operation (03 R42 part 2). -/
def Fmt.invalid (f : Fmt) : Nat × Flags := (f.nanCode, Flags.nvOnly)

/-! ## Arithmetic (13 R203) -/

/-- The sign of the sum of two values that is exactly zero (03 R39). -/
def sumZero (rnd : Round) (sa sb : Bool) : Bool := if sa = sb then sa else zeroSign rnd

/-- The exact sum of two values that are no NaNs, rounded once. -/
def Fmt.addVals (f : Fmt) (rnd : Round) (a b : FVal) : Nat × Flags :=
  match a, b with
  | .inf s, .inf t => if s = t then (f.signed s f.infCode, Flags.none) else f.invalid
  | .inf s, _ => (f.signed s f.infCode, Flags.none)
  | _, .inf t => (f.signed t f.infCode, Flags.none)
  | .fin s _ _, .fin t _ _ => f.roundDy rnd (sumZero rnd s t) (Dy.add a.dy b.dy)
  | _, _ => f.invalid

/-- FADD. -/
def Fmt.add (f : Fmt) (rnd : Round) (a b : Nat) : Nat × Flags :=
  match f.nanOf [a, b] with
  | some r => r
  | none => f.addVals rnd (f.decode a) (f.decode b)

/-- Flip the sign bit of a code. -/
def Fmt.negate (f : Fmt) (c : Nat) : Nat :=
  if f.sign c then c - 2 ^ (f.eb + f.fb) else c + 2 ^ (f.eb + f.fb)

/-- FSUB: the NaN operand keeps its sign. -/
def Fmt.sub (f : Fmt) (rnd : Round) (a b : Nat) : Nat × Flags :=
  match f.nanOf [a, b] with
  | some r => r
  | none => f.addVals rnd (f.decode a) (f.decode (f.negate (b % 2 ^ f.width)))

/-- FMUL. -/
def Fmt.mul (f : Fmt) (rnd : Round) (a b : Nat) : Nat × Flags :=
  match f.nanOf [a, b] with
  | some r => r
  | none =>
    match f.decode a, f.decode b with
    | .inf s, .inf t => (f.signed (s != t) f.infCode, Flags.none)
    | .inf s, .fin t m _ => if m = 0 then f.invalid else (f.signed (s != t) f.infCode, Flags.none)
    | .fin s m _, .inf t => if m = 0 then f.invalid else (f.signed (s != t) f.infCode, Flags.none)
    | .fin s m e, .fin t n g => f.round rnd (s != t) (m * n) (e + g)
    | _, _ => f.invalid

/-- Whether a product of two values has the form 0 × ∞. -/
def FVal.zeroInf : FVal → FVal → Bool
  | .inf _, .fin _ m _ => m == 0
  | .fin _ m _, .inf _ => m == 0
  | _, _ => false

/-- FMA, rounded once (03 R36, R42). -/
def Fmt.fma (f : Fmt) (rnd : Round) (a b c : Nat) : Nat × Flags :=
  let zi := FVal.zeroInf (f.decode a) (f.decode b)
  match f.nanOf [a, b, c] with
  | some (r, fl) => (r, fl.or (if zi then Flags.nvOnly else Flags.none))
  | none =>
    if zi then f.invalid
    else match f.decode a, f.decode b with
      | .fin s m e, .fin t n g =>
        let p : FVal := .fin (s != t) (m * n) (e + g)
        f.addVals rnd p (f.decode c)
      | .inf s, .fin t _ _ | .fin s _ _, .inf t | .inf s, .inf t =>
        f.addVals rnd (.inf (s != t)) (f.decode c)
      | _, _ => f.invalid

/-- FDIV (13 Table 13-2). -/
def Fmt.div (f : Fmt) (rnd : Round) (a b : Nat) : Nat × Flags :=
  match f.nanOf [a, b] with
  | some r => r
  | none =>
    match f.decode a, f.decode b with
    | .inf _, .inf _ => f.invalid
    | .inf s, .fin t _ _ => (f.signed (s != t) f.infCode, Flags.none)
    | .fin s _ _, .inf t => (f.signed (s != t) 0, Flags.none)
    | .fin s m e, .fin t n g =>
      if n = 0 then (if m = 0 then f.invalid else (f.signed (s != t) f.infCode, Flags.dzOnly))
      else
        let k := f.fb + 3 + log2n n
        let num := m * 2 ^ k
        f.round rnd (s != t) (jam (num / n) (num % n != 0)) (e - g - k - 1)
    | _, _ => f.invalid

/-- The integer square root, one bit at a time from bit `k` down. -/
def isqrtFrom : Nat → Nat → Nat → Nat
  | 0, n, r => if (r + 1) * (r + 1) ≤ n then r + 1 else r
  | k + 1, n, r =>
    let t := r + 2 ^ (k + 1)
    isqrtFrom k n (if t * t ≤ n then t else r)

/-- The floor of a square root. -/
def isqrt (n : Nat) : Nat := isqrtFrom (log2n n / 2 + 1) n 0

/-- FSQRT. -/
def Fmt.sqrt (f : Fmt) (rnd : Round) (a : Nat) : Nat × Flags :=
  match f.nanOf [a] with
  | some r => r
  | none =>
    match f.decode a with
    | .inf s => if s then f.invalid else (f.infCode, Flags.none)
    | .fin s m e =>
      if m = 0 then (f.signed s 0, Flags.none)
      else if s then f.invalid
      else
        let odd := e % 2 != 0
        let m := if odd then 2 * m else m
        let e := if odd then e - 1 else e
        let k := f.fb + 3
        let n := m * 2 ^ (2 * k)
        let r := isqrt n
        f.round rnd false (jam r (r * r != n)) (e / 2 - k - 1)
    | _ => f.invalid

/-- FRSQ: the reciprocal of the square root, rounded once. -/
def Fmt.rsq (f : Fmt) (rnd : Round) (a : Nat) : Nat × Flags :=
  match f.nanOf [a] with
  | some r => r
  | none =>
    match f.decode a with
    | .inf s => if s then f.invalid else (0, Flags.none)
    | .fin s m e =>
      if m = 0 then (f.signed s f.infCode, Flags.dzOnly)
      else if s then f.invalid
      else
        let odd := e % 2 != 0
        let m := if odd then 2 * m else m
        let e := if odd then e - 1 else e
        let k := f.fb + 4 + log2n m
        let n := 2 ^ (2 * k)
        let r := isqrt (n / m)
        f.round rnd false (jam r (r * r * m != n)) (-(e / 2) - k - 1)
    | _ => f.invalid

/-- FRND: to an integer in the same format (13 Table 13-2). -/
def Fmt.rndInt (f : Fmt) (rnd : Round) (a : Nat) : Nat × Flags :=
  match f.nanOf [a] with
  | some r => r
  | none =>
    match f.decode a with
    | .inf s => (f.signed s f.infCode, Flags.none)
    | .fin s m e =>
      let (n, inx) := roundUnits rnd s m e 0
      ((f.round .rz s n 0).1, Flags.nxIf inx)
    | _ => f.invalid

/-! ## FEXP2 and FLOG2: intervals of fixed-point numbers -/

/-- The ceiling of a square root. -/
def isqrtUp (n : Nat) : Nat :=
  let r := isqrt n
  if r * r = n then r else r + 1

/-- Bounds of 2^x for a fraction x whose bits stand in `bs`, highest first: `lo` and `hi` bound 2^(2^−i) with `w` fraction
bits, `pl` and `ph` the product so far. -/
def exp2Bits (w : Nat) : List Bool → Nat → Nat → Nat → Nat → Nat × Nat
  | [], _, _, pl, ph => (pl, ph)
  | b :: bs, lo, hi, pl, ph =>
    let lo' := isqrt (lo * 2 ^ w)
    let hi' := isqrtUp (hi * 2 ^ w)
    if b then exp2Bits w bs lo' hi' (pl * lo' / 2 ^ w) (ph * hi' / 2 ^ w + 1)
    else exp2Bits w bs lo' hi' pl ph

/-- The bits of a number below `n`, highest first. -/
def bitsDown : Nat → Nat → List Bool
  | 0, _ => []
  | n + 1, v => ((v / 2 ^ n) % 2 == 1) :: bitsDown n v

/-- 2^x of a finite value that is no integer, with `w` fraction bits of work: both bounds, rounded. -/
def Fmt.exp2Try (f : Fmt) (rnd : Round) (x : Dy) (w : Nat) : Option (Nat × Flags) :=
  let sh : Int := x.e + w
  let fx : Int := if 0 ≤ sh then x.n * 2 ^ sh.toNat else x.n / 2 ^ (-sh).toNat
  let exact : Bool := decide (0 ≤ sh)
  let i := fx / 2 ^ w
  let fr := (fx % 2 ^ w).toNat
  let go := fun fr => exp2Bits w (bitsDown w fr) (2 ^ (w + 1)) (2 ^ (w + 1)) (2 ^ w) (2 ^ w)
  let lo := (go fr).1
  let hi := min (if exact then (go fr).2 else (go fr).2 + 4) (2 ^ (w + 1) - 1)
  let a := f.round rnd false (jam lo true) (i - w - 1)
  let b := f.round rnd false (jam hi true) (i - w - 1)
  if a = b then some a else none

/-- Try rising precisions. -/
def tryWiden (g : Nat → Option (Nat × Flags)) : Nat → Nat → Option (Nat × Flags)
  | 0, _ => none
  | k + 1, w =>
    match g w with
    | some r => some r
    | none => tryWiden g k (2 * w)

/-- The greatest number, of those that `k` more bits can reach from `r`, that a value is not below. -/
def greatestBelow (below : Nat → Bool) : Nat → Nat → Nat
  | 0, r => r
  | k + 1, r => greatestBelow below k (if below (r + 2 ^ k) then r else r + 2 ^ k)

/-- 2^(n / 2^k) < p · 2^q, for p > 0: both sides raised to the power 2^k. -/
def exp2Below (n : Int) (k p : Nat) (q : Int) : Bool :=
  let z := n - q * 2 ^ k
  z < 0 || 2 ^ z.toNat < p ^ 2 ^ k

/-- 2^x, rounded from its exact place among the numbers of `f.fb + 4` fraction bits, of which it is none (03 R36): what decides where
no working precision of `exp2Try` does. -/
def Fmt.exp2Exact (f : Fmt) (rnd : Round) (x : Dy) : Nat × Flags :=
  let k := (-x.e).toNat
  let i := x.n / 2 ^ k
  let g := f.fb + 4
  f.round rnd false (jam (greatestBelow (fun t => exp2Below x.n k t (i - g)) g (2 ^ g)) true) (i - g - 1)

/-- FEXP2 (13 Table 13-2). -/
def Fmt.exp2 (f : Fmt) (rnd : Round) (a : Nat) : Nat × Flags :=
  match f.nanOf [a] with
  | some r => r
  | none =>
    match f.decode a with
    | .inf s => (if s then 0 else f.infCode, Flags.none)
    | .fin s m e =>
      if m = 0 then f.round rnd false 1 0
      else
        let big : Int := f.bias + f.fb + 4
        let x : Dy := ⟨if s then -(m : Int) else m, e⟩
        if Dy.cmp x ⟨big, 0⟩ = 1 then f.round rnd false 3 (big - 1)
        else if Dy.cmp x ⟨-big, 0⟩ = -1 then f.round rnd false 3 (-big - 2)
        else if (roundUnits .rz s m e 0).2 then
          match tryWiden (f.exp2Try rnd x) 3 (f.fb + 24) with
          | some r => r
          | none => f.exp2Exact rnd x
        else
          let n : Int := roundUnits .rz s m e 0 |>.1
          f.round rnd false 1 (if s then -n else n)
    | _ => f.invalid

/-- Fraction bits of log2 of a number in [1, 2): bounds `lo` and `hi` with `w` fraction bits, `k` bits to go. `none` when
the bounds no longer settle a bit. -/
def log2Bits (w : Nat) : Nat → Nat → Nat → Nat → Option Nat
  | 0, _, _, acc => some acc
  | k + 1, lo, hi, acc =>
    let l := lo * lo / 2 ^ w
    let h := hi * hi / 2 ^ w + 1
    if 2 ^ (w + 1) ≤ l then log2Bits w k (l / 2) (h / 2 + 1) (2 * acc + 1)
    else if h ≤ 2 ^ (w + 1) then log2Bits w k l h (2 * acc)
    else none

/-- log2 of m · 2^e, m no power of two, to `p` fraction bits. -/
def Fmt.log2Try (f : Fmt) (rnd : Round) (m : Nat) (e : Int) (p : Nat) : Option (Nat × Flags) :=
  let w := 2 * p + 8 + log2n m
  let k : Int := (log2n m : Int) + e
  let y := m * 2 ^ (w - log2n m)
  match log2Bits w p y y 0 with
  | none => none
  | some fr =>
    let lo : Dy := Dy.add ⟨k, 0⟩ ⟨2 * (fr : Int), -(p : Int) - 1⟩
    let mid : Int → Dy := fun d => Dy.add lo ⟨d, -(p : Int) - 2⟩
    let a := f.roundDy rnd false (mid 1)
    let b := f.roundDy rnd false (mid 3)
    if a = b then some a else none

/-- log2 of m · 2^e, m no power of two, rounded from its exact place among the numbers of `2 f.fb + 8` fraction bits, of which it is
none (03 R36): log2 (m · 2^e) lies below a number just where m to the power 2^w lies below a power of two. -/
def Fmt.log2Exact (f : Fmt) (rnd : Round) (m : Nat) (e : Int) : Nat × Flags :=
  let w := 2 * f.fb + 8
  let r := greatestBelow (fun t => decide (m ^ 2 ^ w < 2 ^ (log2n m * 2 ^ w + t))) w 0
  f.roundDy rnd false ⟨2 * (((log2n m : Int) + e) * 2 ^ w + r) + 1, -(w : Int) - 1⟩

/-- FLOG2 (13 Table 13-2). -/
def Fmt.log2 (f : Fmt) (rnd : Round) (a : Nat) : Nat × Flags :=
  match f.nanOf [a] with
  | some r => r
  | none =>
    match f.decode a with
    | .inf s => if s then f.invalid else (f.infCode, Flags.none)
    | .fin s m e =>
      if m = 0 then (f.signed true f.infCode, Flags.dzOnly)
      else if s then f.invalid
      else if 2 ^ log2n m = m then f.roundDy rnd false ⟨(log2n m : Int) + e, 0⟩
      else
        match tryWiden (f.log2Try rnd m e) 3 (2 * f.fb + 24) with
        | some r => r
        | none => f.log2Exact rnd m e
    | _ => f.invalid

/-! ## Minimum, maximum, comparison, class, sign (13 R204 to R207) -/

/-- The order of two codes that are no NaNs, −0 below +0: −1, 0 or 1. -/
def Fmt.order (f : Fmt) (a b : Nat) : Int :=
  match f.decode a, f.decode b with
  | .inf s, .inf t => if s = t then 0 else if s then -1 else 1
  | .inf s, _ => if s then -1 else 1
  | _, .inf t => if t then 1 else -1
  | .fin s m e, .fin t n g =>
    if m = 0 && n = 0 then (if s = t then 0 else if s then -1 else 1)
    else Dy.cmp (FVal.fin s m e).dy (FVal.fin t n g).dy
  | _, _ => 0

/-- FMINMAX. -/
def Fmt.minMax (f : Fmt) (op : MinMaxSub) (a b : Nat) : Nat × Flags :=
  let a := a % 2 ^ f.width
  let b := b % 2 ^ f.width
  let fl := if f.isSnan a || f.isSnan b then Flags.nvOnly else Flags.none
  let prop := op == .minp || op == .maxp
  if f.isNan a || f.isNan b then
    if f.isNan a && f.isNan b || prop then ((f.nanOf [a, b]).map Prod.fst |>.getD 0, fl)
    else (if f.isNan a then b else a, fl)
  else
    let c := f.order a b
    let wantLess := op == .min || op == .minp
    (if c = 0 then a else if (decide (c < 0)) == wantLess then a else b, fl)

/-- The condition of FCMP in one lane, and its flags (13 R205). -/
def Fmt.cmp (f : Fmt) (op : FCmpSub) (a b : Nat) : Bool × Flags :=
  let nan := f.isNan a || f.isNan b
  let snan := f.isSnan a || f.isSnan b
  let c : Int := match f.decode a, f.decode b with
    | .fin _ 0 _, .fin _ 0 _ => (0 : Int)
    | _, _ => f.order a b
  match op with
  | .eq => (!nan && c == 0, if snan then Flags.nvOnly else Flags.none)
  | .lt => (!nan && decide (c < 0), if nan then Flags.nvOnly else Flags.none)
  | .le => (!nan && decide (c ≤ 0), if nan then Flags.nvOnly else Flags.none)
  | .un => (nan, if snan then Flags.nvOnly else Flags.none)

/-- The class word of a code (13 R206). -/
def Fmt.classOf (f : Fmt) (a : Nat) : Nat :=
  match f.decode a with
  | .inf s => if s then 1 else 2 ^ 7
  | .nan c => if f.signalling c then 2 ^ 8 else 2 ^ 9
  | .fin s m _ =>
    if m = 0 then (if s then 2 ^ 3 else 2 ^ 4)
    else if m < 2 ^ f.fb then (if s then 2 ^ 2 else 2 ^ 5)
    else (if s then 2 ^ 1 else 2 ^ 6)

/-- FSIGN: op0's bits with the sign replaced (13 R207). -/
def Fmt.signOp (f : Fmt) (op : FSignSub) (a b : Nat) : Nat :=
  let a := a % 2 ^ f.width
  let sa := f.sign a
  let sb := f.sign b
  let s := match op with
    | .cpy => sb
    | .ncpy => !sb
    | .xsgn => sa != sb
  f.signed s (a % 2 ^ (f.eb + f.fb))

/-! ## Conversions (03 R40 to R44; 13 R208 to R210) -/

/-- Convert a NaN between formats: never quieted, no flag (03 R42 part 3). -/
def Fmt.convNan (src dst : Fmt) (c : Nat) : Nat :=
  let fr := c % 2 ^ src.fb
  let fr' := if src.fb ≤ dst.fb then fr * 2 ^ (dst.fb - src.fb)
    else (let n := fr / 2 ^ (src.fb - dst.fb); if n = 0 then 1 else n)
  dst.signed (src.sign c) (dst.infCode + fr')

/-- Mix32 (03 R41). -/
def mix32 (t : LTime) (p s l : Nat) : BitVec 32 :=
  let h : BitVec 32 := (t.extractLsb' 32 32) * 0x9E3779B1#32
  let h := h ^^^ t.extractLsb' 0 32
  let h := h ^^^ (BitVec.ofNat 32 p <<< 11) ^^^ (BitVec.ofNat 32 s <<< 5) ^^^ BitVec.ofNat 32 l
  let h := h ^^^ (h >>> 16)
  let h := h * 0x85EBCA6B#32
  let h := h ^^^ (h >>> 13)
  let h := h * 0xC2B2AE35#32
  h ^^^ (h >>> 16)

/-- rsd rounding with the 32 random bits h (03 R40, R422). -/
def Fmt.roundRsd (f : Fmt) (s : Bool) (m : Nat) (e : Int) (h : Nat) : Nat × Flags :=
  if m = 0 then (f.signed s 0, Flags.none)
  else
    let top : Int := (log2n m : Int) + e
    let base := max top f.emin
    let q := base - f.fb
    let n := (roundUnits .rz s m e q).1
    let d := if q ≤ e then 0 else
      let k := (q - e).toNat
      (m % 2 ^ k) * 2 ^ 32 / 2 ^ k
    let n' := if 2 ^ 32 ≤ d + h then n + 1 else n
    let code := (base + f.bias - 1).toNat * 2 ^ f.fb + n'
    let nx := d != 0
    if f.infCode ≤ code then (f.signed s f.infCode, ⟨false, false, true, nx && decide (top < f.emin), true⟩)
    else (f.signed s code, ⟨false, false, false, nx && decide (top < f.emin), nx⟩)

/-- Convert one value between formats (13 R208); `h` holds the random bits of `.rsd`. -/
def Fmt.convert (src dst : Fmt) (rnd : Round) (h : Option Nat) (c : Nat) : Nat × Flags :=
  match src.decode c with
  | .nan c => (Fmt.convNan src dst c, Flags.none)
  | .inf s => (dst.signed s dst.infCode, Flags.none)
  | .fin s m e =>
    match h with
    | none => dst.round rnd s m e
    | some h => dst.roundRsd s m e h

/-- The range of an integer type. -/
def intRange (w : Nat) (sg : Bool) : Int × Int :=
  if sg then (-(2 ^ (w - 1) : Int), 2 ^ (w - 1) - 1) else (0, 2 ^ w - 1)

/-- From floating point to an integer (03 R44). -/
def Fmt.toInt (f : Fmt) (rnd : Round) (w : Nat) (sg : Bool) (c : Nat) : Int × Flags :=
  let (lo, hi) := intRange w sg
  match f.decode c with
  | .nan _ => (0, Flags.nvOnly)
  | .inf s => (if s then lo else hi, Flags.nvOnly)
  | .fin s m e =>
    let (n, inx) := roundUnits rnd s m e 0
    let v : Int := if s then -(n : Int) else n
    if v < lo then (lo, Flags.nvOnly) else if hi < v then (hi, Flags.nvOnly) else (v, Flags.nxIf inx)

/-- From an integer to floating point (03 R44). -/
def Fmt.ofInt (f : Fmt) (rnd : Round) (v : Int) : Nat × Flags := f.roundDy rnd false ⟨v, 0⟩

/-! ## Exact sums (13 R213, R214) -/

/-- Whether a list of values holds infinities of both signs. -/
def bothInf (l : List FVal) : Bool := l.any (· == .inf true) && l.any (· == .inf false)

/-- The first infinity's sign. -/
def infSign (l : List FVal) : Option Bool :=
  l.findSome? fun v => match v with
    | .inf s => some s
    | _ => none

/-- Whether every finite value of a list is a zero with a minus sign. -/
def allNegZero (l : List FVal) : Bool := l.all fun v => match v with
  | .fin true 0 _ => true
  | _ => false

/-- The exact sum of terms that are no NaNs, rounded once to a format; an exact zero is −0 when every term is −0, and
otherwise +0, or −0 in `.rm` (13 R213, R214). -/
def Fmt.sumTerms (f : Fmt) (rnd : Round) (terms : List FVal) : Nat × Flags :=
  if bothInf terms then f.invalid
  else match infSign terms with
    | some s => (f.signed s f.infCode, Flags.none)
    | none => f.roundDy rnd (allNegZero terms || zeroSign rnd) (Dy.sum (terms.map FVal.dy))

/-- The product of two values that are no NaNs and not 0 × ∞, as a term. -/
def FVal.prod : FVal → FVal → FVal
  | .fin s m e, .fin t n g => .fin (s != t) (m * n) (e + g)
  | .inf s, .fin t _ _ => .inf (s != t)
  | .fin s _ _, .inf t => .inf (s != t)
  | .inf s, .inf t => .inf (s != t)
  | a, _ => a

/-! ## Lane formats -/

/-- The format of a lane type (13 Table 13-1). -/
def ftFmt : FType → Fmt
  | .f16 | .vf16 => fp16
  | .bf16 | .vbf16 => bf16
  | .f32 | .vf32 => fp32
  | .f64 | .vf64 => fp64

/-- The number of lanes (13 Table 13-1). -/
def ftLanes (t : FType) : Nat := if t.scalar then 1 else 512 / t.bits

/-- The lane type of a vector type. -/
def vtFt : VType → FType
  | .vf16 => .vf16
  | .vbf16 => .vbf16
  | .vf32 => .vf32
  | .vf64 => .vf64

/-- Lane i of w bits. -/
def lane (v : W512) (w i : Nat) : Nat := (v.toNat / 2 ^ (w * i)) % 2 ^ w

/-- Put lanes of w bits together, lane 0 lowest. -/
def lanesNat (w : Nat) : List Nat → Nat
  | [] => 0
  | x :: xs => x % 2 ^ w + 2 ^ w * lanesNat w xs

/-- A 512-bit value from its lanes. -/
def ofLanes (w : Nat) (xs : List Nat) : W512 := BitVec.ofNat 512 (lanesNat w xs)

/-- The lanes of a value. -/
def lanesOf (v : W512) (w n : Nat) : List Nat := (List.range n).map (lane v w)

/-- The union of the flags of lanes. -/
def flagsOf (l : List (Nat × Flags)) : Flags := l.foldl (fun a r => a.or r.2) Flags.none

end Sys2Proof.Machine
end

