-- ==== Sys2Proof/Machine/Flags.lean ====
section
/-! DEFINITION. Flags: the FLAGS field and SYS_STATUS (03 Table 3-3; 24 Table 24-3), and what the floating-point
instructions do in every lane, with the union of the lanes' flags (03 R43; 13 R201). -/

namespace Sys2Proof.Machine

/-- FLAGS as five bits (03 Table 3-3). -/
def Flags.toNat (f : Flags) : Nat := b2n f.nv + 2 * b2n f.dz + 4 * b2n f.ovf + 8 * b2n f.unf + 16 * b2n f.nx

/-- FLAGS from the low five bits of a word. -/
def Flags.ofNat (n : Nat) : Flags :=
  ⟨n % 2 == 1, n / 2 % 2 == 1, n / 4 % 2 == 1, n / 8 % 2 == 1, n / 16 % 2 == 1⟩

/-- EXE of SYS_STATUS. -/
def statusExe (w : W64) : Bool := bitAt w 15
/-- INH of SYS_STATUS. -/
def statusInh (w : W64) : Bool := bitAt w 14
/-- DBG of SYS_STATUS. -/
def statusDbg (w : W64) : Bool := bitAt w 13
/-- SKIPBK of SYS_STATUS. -/
def statusSkip (w : W64) : Bool := bitAt w 12

/-- OR flags into the FLAGS field of SYS_STATUS (03 R43). -/
def statusOr (w : W64) (f : Flags) : W64 := w ||| BitVec.ofNat 64 f.toNat

/-- Set or clear a bit of SYS_STATUS. -/
def statusSet (w : W64) (i : Nat) (b : Bool) : W64 := insertBits w i 1 (b2n b)

/-- The width of a lane and the format of a type. -/
def tyFmt (t : FType) : Fmt := ftFmt t

/-- Apply a unary operation in every lane (13 R201). -/
def lanes1 (t : FType) (g : Nat → Nat × Flags) (a : W512) : W512 × Flags :=
  let rs := (lanesOf a t.bits (ftLanes t)).map g
  (ofLanes t.bits (rs.map Prod.fst), flagsOf rs)

/-- Apply a binary operation in every lane. -/
def lanes2 (t : FType) (g : Nat → Nat → Nat × Flags) (a b : W512) : W512 × Flags :=
  let n := ftLanes t
  let rs := List.zipWith g (lanesOf a t.bits n) (lanesOf b t.bits n)
  (ofLanes t.bits (rs.map Prod.fst), flagsOf rs)

/-- Apply a ternary operation in every lane. -/
def lanes3 (t : FType) (g : Nat → Nat → Nat → Nat × Flags) (a b c : W512) : W512 × Flags :=
  let n := ftLanes t
  let rs := List.zipWith (fun g x => g x) (List.zipWith g (lanesOf a t.bits n) (lanesOf b t.bits n))
    (lanesOf c t.bits n)
  (ofLanes t.bits (rs.map Prod.fst), flagsOf rs)

end Sys2Proof.Machine
end

