-- ==== Sys2Proof/Machine/Operands.lean ====
section
/-! DEFINITION. Operands: how an instruction reads what its slot holds, the width and kind of a result, and the operand
forms of the memory instructions (09 R138, R145; 11 R175 to R177, R186; 13 R201). -/

namespace Sys2Proof.Machine

/-! ## Values -/

/-- The low 64 bits, which an operand of 64 bits takes (13 R201). -/
def Value.lo (v : Value) : W64 := v.bits.setWidth 64

/-- A DATA value of 512 bits. -/
def Value.wideData (w : W512) : Value := ⟨.data, true, false, w⟩

/-- A value of a kind other than DATA, with zero payload (09 R145). -/
def Value.ofKind (k : Kind) : Value := ⟨k, false, false, 0⟩

/-- A value is DATA. -/
def Value.isData (v : Value) : Bool := v.kind == .data

/-- A predicate is true when its kind is DATA and bit 0 of its payload is 1 (09 R138). -/
def Value.holds (v : Value) : Bool := v.kind == .data && bitAt v.bits 0

/-- The precedence of kinds among operands, highest first (09 R145). -/
def kindOrder : List Kind := [.null, .err, .eos, .eor, .bound, .absent]

/-- The kind of highest precedence among operands, when one is not DATA (09 R145). -/
def nonData (vs : List Value) : Option Kind := kindOrder.find? fun k => vs.any fun v => v.kind == k

/-- KIND of a token's tag (09 Table 9-14). -/
def kindCode : Kind → Nat
  | .data => 0
  | .eos => 1
  | .eor => 2
  | .err => 3
  | .mark => 4
  | .bound => 5
  | .conf => 6
  | .absent => 7
  | .null => 7

/-- The tag of a value beside its TIME: WIDE, KIND and CAP, as [4:0] (09 Table 9-13). -/
def Value.tagBits (v : Value) : Nat := b2n v.cap + 2 * kindCode v.kind + 16 * b2n v.wide

/-- A Bool as the result of a comparison. -/
def boolW (b : Bool) : W64 := if b then 1 else 0

/-! ## Sizes (09 Table 9-9) -/

/-- The bytes of an access. -/
def szBytes : Sz → Nat
  | .s8 | .z8 => 1
  | .s16 | .z16 => 2
  | .s32 | .z32 => 4
  | .x64 => 8
  | .x128 => 16

/-- Whether a load sign-extends. -/
def szSigned : Sz → Bool
  | .s8 | .s16 | .s32 => true
  | _ => false

/-- The value that a load delivers from its bytes: extended to 64 bits, or 512 bits wide for .x128 (11 R176). -/
def szExtend (z : Sz) (raw : W512) : Value :=
  match z with
  | .x128 => .wideData ((raw.setWidth 128).setWidth 512)
  | .x64 => .data (raw.setWidth 64)
  | _ =>
    let k := 8 * szBytes z
    .data (if szSigned z then (BitVec.ofNat k raw.toNat).signExtend 64 else (BitVec.ofNat k raw.toNat).setWidth 64)

/-- The low n bytes of a value as a number. -/
def lowBytes (v : W512) (n : Nat) : Nat := v.toNat % 2 ^ (8 * n)

/-- The bytes [lo, lo + n) of a value. -/
def bytesAt (v : W512) (lo n : Nat) : Nat := (v.toNat / 2 ^ (8 * lo)) % 2 ^ (8 * n)

/-! ## Capabilities (05 R77) and addresses (11 R177, R186) -/

/-- What an access does, for the permission check (11 R177). -/
inductive AccessKind where
  | load
  | store
  | rmw
  deriving DecidableEq, Repr

/-- The page size of a capability. -/
def capPage (c : W64) : Int := if bitAt c 48 then 2 ^ 29 else 2 ^ 16

/-- A CAPABILITY fault with its reason (11 Table 11-2). -/
def capTrap (reason code : Nat) : Trap := ⟨.capability, BitVec.ofNat 64 reason, BitVec.ofNat 64 code⟩

/-- The physical address of an access through a capability, or the precise fault (11 R177). -/
def capAddress (v : Value) (kind : AccessKind) (off : Int) (k : Nat) : Except Trap Nat :=
  let c := v.lo
  if !v.cap then
    (if bitAt c 63 then .error (capTrap 1 (bits c 62 55)) else .error (capTrap 0 0))
  else
    let r := bitAt c 46
    let w := bitAt c 47
    let perm := match kind with
      | .load => r
      | .store => w
      | .rmw => r && w
    if !perm then .error (capTrap 2 0)
    else
      let base : Int := bits c 45 0
      let a := base + off
      if a % (k : Int) ≠ 0 then .error ⟨.align, BitVec.ofInt 64 a, 0⟩
      else if a < 0 || a / capPage c ≠ base / capPage c then .error (capTrap 3 0)
      else .ok a.toNat

/-- The size of local memory (07 R103). -/
def lmSize : Nat := 0x80000

/-- The local address of an access, or the precise fault (11 R186). -/
def localAddress (v : Value) (off : Int) (k : Nat) : Except Trap Nat :=
  let l := v.lo.toInt + off
  if l < 0 || (lmSize : Int) < l + k then .error ⟨.lmrange, BitVec.ofInt 64 l, 0⟩
  else if l % (k : Int) ≠ 0 then .error ⟨.align, BitVec.ofInt 64 l, 0⟩
  else .ok l.toNat

/-- A range of local memory that must lie inside it, from a given address (07 R103). -/
def localRange (a : Int) (n : Nat) : Bool := 0 ≤ a && a + n ≤ lmSize

/-- A virtual address is canonical (05 R73). -/
def canonical (a : W64) : Bool := bits a 63 54 == 0 || bits a 63 54 == 1023

/-- An exact integer as a virtual address: in 64 bits, read as two's complement, and canonical (14 R223). -/
def exactCanonical (a : Int) : Bool := -(2 ^ 63) ≤ a && a < 2 ^ 63 && canonical (BitVec.ofInt 64 a)

/-! ## Atomics (11 Table 11-4) -/

/-- The new value of an atomic from the old value and the operand, both k bytes. -/
def atomNew (op : AtomSub) (k : Nat) (o v : Nat) : Nat :=
  let w := 8 * k
  let so := (BitVec.ofNat w o).toInt
  let sv := (BitVec.ofNat w v).toInt
  match op with
  | .add => (o + v) % 2 ^ w
  | .and => o &&& v
  | .or => o ||| v
  | .xor => o ^^^ v
  | .mins => if sv < so then v else o
  | .minu => min o v
  | .maxs => if so < sv then v else o
  | .maxu => max o v
  | .xchg => v
  | .fadd => ((if k = 4 then fp32 else fp64).add .rn o v).1

/-! ## Targets -/

/-- The targets of an instruction with two target fields. -/
def tgts (t u : Tgt) : List Tgt := [t, u]

/-- The register that a target names. -/
def Tgt.regIdx : Tgt → Option Nat
  | .reg i => some i.toNat
  | _ => none

/-- Registers named by targets. -/
def regsOf (ts : List Tgt) : List Nat := ts.filterMap Tgt.regIdx

end Sys2Proof.Machine
end

