-- ==== Sys2Proof/Machine/Net.lean ====
section
/-! DEFINITION. Net: the geometry of dies, bays, regions and boxes (01 R5 to R8; 17 R261), circuits and where they
end (08 R116 to R120, R126), the edge actions that change a token's time (20 R293), and the count batches that
report tokens and capabilities to the Governor (20 R297 to R300). -/

namespace Sys2Proof.Machine

/-! ## Places -/

/-- The global id of PE(d, x, y) (24 Table 24-2; 03 R41). -/
def peOf (d x y : Nat) : Nat := 4096 * d + 64 * y + x
/-- The die of a PE. -/
def peDie (i : Nat) : Nat := i / 4096
/-- The column of a PE on its die. -/
def peX (i : Nat) : Nat := i % 64
/-- The row of a PE on its die. -/
def peY (i : Nat) : Nat := i / 64 % 64

/-- The key of AG node 0 in `State.pes`; AG(d, e, i) is 64 d + 16 e + i above it. Log entry 14 (DESIGN CHOICE). -/
def agBase : Nat := 16384

/-- The PE whose box an AG node's box joins: the one in row or column 4 i of its edge. Log entry 14 (DESIGN CHOICE). -/
def agHost (a : Nat) : Nat :=
  let d := a / 64
  let k := 4 * (a % 16)
  match a / 16 % 4 with
  | 0 => peOf d k 0
  | 1 => peOf d 63 k
  | 2 => peOf d k 63
  | _ => peOf d 0 k

/-- The side on which the PE sees the AG node: 0 north, 1 east, 2 south, 3 west. Log entry 14 (DESIGN CHOICE). -/
def agSide (a : Nat) : Nat :=
  match a / 16 % 4 with
  | 0 => 2
  | 1 => 1
  | 2 => 0
  | _ => 3

/-- The PE at which a key of `State.pes` stands. Log entry 14 (DESIGN CHOICE). -/
def hostPe (key : Nat) : Nat := if key < agBase then key else agHost (key - agBase)

/-- The bay of a PE, 64 d + 8 by + bx (01 R7). -/
def bayOf (key : Nat) : Nat := let p := hostPe key; 64 * peDie p + 8 * (peY p / 8) + peX p / 8

/-- A rectangle of PEs on one die. -/
structure Rect where
  d  : Nat
  x0 : Nat
  y0 : Nat
  w  : Nat
  h  : Nat
  deriving DecidableEq, Repr

/-- The rectangle that SYS_REGION describes (17 Table 17-2). -/
def rectOf (sysreg : W64) : Rect :=
  ⟨bits sysreg 15 14, 8 * bits sysreg 13 11, 8 * bits sysreg 10 8, 8 * (bits sysreg 7 5 + 1), 8 * (bits sysreg 4 2 + 1)⟩

/-- SYS_REGION for a rectangle of bays. -/
def sysRegion (d bx by_ w h : Nat) : W64 :=
  packFields 64 [(14, 2, d), (11, 3, bx), (8, 3, by_), (5, 3, w - 1), (2, 3, h - 1)]

/-- Whether a PE lies in a rectangle. -/
def Rect.has (r : Rect) (i : Nat) : Bool :=
  peDie i == r.d && inRange (peX i) r.x0 r.w && inRange (peY i) r.y0 r.h

/-- The PEs of a rectangle in ascending order of global id: row by row from the lower left. -/
def Rect.pes (r : Rect) : List Nat :=
  (List.range r.h).flatMap fun j => (List.range r.w).map fun k => peOf r.d (r.x0 + k) (r.y0 + j)

/-- The AG nodes whose boxes join a box of the rectangle, as keys of `State.pes`. -/
def Rect.ags (r : Rect) : List Nat :=
  ((List.range 64).map (· + 64 * r.d)).filterMap fun a => if r.has (agHost a) then some (agBase + a) else none

/-- The bays of a rectangle, row by row from the lower left. -/
def Rect.bays (r : Rect) : List Nat :=
  (List.range (r.h / 8)).flatMap fun j =>
    (List.range (r.w / 8)).map fun k => 64 * r.d + 8 * (r.y0 / 8 + j) + r.x0 / 8 + k

/-- The place of a PE in its rectangle, counted row by row. -/
def Rect.index (r : Rect) (i : Nat) : Nat := (peY i - r.y0) * r.w + (peX i - r.x0)

/-- The PE at a place of the rectangle. -/
def Rect.at (r : Rect) (k : Nat) : Nat := peOf r.d (r.x0 + k % r.w) (r.y0 + k / r.w)

/-- The home PE of the control thread (17 R262). -/
def Rect.home (r : Rect) : Nat := peOf r.d r.x0 r.y0

/-- A region's entry of the state. -/
def State.region (s : State) (r : Nat) : Region := Map.get Region.blank s.regions r
/-- A PE or AG node. -/
def State.pe (s : State) (i : Nat) : Pe := Map.get Pe.blank s.pes i
/-- A job. -/
def State.job (s : State) (j : Nat) : Job := Map.get Job.blank s.jobs j
/-- A bay. -/
def State.bay (s : State) (b : Nat) : Bay := Map.get Bay.blank s.bays b
/-- A die. -/
def State.die (s : State) (d : Nat) : Die := Map.get Die.blank s.dies d
/-- A slice. -/
def State.slice (s : State) (k : Nat) : Slice := Map.get Slice.blank s.slices k
/-- Change a PE. -/
def State.onPe (s : State) (i : Nat) (g : Pe → Pe) : State := { s with pes := Map.modify Pe.blank s.pes i g }
/-- Change a region. -/
def State.onRegion (s : State) (r : Nat) (g : Region → Region) : State :=
  { s with regions := Map.modify Region.blank s.regions r g }
/-- Change a job. -/
def State.onJob (s : State) (j : Nat) (g : Job → Job) : State := { s with jobs := Map.modify Job.blank s.jobs j g }
/-- Change a bay. -/
def State.onBay (s : State) (b : Nat) (g : Bay → Bay) : State := { s with bays := Map.modify Bay.blank s.bays b g }
/-- Change a die. -/
def State.onDie (s : State) (d : Nat) (g : Die → Die) : State := { s with dies := Map.modify Die.blank s.dies d g }
/-- Change a slice. -/
def State.onSlice (s : State) (k : Nat) (g : Slice → Slice) : State :=
  { s with slices := Map.modify Slice.blank s.slices k g }
/-- Change the block whose turn it is. -/
def State.onCur (s : State) (g : Frame → Frame) : State := { s with cur := g s.cur }

/-- The rectangle of a region. -/
def Region.rect (r : Region) : Rect := rectOf r.sysreg

/-- The PEs and AG nodes of a region. -/
def Region.nodes (r : Region) : List Nat := r.rect.pes ++ r.rect.ags

/-- The place of a PE or AG node among the nodes of a region. -/
def Region.placeOf (r : Region) (key : Nat) : Nat :=
  if key < agBase then r.rect.index key
  else r.rect.w * r.rect.h + (match findIdx (· == key) r.rect.ags 0 with
    | some e => e.1
    | none => 0)

/-- The PE or AG node at a place of a region. -/
def Region.keyAt (r : Region) (place : Nat) : Option Nat :=
  if place < r.rect.w * r.rect.h then some (r.rect.at place) else r.rect.ags[place - r.rect.w * r.rect.h]?

/-- The holder of capabilities as the root knows it (28 R410): the place of a node, and 8192 for the control thread. -/
def Region.holder (r : Region) (key : Option Nat) : Nat :=
  match key with
  | none => 8192
  | some k => r.placeOf k

/-- The number that stands for no region: that of work which the hub itself does (21 R313, Table 21-3). Log entry 89 (DESIGN
CHOICE). -/
def hubRegion : Nat := 65536

/-- The live region that holds a bay. -/
def State.regionOfBay (s : State) (b : Nat) : Option Nat :=
  (s.regions.find? fun e => e.2.live && e.2.rect.bays.contains b).map Prod.fst

/-! ## Counters of a bay (26 R398, R399) -/

/-- Count events, saturating (26 Table 26-6). -/
def Pmon.plus (c : Pmon) (n : Nat) : Pmon :=
  if 2 ^ 48 - 1 < c.count + n then { c with sat := true, count := 2 ^ 48 - 1 } else { c with count := c.count + n }

/-- A counter counts an event. -/
def Pmon.counts (c : Pmon) (evt : Nat) : Bool := c.en && c.evt == evt

/-- The counters of a bay that are enabled for an event count it. -/
def Bay.tally (b : Bay) (evt n : Nat) : Bay :=
  { b with pmon := b.pmon.mapVals fun _ c => if c.counts evt then c.plus n else c }

/-- Events of a bay's agents (26 Table 26-7). -/
def State.tally (s : State) (bay evt n : Nat) : State :=
  if n != 0 && (s.bay bay).pmon.any (fun e => e.2.counts evt) then s.onBay bay (·.tally evt n) else s

/-- A commit by an agent, an engine or a unit of a region: its stall count returns to 0 (24 R357). -/
def State.progress (s : State) (rid : Nat) : State :=
  if (s.region rid).live then s.onRegion rid fun r => { r with stallCnt := 0 } else s

/-- A commit by an engine or a unit of a PE. -/
def State.progressPe (s : State) (key : Nat) : State :=
  match (s.pe key).region with
  | some rid => s.progress rid
  | none => s

/-- The bay of an agent: a control thread runs on the bay controller of its region's lower-left bay (17 R262). -/
def agentBay : Agent → Nat
  | .ctl r => r % 256
  | .node p => bayOf p
  | .ag a _ => bayOf (agBase + a)
  | .rule p => bayOf p

/-- An event of the block whose turn it is. -/
def State.tallyCur (s : State) (evt n : Nat) : State := s.tally (agentBay s.cur.agent) evt n

/-! ## Boxes and circuits -/

/-- The step over a side: to the next box, or into a mailbox that leads to a box of another region. -/
inductive Hop where
  | box (key : Nat)
  | mail (slice toPe : Nat) (locs : List Nat)
  deriving DecidableEq, Repr

/-- The neighbouring box on a side, inside the region; a stitched edge wraps (08 Table 8-5). -/
def neighbour (rc : Rect) (stitch : W64) (key side : Nat) : Option Nat :=
  if agBase ≤ key then
    (if side = (agSide (key - agBase) + 2) % 4 then some (agHost (key - agBase)) else none)
  else
    let x := peX key
    let y := peY key
    let ag : Option Nat := (rc.ags.find? fun a => agHost (a - agBase) == key && agSide (a - agBase) == side)
    match side with
    | 0 => if y + 1 < rc.y0 + rc.h then some (peOf rc.d x (y + 1))
      else if bitAt stitch 0 then some (peOf rc.d x rc.y0) else ag
    | 1 => if x + 1 < rc.x0 + rc.w then some (peOf rc.d (x + 1) y)
      else if bitAt stitch 1 then some (peOf rc.d rc.x0 y) else ag
    | 2 => if rc.y0 < y then some (peOf rc.d x (y - 1))
      else if bitAt stitch 0 then some (peOf rc.d x (rc.y0 + rc.h - 1)) else ag
    | _ => if rc.x0 < x then some (peOf rc.d (x - 1) y)
      else if bitAt stitch 1 then some (peOf rc.d (rc.x0 + rc.w - 1) y) else ag

/-- The mailbox edges of a region's sections (08 R126). -/
def Region.mail (r : Region) : List MailEdge := r.info.mail ++ r.nextInfo.mail

/-- What lies over a side of a box for a tag: a mailbox edge of the graph (08 R126), or a neighbouring box. -/
def Region.hop (r : Region) (key side tag : Nat) : Option Hop :=
  match r.mail.find? fun m => r.rect.at m.pe == key && m.side == side && m.tag == tag with
  | some m => some (.mail m.slice m.toPe m.locs)
  | none => (neighbour r.rect r.stitch key side).map .box

/-- The switch-table entry of a box for a tag (08 Table 8-2). -/
def Pe.entry (p : Pe) (tag : Nat) : BitVec 16 := Map.get 0 p.switch tag

/-- V of a switch-table or output-port entry. -/
def entryV (e : BitVec 16) : Bool := bitAt e 15
/-- L: deliver to the input port PORT. -/
def entryL (e : BitVec 16) : Bool := bitAt e 14
/-- PORT. -/
def entryPort (e : BitVec 16) : Nat := bits e 9 4
/-- The sides that an entry forwards to, 0 north, 1 east, 2 south, 3 west. -/
def entrySides (e : BitVec 16) : List Nat :=
  [(13, 0), (12, 1), (11, 2), (10, 3)].filterMap fun p => if bitAt e p.1 then some p.2 else none

/-- The input ports at which a circuit ends, followed from a box (08 R119, R120, R126). -/
def circuitEnds : Nat → State → Nat → Nat → List (Nat × Nat)
  | 0, _, _, _ => []
  | n + 1, s, key, tag =>
    let p := s.pe key
    let e := p.entry tag
    if !entryV e then [] else
      (if entryL e then [(key, entryPort e)] else []) ++
      (entrySides e).flatMap fun side =>
        match p.region with
        | none => []
        | some r =>
          match (s.region r).hop key side tag with
          | some (.box k) => circuitEnds n s k tag
          | some (.mail _ k _) => circuitEnds n s k tag
          | none => []

/-- More boxes than a circuit can pass. -/
def circuitFuel : Nat := 16512

/-- The ends of the circuit with a tag that begins at a box. -/
def State.ends (s : State) (key tag : Nat) : List (Nat × Nat) := circuitEnds circuitFuel s key tag

/-- The tag of the circuit that an output port of a configuration begins (08 Table 8-1). -/
def PeConfig.tagOf (c : PeConfig) (port : Nat) : Option Nat :=
  let e := Map.get 0 c.outp port
  if entryV e then some (bits e 11 0) else none

/-- The tag of the circuit that an output port begins now. -/
def Pe.tagOf (p : Pe) (port : Nat) : Option Nat := p.active.tagOf port

/-- The output ports of a configuration that begin a circuit. -/
def PeConfig.outPorts (c : PeConfig) : List Nat := (c.outp.filter fun e => entryV e.2).map Prod.fst

/-- The output ports that begin a circuit now. -/
def Pe.outPorts (p : Pe) : List Nat := p.active.outPorts

/-! ## Times (20 Table 20-1) -/

/-- Where counter k (1 to 4) or the epoch (0) begins. -/
def timeLo (k : Nat) : Nat := 44 - 11 * k
/-- The width of a field of a time. -/
def timeWidth (k : Nat) : Nat := if k = 0 then 20 else 11
/-- The greatest value of a field. -/
def timeMax (k : Nat) : Nat := if k = 0 then 0xFFFFF else 2047
/-- A field of a time: the epoch, or counter k. -/
def timeField (t : LTime) (k : Nat) : Nat := bits t (timeLo k + timeWidth k - 1) (timeLo k)
/-- A time with one field replaced. -/
def timeSet (t : LTime) (k v : Nat) : LTime := insertBits t (timeLo k) (timeWidth k) v
/-- A time with every counter beyond cD zero (20 R292). -/
def timeCut (t : LTime) (d : Nat) : LTime := (t >>> (timeLo d)) <<< (timeLo d)
/-- A time is well formed at a depth (20 R292). -/
def timeFits (t : LTime) (d : Nat) : Bool := timeCut t d == t
/-- The time ⟨E | 0⟩. -/
def epochTime (e : Nat) : LTime := BitVec.ofNat 64 (e * 2 ^ 44)
/-- EPOCH of a time. -/
def epochOf (t : LTime) : Nat := timeField t 0

/-- The location of an input port (20 Table 20-2). -/
def PeConfig.iloc (c : PeConfig) (port : Nat) : Option Nat :=
  let e := Map.get 0 c.locs port
  if bitAt e 31 then some (bits e 30 21) else none
/-- Input port p is a frontier port. -/
def PeConfig.frp (c : PeConfig) (port : Nat) : Bool := bitAt (Map.get 0 c.locs port) 16
/-- The edge action of an output port. -/
def PeConfig.act (c : PeConfig) (port : Nat) : Nat := bits (Map.get 0 c.locs port) 18 17
/-- The capability location of a source node. -/
def PeConfig.sloc (c : PeConfig) : Option Nat :=
  let e := Map.get 0 c.locs 64
  if bitAt e 31 then some (bits e 30 21) else none
/-- The depth of the node. -/
def PeConfig.depth (c : PeConfig) : Nat := bits (Map.get 0 c.locs 64) 20 18

/-- The time that an edge action sends, or none where `next` passes 2,047 (20 R293). -/
def edgeTime (act depth : Nat) (t : LTime) : Option LTime :=
  match act with
  | 0 => some t
  | 1 => some (timeSet t (depth + 1) 0)
  | 2 => if timeField t depth < 2047 then some (timeSet t depth (timeField t depth + 1)) else none
  | _ => some (timeSet t depth 0)

/-- The output ports to which a delivery at a time raises TIMEOVF (20 R293). -/
def PeConfig.ovfPorts (c : PeConfig) (t : LTime) : List Nat :=
  (c.locs.filter fun e => e.1 < 64 && (edgeTime (bits e.2 18 17) c.depth t).isNone).map Prod.fst

/-! ## Count batches -/

/-- Add one change to a list that holds one entry for each pointstamp (20 R297). -/
def addChange : List CountChange → CountChange → List CountChange
  | [], c => [c]
  | d :: ds, c =>
    if d.loc = c.loc ∧ d.time = c.time then ⟨d.loc, d.time, d.delta + c.delta⟩ :: ds else d :: addChange ds c

/-- Changes summed by pointstamp; a sum of 0 is left out. -/
def sumChanges (cs : List CountChange) : List CountChange :=
  (cs.foldl addChange []).filter fun c => c.delta != 0

/-- The tables that an item on its way carries, as a configuration. -/
def ConfItem.tables? : ConfItem → Option PeConfig
  | .tables outp locs no ro => some { PeConfig.blank with outp := outp, locs := locs, nodeOff := no, ruleOffs := ro }
  | .record _ => none

/-- The configurations of a PE, oldest first: the active one, the pending one where it has begun, and those on their way. -/
def Pe.configs (p : Pe) : List PeConfig :=
  p.active :: (if p.pending == PeConfig.blank then [] else [p.pending]) ++ p.confq.filterMap ConfItem.tables?

/-- The configuration of a PE that belongs to the region's current section: the newest, or, while NEXT = 1, the one before the newest
(18 R423). A PE that has switched already has only that of the next section. -/
def Pe.configFor (p : Pe) (next : Bool) : PeConfig :=
  let cs := p.configs
  ((if next && 2 ≤ cs.length then cs.dropLast else cs).getLast?).getD p.active

/-- The configuration of a PE in the current section of its region. -/
def State.configOf (s : State) (key : Nat) : PeConfig :=
  (s.pe key).configFor (match (s.pe key).region with
    | some r => (s.region r).next
    | none => false)

/-- The change of one pointstamp at the location of an input port, if it has one: that of the section whose token it is. -/
def State.portCount (s : State) (key port : Nat) (t : LTime) (d : Int) : List CountChange :=
  match (s.configOf key).iloc port with
  | some l => [⟨l, t, d⟩]
  | none => []

/-- The changes of a token at every branch of the circuit with a tag that begins at a box: at the ports where it ends on this die, and
at the locations that the graph gives beyond a mailbox (20 R297). -/
def circuitCounts : Nat → State → Nat → Nat → LTime → Int → List CountChange
  | 0, _, _, _, _, _ => []
  | n + 1, s, key, tag, t, d =>
    let p := s.pe key
    let e := p.entry tag
    if !entryV e then [] else
      (if entryL e then s.portCount key (entryPort e) t d else []) ++
      (entrySides e).flatMap fun side =>
        match p.region with
        | none => []
        | some r =>
          match (s.region r).hop key side tag with
          | some (.box k) => circuitCounts n s k tag t d
          | some (.mail _ _ ls) => ls.map fun l => ⟨l, t, d⟩
          | none => []

/-- The room of a bay's count unit (20 R304). -/
def countRoom : Nat := 64

/-- Hand a batch to a bay's count unit, with the epochs that it opens (20 R298, R300). A batch that changes nothing is
none. -/
def State.emitBatch (s : State) (bay job region : Nat) (cs : List CountChange) (opens : List (Nat × Nat × Nat)) (stamp : Nat) :
    State :=
  let cs := sumChanges cs
  if cs.isEmpty && opens.isEmpty then s
  else (s.onBay bay fun b => { b with batches := b.batches ++ [⟨job, cs, stamp, region, opens⟩] }).tally bay 0x16 1

/-- Hand a batch that opens no epoch to a bay's count unit (20 R300). -/
def State.emitCounts (s : State) (bay job region : Nat) (cs : List CountChange) (stamp : Nat) : State :=
  s.emitBatch bay job region cs [] stamp

/-! ## Sending a token -/

/-- The tokens of output port 63 in streaming mode, which the dispatcher reads (17 R269), have this tag; in place of a time
they name the slot of the thread that the firing handled. -/
def dispatchTag : Nat := 4096

/-- Put a token on the circuit of a tag at a box, and count +1 once for each branch (08 R119; 20 R297). -/
def State.inject (s : State) (key tag : Nat) (t : Token) : State × List CountChange :=
  ((s.onPe key fun p =>
    { p with outq := Map.modify [] p.outq tag (· ++ [t]), lastSent := Map.set p.lastSent tag t.time }).tally (bayOf key) 0x10 1,
   circuitCounts circuitFuel s key tag t.time 1)

/-- Emit a value at an output port of a configuration: the edge action changes the time; a port that begins no circuit discards the
token and its counts cancel (08 R116; 20 R293). -/
def State.sendAs (s : State) (c : PeConfig) (key port : Nat) (v : Value) (t : LTime) (stamp : Nat) : State × List CountChange :=
  let p := s.pe key
  let streaming := match p.region with
    | some r => (s.region r).streamer.on
    | none => false
  if streaming && port == 63 then
    (s.onPe key fun q =>
      { q with outq := Map.modify [] q.outq dispatchTag (· ++ [⟨v, BitVec.ofNat 64 p.thread, stamp⟩]) }, [])
  else
    match c.tagOf port, edgeTime (c.act port) c.depth t with
    | some tag, some u => s.inject key tag ⟨v, u, stamp⟩
    | _, _ => (s, [])

/-- Emit a value at an output port of the active configuration. -/
def State.sendAt (s : State) (key port : Nat) (v : Value) (t : LTime) (stamp : Nat) : State × List CountChange :=
  s.sendAs (s.pe key).active key port v t stamp

/-- Tokens of an engine are still to leave by an output port: the tile of an MREL or the bytes of an LMSTREAM (14 R227; 07
R114). Log entry 19 (DEDUCED). -/
def Pe.tileDue (p : Pe) (port : Nat) : Bool :=
  (p.src.busy && p.src.port == port) || p.matrix.queue.any fun c => match c.op with
    | .mrel _ _ q _ _ => q == port
    | _ => false

/-- The branches of a circuit count a token. -/
def State.branchCounts (s : State) (key tag : Nat) (t : LTime) (d : Int) : List CountChange :=
  circuitCounts circuitFuel s key tag t d

/-- Emit the EOS that ends a source's output: it is counted at once, and follows the port's other tokens (20 R299). -/
def State.sendLast (s : State) (c : PeConfig) (key port : Nat) (t : LTime) (stamp : Nat) : State × List CountChange :=
  let p := s.pe key
  let v : Value := ⟨.eos, false, false, 0⟩
  if p.tileDue port then
    match c.tagOf port, edgeTime (c.act port) c.depth t with
    | some tag, some u =>
      (s.onPe key fun q => { q with matrix := { q.matrix with behind := q.matrix.behind ++ [(port, tag, ⟨v, u, stamp⟩)] } },
       s.branchCounts key tag u 1)
    | _, _ => (s, [])
  else s.sendAs c key port v t stamp

/-- Emit EOS at each of a list of ports. -/
def State.sendLasts (c : PeConfig) (key : Nat) (t : LTime) (stamp : Nat) : State → List Nat → State × List CountChange
  | s, [] => (s, [])
  | s, p :: ps =>
    let r := s.sendLast c key p t stamp
    let q := State.sendLasts c key t stamp r.1 ps
    (q.1, r.2 ++ q.2)

/-- The last token of an engine has left a port: what follows it goes on its circuit. Log entry 19 (DEDUCED). -/
def State.followOn (s : State) (key port : Nat) : State :=
  let p := s.pe key
  if p.tileDue port then s
  else
    (p.matrix.behind.filter fun e => e.1 == port).foldl (fun s e => (s.inject key e.2.1 e.2.2).1)
      (s.onPe key fun q => { q with matrix := { q.matrix with behind := q.matrix.behind.filter fun e => e.1 != port } })

/-- Emit a value at each of a list of ports. -/
def State.sendAll (key : Nat) (v : Value) (t : LTime) (stamp : Nat) :
    State → List Nat → State × List CountChange
  | s, [] => (s, [])
  | s, p :: ps =>
    let r := s.sendAt key p v t stamp
    let q := State.sendAll key v t stamp r.1 ps
    (q.1, r.2 ++ q.2)

end Sys2Proof.Machine
end

