-- ==== Sys2Proof/Machine/Ops.lean ====
section
/-! DEFINITION. Ops: the operations that every instruction shares: issuing, delivering and counting (09 R137 to R149),
registers (09 R139), the fault queue and containment (24 R352 to R356), taking a precise fault (24 R353, R354), and
leaving the handler (24 R373). -/

namespace Sys2Proof.Machine

/-! ## Blocks -/

/-- NOUT of a block (09 Table 9-1). -/
def Frame.nout (f : Frame) : Nat := bits f.header 23 20
/-- NST of a block. -/
def Frame.nst (f : Frame) : Nat := bits f.header 19 16
/-- LAST of a block. -/
def Frame.last (f : Frame) : Nat := bits f.header 29 24
/-- A slot of a block. -/
def Frame.slotAt (f : Frame) (k : Nat) : Slot := f.slots.getD k Slot.blank
/-- The slot whose turn it is. -/
def Frame.slot (f : Frame) : Slot := f.slotAt f.turn
/-- Change a slot. -/
def Frame.onSlot (f : Frame) (k : Nat) (g : Slot → Slot) : Frame := { f with slots := f.slots.modify k g }
/-- Mark the slot whose turn it is. -/
def Frame.mark (f : Frame) (p : Phase) : Frame := f.onSlot f.turn fun s => { s with phase := p }
/-- Add an effect that takes place at the commit. -/
def Frame.act (f : Frame) (a : Act) : Frame := { f with acts := f.acts ++ [(f.turn, a)] }
/-- Record flags, which enter FLAGS at the commit (03 R43). -/
def Frame.flag (f : Frame) (fl : Flags) : Frame := { f with flags := f.flags ++ [(f.turn, fl)] }

/-- The key in `State.pes` of the PE or AG node on which an agent runs, none for a control thread. -/
def agentKey : Agent → Option Nat
  | .ctl _ => none
  | .node p => some p
  | .ag a _ => some (agBase + a)
  | .rule p => some p

/-! ## Delivering (09 R137, R144, R146, R162) -/

/-- A fault with no information. -/
def trap (c : FaultCode) : Trap := ⟨c, 0, 0⟩

/-- The registers to which a block has delivered, deferred writes included (10 R162). -/
def Act.regDelivered : Act → Option Nat
  | .reg i _ => some i
  | .defer i => some i
  | .landed i _ _ => some i
  | .lost i _ => some i
  | .latom _ _ _ _ _ _ r => r
  | .ctr i _ => some i
  | _ => none

/-- A block has delivered to a register. -/
def Frame.regTaken (f : Frame) (i : Nat) : Bool := f.acts.any fun a => a.2.regDelivered == some i

/-- Count one delivery toward NOUT; one beyond it is OUTCOUNT (09 R147). -/
def Frame.countOut (f : Frame) : Except Trap Frame :=
  if f.outs < f.nout then .ok { f with outs := f.outs + 1 } else .error (trap .outcount)

/-- Deliver to a register, as the effect given: twice to one register is REGDUP (10 R162). -/
def Frame.toReg (f : Frame) (i : Nat) (a : Act) : Except Trap Frame :=
  if f.regTaken i then .error (trap .regdup) else (f.countOut).map (·.act a)

/-- Deliver to an operand or predicate: a second delivery is OPDUP (09 R144). -/
def Frame.toSlot (f : Frame) (k : Nat) (held : Slot → Option Value) (put : Slot → Slot) : Except Trap Frame :=
  if (held (f.slotAt k)).isSome then .error (trap .opdup) else .ok (f.onSlot k put)

/-- A value that a port sends: kinds other than DATA have zero payload (09 Table 9-15). -/
def Value.onPort (v : Value) : Value := if v.isData then v else { v with bits := 0, cap := false }

/-- A value as a register keeps it: g and n registers take 64 bits, v registers 512 (13 R201); a wide value has CAP 0 (09 Table
9-13). -/
def Value.forReg (kind : BlockKind) (i : Nat) (v : Value) : Value :=
  if kind == .node && 16 ≤ i then { v with wide := true, cap := false }
  else { v with wide := false, bits := (v.bits.setWidth 64).setWidth 512 }

/-- Deliver one value to one target (09 Table 9-15). A delivery to an output port whose edge action would pass 2,047 is
TIMEOVF, NULL apart, which sends nothing (20 R293). Log entry 49 (DEDUCED). -/
def Frame.deliver (f : Frame) (t : Tgt) (v : Value) : Except Trap Frame :=
  match t with
  | .none => .ok f
  | .opL k => f.toSlot k.toNat Slot.op0 fun s => { s with op0 := some v }
  | .opR k => f.toSlot k.toNat Slot.op1 fun s => { s with op1 := some v }
  | .opX k => f.toSlot k.toNat Slot.op2 fun s => { s with op2 := some v }
  | .pred k => f.toSlot k.toNat Slot.pred fun s => { s with pred := some v }
  | .reg i => f.toReg i.toNat (.reg i.toNat (if v.isData then some (v.forReg f.kind i.toNat) else none))
  | .port i =>
    if v.kind == .null then (f.countOut).map (·.act (.send i.toNat none))
    else if f.ovf.contains i.toNat then .error (trap .timeovf)
    else (f.countOut).map (·.act (.send i.toNat (some v.onPort)))

/-- Deliver in order. -/
def Frame.deliverAll (f : Frame) : List (Tgt × Value) → Except Trap Frame
  | [] => .ok f
  | (t, v) :: ds =>
    match f.deliver t v with
    | .ok g => g.deliverAll ds
    | .error e => .error e

/-- One value to each of some targets. -/
def toEach (ts : List Tgt) (v : Value) : List (Tgt × Value) := ts.map fun t => (t, v)

/-! ## Registers (09 Table 9-12) -/

/-- A register of an agent. -/
def State.getReg (s : State) (a : Agent) (i : Nat) : Reg :=
  match a with
  | .ctl r => Map.get Reg.blank (s.region r).g i
  | .node p => if i < 16 then Map.get Reg.blank (s.pe p).nregs i else Map.get Reg.blank (s.pe p).vregs (i - 16)
  | .ag a _ =>
    if i < 16 then Map.get Reg.blank (s.pe (agBase + a)).nregs i
    else Map.get Reg.blank (s.pe (agBase + a)).vregs (i - 16)
  | .rule _ => Reg.blank

/-- A node's registers with one of them changed. -/
def Pe.putReg (p : Pe) (i : Nat) (r : Reg) : Pe :=
  if i < 16 then { p with nregs := Map.set p.nregs i r } else { p with vregs := Map.set p.vregs (i - 16) r }

/-- Write a register of an agent. -/
def State.putReg (s : State) (a : Agent) (i : Nat) (r : Reg) : State :=
  match a with
  | .ctl k => s.onRegion k fun g => { g with g := Map.set g.g i r }
  | .node p => s.onPe p (·.putReg i r)
  | .ag a _ => s.onPe (agBase + a) (·.putReg i r)
  | .rule _ => s

/-- A full register. -/
def Reg.ofValue (v : Value) (ts : Nat) : Reg := ⟨.full, v.bits, v.cap, ts, false⟩

/-- The value that a READ of a full register delivers: v registers are 512 bits wide (10 R163). -/
def Reg.value (r : Reg) (kind : BlockKind) (i : Nat) : Value := ⟨.data, kind == .node && 16 ≤ i, r.cap, r.bits⟩

/-! ## The trap record (24 Table 24-2) -/

/-- The AGENT field of an agent: a global PE id, P of a control thread, and for an AG node a number of its own (log entry 14
(DESIGN CHOICE)). -/
def agentNumber : Agent → Nat
  | .ctl r => 16384 + r % 256
  | .node p => p
  | .ag a _ => 16640 + a
  | .rule p => p

/-- ORIGIN of a block's record. -/
def agentOrigin : Agent → Nat
  | .ctl _ => 0
  | .node _ => 1
  | .rule _ => 2
  | .ag _ _ => 6

/-- FLAGS of an agent as its status register holds them. -/
def State.statusOf (s : State) (a : Agent) : W64 :=
  match a with
  | .ctl r => (s.region r).status
  | .node p => (s.pe p).status
  | .rule p => (s.pe p).status
  | .ag a _ => (s.pe (agBase + a)).status

/-- WAIT: a bit for each input port that holds a head token. -/
def Pe.waitMask (p : Pe) : W64 :=
  BitVec.ofNat 64 ((p.inports.filter fun e => !e.2.q.isEmpty).foldl (fun a e => a ||| 2 ^ e.1) 0)

/-- The record of a fault of a block. -/
def State.record (s : State) (f : Frame) (t : Trap) (sev slot : Nat) : TrapRecord :=
  { fcode := t.code.code, origin := BitVec.ofNat 4 (agentOrigin f.agent), sev := BitVec.ofNat 2 sev, slot := BitVec.ofNat 6 slot,
    agent := BitVec.ofNat 16 (agentNumber f.agent), qseq := 0, time := f.time, block := f.addr, info0 := t.info0,
    info1 := t.info1,
    wait := match agentKey f.agent with
      | some k => (s.pe k).waitMask
      | none => 0,
    job := BitVec.ofNat 16 f.job, flags := (s.statusOf f.agent).setWidth 5, pts := BitVec.ofNat 48 f.port.pts }

/-- A record of an engine, a link or the executive. -/
def mkRecord (code : FaultCode) (origin sev agent job : Nat) (i0 i1 : W64) : TrapRecord :=
  { fcode := code.code, origin := BitVec.ofNat 4 origin, sev := BitVec.ofNat 2 sev, slot := 0,
    agent := BitVec.ofNat 16 agent, qseq := 0, time := 0, block := 0, info0 := i0, info1 := i1, wait := 0,
    job := BitVec.ofNat 16 job, flags := 0, pts := 0 }

/-- A record of an agent's own: its waiting ports, its FLAGS and its pts (24 Table 24-2, words 5 to 7). -/
def State.ofAgent (s : State) (a : Agent) (r : TrapRecord) : TrapRecord :=
  { r with
      wait := match agentKey a with
        | some k => (s.pe k).waitMask
        | none => 0,
      flags := (s.statusOf a).setWidth 5,
      pts := BitVec.ofNat 48 (match agentKey a, a with
        | some k, _ => (s.pe k).stamp
        | none, .ctl r => (s.region r).pts
        | none, _ => 0) }

/-- The eight words of a record (24 Table 24-2). Log entry 58 (DESIGN CHOICE). -/
def recWords (r : TrapRecord) : List W64 :=
  [packFields 64 [(52, 12, r.fcode.toNat), (48, 4, r.origin.toNat), (46, 2, r.sev.toNat), (40, 6, r.slot.toNat),
     (16, 16, r.agent.toNat), (0, 16, r.qseq.toNat)],
   r.time, r.block, r.info0, r.info1, r.wait,
   packFields 64 [(48, 16, r.job.toNat), (0, 5, r.flags.toNat)], r.pts.setWidth 64]

/-- A record as 512 bits, word 0 lowest. -/
def recPacked (r : TrapRecord) : W512 := ofLanes 64 ((recWords r).map BitVec.toNat)

/-- A deferred copy record: ORIGIN 3 (24 R353). -/
def recDeferred (r : TrapRecord) : Bool := r.origin == 3#4

/-! ## Events to the host (26 R385) -/

/-- Send an EVENT to the host that submitted a job. -/
def State.event (s : State) (job : Nat) (status : Byte) (ws : List W64) : State :=
  { s with eventSeq := s.eventSeq + 1,
           messages := s.messages ++ [⟨(s.job job).host, 0x09#8, status, BitVec.ofNat 32 s.eventSeq, ws⟩] }

/-! ## Containment (24 R355, R356) -/

/-- The payload of an ERR token (24 R356). -/
def errPayload (cls fcode agent : Nat) : W512 := packFields 512 [(0, 8, cls), (8, 12, fcode), (20, 15, agent)]

/-- The nodes joined to a node by one circuit inside the region, in either direction. -/
def State.joined (s : State) (nodes : List Nat) : List (Nat × Nat) :=
  nodes.flatMap fun k =>
    (s.pe k).outPorts.flatMap fun p =>
      match (s.pe k).tagOf p with
      | none => []
      | some tag => (s.ends k tag).filterMap fun e => if nodes.contains e.1 then some (k, e.1) else none

/-- Grow a set along the edges, as many times as there are nodes. -/
def growSet (edges : List (Nat × Nat)) : Nat → List Nat → List Nat
  | 0, c => c
  | n + 1, c =>
    let more := (edges.filterMap fun e =>
      if c.contains e.1 && !c.contains e.2 then some e.2
      else if c.contains e.2 && !c.contains e.1 then some e.1 else none).eraseDups
    if more.isEmpty then c else growSet edges n (c ++ more)

/-- The set C of a node (24 R355). -/
def State.containedSet (s : State) (rid node : Nat) : List Nat :=
  let nodes := (s.region rid).nodes.filter fun k => (s.pe k).active.node.isSome
  growSet (s.joined nodes) nodes.length [node]

/-- The counts of the tokens that the input ports of a node hold, and of those that have not left it, each −1 (24 R355). -/
def State.dropCounts (s : State) (key : Nat) : List CountChange :=
  ((s.pe key).inports.flatMap fun e =>
    let held := if e.2.counts.isEmpty then e.2.q.map (·.time) else e.2.counts.flatten
    (held ++ e.2.batch.records.map (·.time)).flatMap fun t => s.portCount key e.1 t (-1)) ++
  ((s.pe key).matrix.behind.flatMap fun e => s.branchCounts key e.2.1 e.2.2.time (-1)) ++
  (s.pe key).matrix.queue.flatMap fun c => match c.op with
    | .mrel _ _ port _ _ => (c.tokens.flatMap fun x => (s.sendAt key port x.val x.time x.stamp).2).map fun d => { d with delta := -d.delta }
    | _ => []

/-- A handle poisoned with a code (06 R100). -/
def Handle.poison (h : Handle) (fcode : Nat) : Handle := { h with psn := true, fcode := BitVec.ofNat 7 fcode }

/-- Poison the handles of a list. -/
def State.poisonHandles (fcode : Nat) : State → List (Nat × Nat) → State
  | s, [] => s
  | s, (p, h) :: hs =>
    State.poisonHandles fcode
      (s.onPe p fun q => { q with handles := Map.modify Handle.blank q.handles h (·.poison fcode) }) hs

/-- A waiter is a slot of an agent that satisfies a test. -/
def waitsFor (q : Agent → Bool) : Waiter → Bool
  | .slot a _ => q a
  | _ => false

/-- A page is used by a slot of an agent that satisfies a test. -/
def usesFor (q : Agent → Bool) : PageUser → Bool
  | .slot a _ => q a
  | _ => false

/-- Some users of pages wait no longer, and a failure that none is left to meet is forgotten (07 R107). -/
def Pe.dropUsers (p : Pe) (q : PageUser → Bool) : Pe :=
  { p with refills := p.refills.map fun r => { r with users := r.users.filter fun u => !q u },
           refillErr := (p.refillErr.map fun r => { r with users := r.users.filter fun u => !q u }).filter fun r => !r.users.isEmpty }

/-- What a PE keeps for the blocks of some agents that end: their places among the waiters for a granule (07 R109) and for a page
(07 R107), and their rays (15 R246). -/
def Pe.forget (p : Pe) (q : Agent → Bool) : Pe :=
  { p.dropUsers (usesFor q) with waiters := p.waiters.filter fun w => !q w.agent, march := p.march.filter fun r => !q r.agent }

/-- Forget what the blocks of some agents wait for, their withheld translations too (05 R80). -/
def State.forget (s : State) (q : Agent → Bool) : State :=
  { s with withheld := s.withheld.filter fun w => !waitsFor q w.waiter, pes := s.pes.mapVals fun _ p => p.forget q }

/-- The port of a block that ends without a commit: the accesses of earlier commits, and those of its own that have been
committed, are still under way. -/
def Frame.leftPort (f : Frame) : List Port :=
  let keep := fun (r : Req) => f.phase != .running || r.rid < f.since
  let p := { f.port with outbox := f.port.outbox.filter keep, flight := f.port.flight.filter keep }
  if p.outbox.isEmpty && p.flight.isEmpty then [] else [p]

/-- Drop the blocks of some agents, uncommitted. -/
def State.dropFrame (s : State) (q : Agent → Bool) : State :=
  { s.forget q with
      tails := s.tails ++ ((s.cur :: s.parked).filter fun f => f.live && q f.agent).flatMap Frame.leftPort,
      cur := if s.cur.live && q s.cur.agent then { s.cur with live := false } else s.cur,
      parked := s.parked.filter fun f => !q f.agent }

/-- The agents of a node. -/
def agentOnNode (k : Nat) (a : Agent) : Bool := agentKey a == some k

/-- A node stopped for good: its ports and capabilities are empty and its engines idle. -/
def Pe.seal (p : Pe) : Pe :=
  { p with stopped := true, sealed := true, caps := [],
           inports := p.inports.map fun e => (e.1, { e.2 with q := [], counts := [], batch := ⟨[], 0⟩ }),
           src := { p.src with busy := false }, snk := { p.snk with busy := false },
           matrix := { p.matrix with queue := [], behind := [], stopped := true, map := List.replicate 4 none, phys := List.replicate 8 .free }, lops := [], raceOpen := false,
           march := [], stepRun := StepRun.blank }

/-- The ERR and the EOS that a circuit leaving the set carries (24 R355). -/
def State.severCircuit (cls fcode agent : Nat) (key tag : Nat) (epoch : Nat) (stamp : Nat) (s : State) :
    State × List CountChange :=
  let t := ((s.pe key).lastSent.find tag).getD (epochTime epoch)
  let a := s.inject key tag ⟨⟨.err, false, false, errPayload cls fcode agent⟩, t, stamp⟩
  let b := a.1.inject key tag ⟨⟨.eos, false, false, 0⟩, t, stamp⟩
  (b.1, a.2 ++ b.2)

/-- The tags of the circuits that a member begins and that leave the set. -/
def State.leavingTags (s : State) (c : List Nat) (key : Nat) : List Nat :=
  (s.pe key).outPorts.filterMap fun p =>
    match (s.pe key).tagOf p with
    | none => none
    | some tag => if (s.ends key tag).any fun e => !c.contains e.1 then some tag else none

/-- Sever each of some circuits. -/
def State.severAll (cls fcode agent key epoch stamp : Nat) : State → List Nat → State × List CountChange
  | s, [] => (s, [])
  | s, tag :: ts =>
    let a := s.severCircuit cls fcode agent key tag epoch stamp
    let b := State.severAll cls fcode agent key epoch stamp a.1 ts
    (b.1, a.2 ++ b.2)

/-- Calls of a node still in a queue are withdrawn, −1 each at the queue location; one that a restore has put back after a unit had
taken it completes (24 R355; 22 R340). -/
def State.withdrawCalls (s : State) (rid key : Nat) : State × List CountChange :=
  let mine := fun (c : Call) => c.region == rid && c.pe == key && c.batch.isNone && !c.taken
  let gone := s.dies.flatMap fun d => d.2.copro.queues.flatMap fun q => q.2.filter mine
  ({ s with dies := s.dies.mapVals fun _ d =>
      { d with copro := { d.copro with queues := d.copro.queues.mapVals fun _ q => q.filter fun c => !mine c } } },
   gone.map fun c => ⟨c.qloc, c.time, -1⟩)

/-- The streams that a node has issued and that run; one that is poisoned has stopped (06 R100). -/
def State.streamsOf (s : State) (key : Nat) : List (Nat × Nat) :=
  s.bays.flatMap fun b => (b.2.streams.filter fun e => e.2.live && !e.2.stopped && agentOnNode key e.2.issuer).map fun e => (b.1, e.1)

/-- A request writes memory. -/
def ReqOp.writes : ReqOp → Bool
  | .load | .loadV => false
  | _ => true

/-- A packet carries a write of a port that no slice has accepted. -/
def Packet.unaccepted (p : Packet) (pid : Nat) : Option Nat :=
  match p.body with
  | .req r => if r.port == pid && r.op.writes then some r.rid else none
  | .reply _ => none

/-- Change a stream. -/
def State.onStream (s : State) (bay n : Nat) (g : Stream → Stream) : State :=
  s.onBay bay fun b =>
    { b with streams := match b.streams.find n with
        | some st => b.streams.set n (g st)
        | none => b.streams }

/-- The accesses of a stream that have not left, and the writes that no slice has accepted, are called back: no further byte of a stream
that fails is written (06 R101). -/
def State.callBack (s : State) (bay n : Nat) : State :=
  match (s.bay bay).streams.find n with
  | none => s
  | some st =>
    let back := s.packets.filterMap fun e => e.2.unaccepted st.port.pid
    ({ s with packets := s.packets.filter fun e => (e.2.unaccepted st.port.pid).isNone }).onStream bay n fun x =>
      { x with port := { x.port with outbox := [], flight := x.port.flight.filter fun r => !back.contains r.rid } }

/-- Forget every withheld translation of a waiter that is gone. -/
def State.unwithholdAll (s : State) (w : Waiter) : State := { s with withheld := s.withheld.filter fun x => x.waiter != w }

/-- Stop a stream. -/
def State.stopStream (s : State) (bay n : Nat) : State :=
  (s.callBack bay n).onStream bay n fun st => { st with stopped := true, tiles := [] }

/-- Add a record to a fault queue that has room (24 R353). -/
def Region.enqueue (r : Region) (rec : TrapRecord) : Region :=
  { r with faultq := r.faultq ++ [{ rec with qseq := BitVec.ofNat 16 (r.qseq + 1) }], qseq := r.qseq + 1 }

/-- The record of a poisoned stream (06 R100; 24 Table 24-2): the code of Table 6-4, the handle, its PE and the tile. -/
def copyRecord (st : Stream) (fcode tile : Nat) : TrapRecord :=
  let h := st.head
  { mkRecord .copy 3 1 h.1 st.job
      (packFields 64 [(0, 8, fcode), (8, 5, h.2), (16, 15, h.1)]) (BitVec.ofNat 64 tile) with pts := BitVec.ofNat 48 st.port.pts }

/-- Poison a stream of a member with SEVERED. Its record goes to the queue where there is room; `State.contain` sees to one that finds
none. -/
def State.severStreams (rid : Nat) : State → List (Nat × Nat) → State
  | s, [] => s
  | s, (b, n) :: l =>
    match (s.bay b).streams.find n with
    | none => State.severStreams rid s l
    | some st =>
      let s := ((s.stopStream b n).unwithholdAll (.stream b n)).poisonHandles 0x23 st.handles
      let s := if (s.region rid).faultq.length < 32 then
        s.onRegion rid (·.enqueue (copyRecord st 0x23 st.next)) else s
      State.severStreams rid s l

/-- Contain one member. -/
def State.containNode (rid cls fcode agent : Nat) (c : List Nat) (s : State) (key : Nat) : State :=
  let r := s.region rid
  let drops := s.dropCounts key
  let caps := match (s.configOf key).sloc with
    | some l => (s.pe key).caps.map fun e => (⟨l, e.2, -1⟩ : CountChange)
    | none => []
  let leave := s.leavingTags c key
  let stamp := (s.pe key).stamp
  let s := (s.dropFrame (agentOnNode key)).unwithholdAll (.matrix key)
  let s := s.severStreams rid (s.streamsOf key)
  let w := s.withdrawCalls rid key
  let v := w.1.severAll cls fcode agent key (r.epoch.getD 0) stamp leave
  (v.1.onPe key Pe.seal).emitCounts (bayOf key) r.job rid (v.2 ++ w.2 ++ drops ++ caps) stamp

/-- The members of a set that are not sealed yet. -/
def State.unsealed (s : State) (c : List Nat) : List Nat := c.filter fun k => !(s.pe k).sealed

/-- Contain each of a set of nodes with an error class and the cause (24 R355, R356). -/
def State.containAll (s : State) (rid cls fcode agent : Nat) (c : List Nat) : State :=
  (s.unsealed c).foldl (State.containNode rid cls fcode agent c) s

/-- Error class SEALED (24 Table 24-5). -/
def clsSealed : Nat := 1
/-- Error class DEADLINE. -/
def clsDeadline : Nat := 2
/-- Error class UNJOINED. -/
def clsUnjoined : Nat := 3

/-- Every configured node of a region. -/
def State.configured (s : State) (rid : Nat) : List Nat :=
  (s.region rid).nodes.filter fun k => (s.pe k).active.node.isSome

/-- Mark an entry failed, with its first cause (21 R319). -/
def WsEntry.fail (e : WsEntry) (cause : W64) : WsEntry := if e.failed then e else { e with failed := true, cause := cause }

/-- Mark the entry of a region's section failed (21 R319). -/
def State.failEntry (s : State) (rid : Nat) (cause : W64) : State :=
  let r := s.region rid
  s.onJob r.job fun j =>
    match j.entries.find r.entry with
    | some e => { j with entries := j.entries.set r.entry (e.fail cause) }
    | none => j

/-! ## What a pass keeps of a thread that ends (26 R396, R397; 27 R409) -/

/-- Counter k of a bay. -/
def State.counter (s : State) (bay k : Nat) : Pmon := Map.get Pmon.blank (s.bay bay).pmon k

/-- The count word (26 Table 26-6). -/
def Pmon.word (c : Pmon) : W64 := packFields 64 [(63, 1, b2n c.en), (62, 1, b2n c.sat), (57, 5, c.evt), (0, 48, c.count)]

/-- The count word summed over bays (26 R401). -/
def sumCounters (cs : List Pmon) : Pmon :=
  let first := cs.headD Pmon.blank
  let n := cs.foldl (fun n c => n + c.count) 0
  ⟨first.en, cs.any (·.sat) || 2 ^ 48 - 1 < n, first.evt, min n (2 ^ 48 - 1)⟩

/-- SYS_RRSTAT of the region of a kernel-graph entry (26 Table 26-5). -/
def Job.rrstat (j : Job) (entry : Nat) : W64 :=
  packFields 64 [(32, 8, j.pass), (4, 1, b2n j.logAtom), (3, 1, b2n (j.atomDiv.contains entry)),
    (2, 1, b2n (j.pathDiv.contains entry)), (0, 2, j.rr.toNat)]

/-- The key of a thread's digest. -/
def threadKey (entry : Nat) : Nat := 32768 * entry + 32767

/-- The digests of nodes, by entry and place (26 R396). -/
def placeDigests (r : Region) (pes : List (Nat × Pe)) : List (Nat × W64) :=
  (pes.filter fun x => x.2.active.node.isSome).map fun x => (32768 * r.entry + x.1, x.2.digest)

/-- The digests of the nodes of a region, by entry and place (26 R396). -/
def State.nodeDigests (s : State) (rid : Nat) : List (Nat × W64) :=
  let r := s.region rid
  placeDigests r (r.nodes.map fun k => (r.placeOf k, s.pe k))

/-- Digests join those of the job's run (26 R396). -/
def Job.keepDigests (j : Job) (ds : List (Nat × W64)) : Job := { j with pathDig := ds.foldl (fun m e => Map.set m e.1 e.2) j.pathDig }

/-- The digest of an agent of an entry differs from that of pass 0 (26 R397). Log entry 71 (DEDUCED). -/
def Job.strays (j : Job) (entry : Nat) : Bool :=
  let mine := fun (m : Map W64) => m.filter fun e => e.1 / 32768 == entry
  (mine j.digests).any (fun e => Map.get 0 j.pathDig e.1 != e.2) || (mine j.pathDig).any fun e => (j.digests.find e.1).isNone

/-- A control thread of a recorded or replayed job ends: its region's digests are compared with those of pass 0, and the
snapshot of the pass report is taken (26 R397; 27 R409). -/
def Job.threadEnds (j : Job) (r : Region) (ds : List (Nat × W64)) (cnt : Nat → Pmon) : Job :=
  if j.rr == 0 then j
  else
    let j := j.keepDigests ((threadKey r.entry, r.digest) :: ds)
    let j := if j.rr == 2 && j.strays r.entry then { j with pathDiv := r.entry :: j.pathDiv } else j
    let ws := [BitVec.ofNat 64 r.entry, j.rrstat r.entry, r.digest] ++ (List.range 4).map (fun k => (cnt k).word) ++ [0]
    { j with snaps := j.snaps.set r.entry ws }

/-- The control thread of a region ends. Log entry 71 (DEDUCED). -/
def State.endThread (s : State) (rid : Nat) : State :=
  let r := s.region rid
  if r.halted then s
  else
    let cnt := fun k => sumCounters (r.rect.bays.map fun b => s.counter b k)
    (s.onJob r.job fun j => j.threadEnds r (s.nodeDigests rid) cnt).onRegion rid fun r => { r with halted := true }

/-- The executive ends a region: the nodes are contained with the cause of a record, the thread ends and the entry has failed
(24 R353, R354). -/
def State.endWith (contain : State → Nat → Nat → Nat → Nat → List Nat → State) (s : State) (rid : Nat) (rec : TrapRecord) : State :=
  let s := contain s rid clsSealed rec.fcode.toNat rec.agent.toNat (s.configured rid)
  let s := s.dropFrame fun a => a == .ctl rid
  (s.endThread rid).failEntry rid (rec.fcode.setWidth 64)

/-- A record arrives at a full fault queue: QOVF, and the host is sent it with the 32 that the queue holds (24 R353). -/
def State.qovf (s : State) (rid : Nat) : State :=
  let r := s.region rid
  let rec_ := mkRecord .qovf 8 3 (agentNumber (.ctl rid)) r.job 0 0
  let s := s.endWith State.containAll rid rec_
  (s.event r.job 0 (recWords rec_ ++ r.faultq.flatMap recWords)).onRegion rid fun r => { r with overflow := true }

/-- Contain a set of nodes (24 R355, R356); where the records of its copy streams find the fault queue full, the region stops with
QOVF (24 R353). -/
def State.contain (s : State) (rid cls fcode agent : Nat) (c : List Nat) : State :=
  let n := ((s.unsealed c).flatMap s.streamsOf).length
  let t := s.containAll rid cls fcode agent c
  if n != 0 && 32 < (s.region rid).faultq.length + n && !(s.region rid).overflow then t.qovf rid else t

/-- The executive takes a record of a region: it contains every node, ends the thread and marks the entry failed
(24 R354). -/
def State.execTake (s : State) (rid : Nat) (rec : TrapRecord) : State := s.endWith State.contain rid rec

/-- A record enters the fault queue of a region (24 R353). Log entry 14 (DESIGN CHOICE). -/
def State.post (s : State) (rid : Nat) (rec : TrapRecord) : State :=
  if (s.region rid).overflow then s
  else if (s.region rid).faultq.length < 32 then s.onRegion rid (·.enqueue rec)
  else s.qovf rid

/-- An unrecoverable fault of a node: its set is contained and its record, with SEV 10, enters the queue (24 R355). -/
def State.unrecoverableAt (s : State) (rid key : Nat) (c : FaultCode) (t : LTime) (i0 i1 : W64) : State :=
  let rec_ := s.ofAgent (.node key) (mkRecord c 1 2 key (s.region rid).job i0 i1)
  (s.contain rid clsSealed c.code.toNat key (s.containedSet rid key)).post rid { rec_ with time := t }

/-- The same, of a fault that no operation's time goes with. -/
def State.unrecoverable (s : State) (rid key : Nat) (c : FaultCode) (i0 i1 : W64) : State :=
  s.unrecoverableAt rid key c 0 i0 i1

/-! ## Taking a precise fault (24 R353, R354) -/

/-- The address of the handler block. -/
def tvecAddr (t : W64) : W64 := sext64 55 (bits t 54 2 * 4)

/-- Enter the handler of a control thread with a record (24 R354): SYS_TREC, SYS_EPC, INH and the program counter. -/
def State.enterHandler (s : State) (rid : Nat) (rec : TrapRecord) (epc : W64) : State :=
  s.onRegion rid fun r =>
    { r with trec := recPacked rec, epc := epc, status := statusSet r.status 14 true, pc := tvecAddr r.tvec }

/-- The record of a fault of a control thread goes to its handler, or to the executive when the handler is disabled or
already runs (24 R354). -/
def State.threadFault (s : State) (rid : Nat) (rec : TrapRecord) (epc : W64) : State :=
  let r := s.region rid
  if bitAt r.tvec 63 && !statusInh r.status then s.enterHandler rid rec epc else s.execTake rid rec

/-- What RULEFAULT names: the fault of the rule firing, the rule, and the brick and site of the first lane (15 Table 15-7; log
entry 15). -/
def ruleInfo (g : RuleGroup) (t : Trap) : W64 :=
  let st := g.sites.headD (0, 0)
  packFields 64 [(0, 12, t.code.code.toNat), (16, 3, g.rule), (24, 8, st.1), (32, 9, st.2)]

/-- A rule firing has faulted: the PSTEP of its PE stops and RULEFAULT enters the queue, with the code of the cause
(15 R241). -/
def State.ruleFault (s : State) (f : Frame) (t : Trap) (slot : Nat) : State :=
  let s := match agentKey f.agent with
    | some k => s.onPe k fun p => { p with stopped := true }
    | none => s
  s.post f.region { s.record f ⟨.rulefault, ruleInfo f.group t, t.info0⟩ 1 slot with origin := 2#4 }

/-- A firing of an AG node ends uncommitted: the ones admitted after it, which would commit after it, are abandoned with it and run again
(12 R197). Log entry 38 (DEDUCED). -/
def State.leaveAg (s : State) (n k : Nat) : State :=
  let t := s.dropFrame fun a => match a with
    | .ag m j => m == n && k < j
    | _ => false
  { t with ags := Map.modify Ag.blank t.ags n fun x => { x with inflight := x.inflight.filter (· < k) } }

/-- THE PRECISE FAULT: the block whose turn it is commits nothing. A control thread enters its handler; every other agent
reports through the fault queue of its region, and its node starts no further firing (24 R353, R354). -/
def State.raisePrecise (s : State) (t : Trap) : State :=
  let f := s.cur
  let s1 := { s.forget (· == f.agent) with cur := { f with live := false }, tails := s.tails ++ f.leftPort }
  match f.agent with
  | .ctl r => s1.threadFault r (s.record f t 0 f.turn) f.addr
  | .rule _ => s1.ruleFault f t f.turn
  | .node p => (s1.onPe p fun q => { q with stopped := true }).post f.region (s.record f t 0 f.turn)
  | .ag a k => ((s1.leaveAg a k).onPe (agBase + a) fun q => { q with stopped := true }).post f.region (s.record f t 0 f.turn)

/-! ## Issuing (09 R138, R144, R145) -/

/-- What an instruction answers at its issue. -/
inductive Res where
  /-- it has acted, and delivers -/
  | done (s : State) (out : List (Tgt × Value))
  /-- it raises a precise fault -/
  | trap (t : Trap)
  /-- it raises a precise fault after reads that stay made (09 R148) -/
  | trapIn (s : State) (t : Trap)
  /-- it has issued and waits for another agent -/
  | wait (s : State)
  /-- it has issued a device access that has not returned -/
  | fly (s : State)
  /-- it ends its block uncommitted, without a record in the region (24 R372) -/
  | stop (s : State)

/-- Deliver for the slot whose turn it is, which has then issued; a fault of a delivery is precise (09 R144, R147). -/
def State.retire (s : State) (out : List (Tgt × Value)) : State :=
  match s.cur.deliverAll out with
  | .ok f => { s with cur := f.mark .issued }
  | .error t => s.raisePrecise t

/-- The state that an answer leaves. -/
def Res.settle (s : State) : Res → State
  | .done s out => s.retire out
  | .trap t => s.raisePrecise t
  | .trapIn s t => s.raisePrecise t
  | .wait s => s.onCur (·.mark .blocked)
  | .fly s => s.onCur (·.mark .inflight)
  | .stop s => s

/-- The operands that a slot holds, when all of the first `n` have been delivered (09 R144). -/
def Slot.operands (sl : Slot) : Nat → Option (List Value)
  | 0 => some []
  | 1 => sl.op0.map fun a => [a]
  | 2 => match sl.op0, sl.op1 with
    | some a, some b => some [a, b]
    | _, _ => none
  | _ => match sl.op0, sl.op1, sl.op2 with
    | some a, some b, some c => some [a, b, c]
    | _, _, _ => none

/-- A predicate has arrived and matches, has arrived without matching, or has not arrived (09 R138). -/
def Slot.predicate (sl : Slot) : Pm → Option Bool
  | .always => some true
  | .ifTrue => sl.pred.map Value.holds
  | .ifFalse => sl.pred.map fun v => !v.holds

/-- A slot may still issue: it has not issued, or it waits. -/
def Slot.open_ (sl : Slot) : Bool := sl.phase == .idle || sl.phase == .blocked

/-- The operands of the slot whose turn it is, when its instruction issues now (09 R144). -/
def Frame.ready (f : Frame) (p : Pm) (n : Nat) : Option (List Value) :=
  if f.live && f.phase == .running && f.slot.open_ && f.slot.predicate p == some true then f.slot.operands n else none

/-- Its predicate has arrived without matching: it never issues (09 R138). -/
def Frame.skips (f : Frame) (p : Pm) : Bool :=
  f.live && f.phase == .running && f.slot.phase == .idle && f.slot.predicate p == some false

/-- Issue the instruction of the slot whose turn it is, with its own treatment of kinds. An instruction that is not ready
leaves the state as it is. Log entry 90 (DESIGN CHOICE). -/
def issueAny (p : Pm) (n : Nat) (s : State) (k : List Value → Res) : Host.Outcome State Fault Refusal :=
  match s.cur.ready p n with
  | some vs => .next ((k vs).settle s)
  | none => if s.cur.skips p then .next (s.onCur (·.mark .skipped)) else .next s

/-- Issue an instruction by the rule of kinds: an operand that is not DATA is passed on and nothing else happens
(09 R145). -/
def issue (p : Pm) (n : Nat) (ts : List Tgt) (s : State) (k : List Value → Res) : Host.Outcome State Fault Refusal :=
  issueAny p n s fun vs =>
    match nonData vs with
    | some kd => .done s (toEach ts (.ofKind kd))
    | none => k vs

/-- An instruction that computes one 64-bit result from 64-bit operands and does nothing else. -/
def issue1 (p : Pm) (ts : List Tgt) (s : State) (g : W64 → W64) : Host.Outcome State Fault Refusal :=
  issue p 1 ts s fun
    | [a] => .done s (toEach ts (.data (g a.lo)))
    | _ => .done s []

/-- As `issue1`, with two operands. -/
def issue2 (p : Pm) (ts : List Tgt) (s : State) (g : W64 → W64 → W64) : Host.Outcome State Fault Refusal :=
  issue p 2 ts s fun
    | [a, b] => .done s (toEach ts (.data (g a.lo b.lo)))
    | _ => .done s []

/-- As `issue1`, with three operands. -/
def issue3 (p : Pm) (ts : List Tgt) (s : State) (g : W64 → W64 → W64 → W64) : Host.Outcome State Fault Refusal :=
  issue p 3 ts s fun
    | [a, b, c] => .done s (toEach ts (.data (g a.lo b.lo c.lo)))
    | _ => .done s []

/-- An instruction that does nothing at its issue but add an effect to the commit. -/
def issueAct (p : Pm) (n : Nat) (s : State) (g : List Value → Except Trap Act) : Host.Outcome State Fault Refusal :=
  issue p n [] s fun vs =>
    match g vs with
    | .ok a => .done (s.onCur (·.act a)) []
    | .error t => .trap t

end Sys2Proof.Machine
end

