-- ==== Sys2Proof/Machine/Control.lean ====
section
/-! DEFINITION. Control: the exits of a control block and FENCE (18 R276 to R278; 11 R188, R189). -/

namespace Sys2Proof.Machine

/-- The program counter of an offset target: H + 4 × SignExtend(OFF20) (18 Table 18-1). -/
def exitTarget (h : W64) (off : BitVec 20) : W64 := h + 4 * off.signExtend 64

/-- The header that follows a block: H + 4 × (LAST + 2) (18 Table 18-1). -/
def followAddr (f : Frame) : W64 := f.addr + BitVec.ofNat 64 (4 * (f.last + 2))

/-- Take an exit; a second one is BLOCKEXIT (09 R147). -/
def takeExit (s : State) (k : ExitKind) (num : BitVec 3) : Res :=
  if s.cur.exit.isSome then .trap (trap .blockexit)
  else .done (s.onCur fun f => { f with exit := some (k, num) }) []

/-- The region of a control block. -/
def State.myRegion (s : State) : Region := s.region s.cur.region

/-- BRO (18 R276): the next program counter is an offset from the header. -/
def execBro (p : Pm) (exit : BitVec 3) (off : BitVec 20) (s : State) : Host.Outcome State Fault Refusal :=
  issue p 0 [] s fun _ => takeExit s (.goto (exitTarget s.cur.addr off)) exit

/-- BRI (18 R277): op0; an address that is not a multiple of 4 is ALIGN. -/
def execBri (p : Pm) (exit : BitVec 3) (s : State) : Host.Outcome State Fault Refusal :=
  issue p 1 [] s fun
    | [a] => if bits a.lo 1 0 = 0 then takeExit s (.goto a.lo) exit else .trap ⟨.align, a.lo, 0⟩
    | _ => .done s []

/-- CALLO (18 R277): the following header is pushed; with 16 entries held it is CALLDEPTH. -/
def execCallo (p : Pm) (exit : BitVec 3) (off : BitVec 20) (s : State) : Host.Outcome State Fault Refusal :=
  issue p 0 [] s fun _ =>
    if 16 ≤ s.myRegion.rstack.length then .trap (trap .calldepth)
    else takeExit s (.call (exitTarget s.cur.addr off)) exit

/-- RETB (18 R277): the popped address; on an empty stack it is RETEMPTY. -/
def execRetb (p : Pm) (exit : BitVec 3) (s : State) : Host.Outcome State Fault Refusal :=
  issue p 0 [] s fun _ =>
    if s.myRegion.rstack.isEmpty then .trap (trap .retempty) else takeExit s .ret exit

/-! ## The state of the section as a block's earlier slots will leave it (18 R279, R280) -/

/-- The state of a region's section: Table 18-3 with NEXT, the sections behind it, the epoch of the last ARM, and the time
of the last token sent to port 63 of a node (18 R280, R282, R283). -/
structure SectView where
  st    : SectState
  next  : Bool
  info  : SectInfo
  nextInfo : SectInfo
  epoch : Option Nat
  times : Map LTime
  /-- RELEASE has returned the bays (18 R286) -/
  gone  : Bool
  deriving DecidableEq, Repr

/-- The section state as a region holds it. -/
def Region.view (r : Region) : SectView := ⟨r.sect, r.next, r.info, r.nextInfo, r.epoch, r.boundTimes, r.released⟩

/-- ARM sends BOUND to the sources that read port 63 (18 R282). -/
def SectInfo.boundSources (i : SectInfo) : List NodeInfo := i.nodes.filter fun n => n.source.isSome && n.bound

/-- ARM of a section at an epoch. -/
def SectView.armed (v : SectView) (i : SectInfo) (e : Nat) : SectView :=
  { v with st := .armed, next := false, info := i, nextInfo := SectInfo.blank, epoch := some e,
           times := i.boundSources.foldl (fun m n => Map.set m n.place (epochTime e)) [] }

/-- What a command leaves (18 Table 18-3), none where the table has no entry: once the region has been released, none has one until the
Sluice admits a section (18 R286). Log entry 23 (DEDUCED). -/
def SectView.after (v : SectView) : SectOp → Option SectView
  | .cfgload img =>
    match v.st, v.next with
    | .idle, _ => if v.gone then none else some { v with st := .loaded, next := false, info := img.info }
    | .draining, false => some { v with next := true, nextInfo := img.info }
    | .done, false => some { v with st := .loaded, info := img.info }
    | _, _ => none
  | .arm _ e =>
    match v.st, v.next with
    | .loaded, _ => some (v.armed v.info e)
    | .done, true => some (v.armed v.nextInfo e)
    | _, _ => none
  | .bound place _ t =>
    match v.st with
    | .armed | .draining => some { v with times := v.times.set place t }
    | _ => none
  | .gred _ _ _ | .gbcast _ _ _ =>
    match v.st with
    | .armed | .draining => some v
    | _ => none
  | .drain =>
    match v.st with
    | .armed => some { v with st := .draining }
    | _ => none
  | .sinkw =>
    match v.st with
    | .armed | .draining | .done => some { v with st := .done }
    | _ => none
  | .release =>
    match v.st, v.next with
    | .idle, _ => if v.gone then none else some { v with gone := true }
    | .done, false => some { v with st := .idle, info := SectInfo.blank, gone := true }
    | _, _ => none

/-- The section commands that the block's earlier slots have issued, in slot order. Log entry 23 (DEDUCED). -/
def Frame.sectBefore (f : Frame) : List SectOp :=
  (List.range f.turn).flatMap fun k => f.acts.filterMap fun a =>
    if a.1 = k then match a.2 with
      | .sect op => some op
      | _ => none
    else none

/-- The state of the section for the slot whose turn it is (18 R279). -/
def State.sectView (s : State) : SectView :=
  s.cur.sectBefore.foldl (fun v op => (v.after op).getD v) s.myRegion.view

/-- The state of Table 18-3 as a number. -/
def sectCode : SectState → Nat
  | .idle => 0
  | .loaded => 1
  | .armed => 2
  | .draining => 3
  | .done => 4

/-- A fault of a section command: its sub-operation, the state and NEXT, and the offending word (18 Table 18-5; log entry 15
(DESIGN CHOICE)). Log entry 15 (DESIGN CHOICE). -/
def sectTrap (c : FaultCode) (s : State) (sub : Nat) (w : W64) : Trap :=
  ⟨c, packFields 64 [(0, 3, sub), (8, 3, sectCode s.sectView.st), (12, 1, b2n s.sectView.next)], w⟩

/-- HALT (18 R278): legal only when the region stands IDLE. Its fault names the state; it has no sub-operation (log entry 15
(DESIGN CHOICE)). -/
def execHalt (p : Pm) (s : State) : Host.Outcome State Fault Refusal :=
  issue p 0 [] s fun _ =>
    if s.sectView.st == .idle then takeExit s .halt 0 else .trap (sectTrap .sectstate s 0 0)

/-- The group that a node holds in a group slot (17 Table 17-4). -/
def groupIn (groups : BitVec 36) (slot : Nat) : Option Nat :=
  if bitAt groups (9 * slot + 8) then some (bits groups (9 * slot + 7) (9 * slot)) else none

/-- The group in a slot of the node whose block has its turn; a control thread holds none. -/
def State.myGroup (s : State) (slot : Nat) : Option Nat :=
  match agentKey s.cur.agent with
  | some k => groupIn (s.pe k).active.groups slot
  | none => none

/-- FENCE (11 R188, R189): it acts at the commit. A group slot that the node does not hold is an unassigned value. -/
def execFence (p : Pm) (gslot : BitVec 2) (scope : FenceScope) (s : State) : Host.Outcome State Fault Refusal :=
  issue p 0 [] s fun _ =>
    if scope == .group && (s.myGroup gslot.toNat).isNone then .trap (trap .illinsn)
    else .done (s.onCur (·.act (.fence scope gslot.toNat))) []

end Sys2Proof.Machine
end

