-- ==== Sys2Proof/Decode.lean ====
section
/-! DEFINITION. Decode: instruction words to instructions, total on every word and rejecting by name
(09 R135 to R138, R155 to R159), and the encoder written from the same tables. -/

namespace Sys2Proof

/-- Why a word is not an instruction (09 Table 9-20). -/
inductive DecodeError where
  /-- opcode 0x00 or 0x7F: permanently illegal -/
  | illegalOpcode
  /-- opcode 0x4C to 0x4F: reserved -/
  | reservedOpcode
  /-- PM 11 -/
  | illegalPm
  /-- a target of kind 111, or of kind 000 with a nonzero index -/
  | badTarget
  /-- a target in an instruction that names none -/
  | targetNotTaken
  /-- a field that must be zero is not -/
  | zeroField
  /-- a JOIN mode from 101 to 111 -/
  | joinMode
  /-- an X value or a field value that the entry does not assign -/
  | unassigned
  deriving DecidableEq, Repr

/-! ## The fields of the formats (09 R135) -/

/-- The bits [lo + n - 1 : lo] of a word. -/
abbrev fld (w : Word) (lo n : Nat) : BitVec n := w.extractLsb' lo n

/-- A bit of a word. -/
def bitOf (w : Word) (i : Nat) : Bool := fld w i 1 == 1#1

/-- Check that a field that must be zero is zero. -/
def zeroFld (w : Word) (lo n : Nat) : Except DecodeError Unit :=
  if fld w lo n = 0 then .ok () else .error .zeroField

/-- Check that X bits that an entry does not assign are zero. -/
def zeroX (w : Word) (lo n : Nat) : Except DecodeError Unit :=
  if fld w lo n = 0 then .ok () else .error .unassigned

/-- A Bool as a field of one bit. -/
def bit (b : Bool) : BitVec 1 := if b then 1#1 else 0#1

/-- The target that a field names (09 R137, Table 9-10). -/
def Tgt.ofCode (c : BitVec 9) : Except DecodeError Tgt :=
  match c.extractLsb' 6 3 with
  | 0#3 => if c.extractLsb' 0 6 = 0#6 then .ok .none else .error .badTarget
  | 1#3 => .ok (.opL (c.extractLsb' 0 6))
  | 2#3 => .ok (.opR (c.extractLsb' 0 6))
  | 3#3 => .ok (.pred (c.extractLsb' 0 6))
  | 4#3 => .ok (.reg (c.extractLsb' 0 6))
  | 5#3 => .ok (.port (c.extractLsb' 0 6))
  | 6#3 => .ok (.opX (c.extractLsb' 0 6))
  | _ => .error .badTarget

/-- The field of a target (09 Table 9-10). -/
def Tgt.code : Tgt → BitVec 9
  | .none => 0#9
  | .opL s => 1#3 ++ s
  | .opR s => 2#3 ++ s
  | .pred s => 3#3 ++ s
  | .reg i => 4#3 ++ i
  | .port i => 5#3 ++ i
  | .opX s => 6#3 ++ s

/-! ## The enumerated fields -/

/-- The code of a Pm. -/
def Pm.code : Pm → BitVec 2
  | .always => 0#2
  | .ifTrue => 1#2
  | .ifFalse => 2#2

/-- The Pm that a code names. -/
def Pm.ofCode (c : BitVec 2) : Except DecodeError Pm :=
  match c with
  | 0#2 => .ok .always
  | 1#2 => .ok .ifTrue
  | 2#2 => .ok .ifFalse
  | _ => .error .illegalPm

/-- The code of a Sz. -/
def Sz.code : Sz → BitVec 3
  | .s8 => 0#3
  | .z8 => 1#3
  | .s16 => 2#3
  | .z16 => 3#3
  | .s32 => 4#3
  | .z32 => 5#3
  | .x64 => 6#3
  | .x128 => 7#3

/-- The Sz that a code names. -/
def Sz.ofCode (c : BitVec 3) : Except DecodeError Sz :=
  match c with
  | 0#3 => .ok .s8
  | 1#3 => .ok .z8
  | 2#3 => .ok .s16
  | 3#3 => .ok .z16
  | 4#3 => .ok .s32
  | 5#3 => .ok .z32
  | 6#3 => .ok .x64
  | _ => .ok .x128

/-- The code of a JoinMode. -/
def JoinMode.code : JoinMode → BitVec 3
  | .isect => 0#3
  | .union => 1#3
  | .sub => 2#3
  | .madd => 3#3
  | .less => 4#3

/-- The JoinMode that a code names. -/
def JoinMode.ofCode (c : BitVec 3) : Except DecodeError JoinMode :=
  match c with
  | 0#3 => .ok .isect
  | 1#3 => .ok .union
  | 2#3 => .ok .sub
  | 3#3 => .ok .madd
  | 4#3 => .ok .less
  | _ => .error .joinMode

/-- The code of a FenceScope. -/
def FenceScope.code : FenceScope → BitVec 3
  | .firing => 0#3
  | .node => 1#3
  | .group => 2#3
  | .region => 3#3
  | .device => 4#3
  | .system => 5#3

/-- The FenceScope that a code names. -/
def FenceScope.ofCode (c : BitVec 3) : Except DecodeError FenceScope :=
  match c with
  | 0#3 => .ok .firing
  | 1#3 => .ok .node
  | 2#3 => .ok .group
  | 3#3 => .ok .region
  | 4#3 => .ok .device
  | 5#3 => .ok .system
  | _ => .error .unassigned

/-- The code of a AbsNeg. -/
def AbsNeg.code : AbsNeg → BitVec 1
  | .abs => 0#1
  | .neg => 1#1

/-- The AbsNeg that a code names. -/
def AbsNeg.ofCode (c : BitVec 1) : Except DecodeError AbsNeg :=
  match c with
  | 0#1 => .ok .abs
  | _ => .ok .neg

/-- The code of a BitCount. -/
def BitCount.code : BitCount → BitVec 2
  | .clz => 0#2
  | .ctz => 1#2
  | .popc => 2#2

/-- The BitCount that a code names. -/
def BitCount.ofCode (c : BitVec 2) : Except DecodeError BitCount :=
  match c with
  | 0#2 => .ok .clz
  | 1#2 => .ok .ctz
  | 2#2 => .ok .popc
  | _ => .error .unassigned

/-- The code of a ExtWidth. -/
def ExtWidth.code : ExtWidth → BitVec 2
  | .w8 => 0#2
  | .w16 => 1#2
  | .w32 => 2#2

/-- The ExtWidth that a code names. -/
def ExtWidth.ofCode (c : BitVec 2) : Except DecodeError ExtWidth :=
  match c with
  | 0#2 => .ok .w8
  | 1#2 => .ok .w16
  | 2#2 => .ok .w32
  | _ => .error .unassigned

/-- The code of a Cond. -/
def Cond.code : Cond → BitVec 4
  | .eq => 0#4
  | .ne => 1#4
  | .lt => 2#4
  | .le => 3#4
  | .gt => 4#4
  | .ge => 5#4
  | .tst => 6#4

/-- The Cond that a code names. -/
def Cond.ofCode (c : BitVec 4) : Except DecodeError Cond :=
  match c with
  | 0#4 => .ok .eq
  | 1#4 => .ok .ne
  | 2#4 => .ok .lt
  | 3#4 => .ok .le
  | 4#4 => .ok .gt
  | 5#4 => .ok .ge
  | 6#4 => .ok .tst
  | _ => .error .unassigned

/-- The code of a CondI. -/
def CondI.code : CondI → BitVec 3
  | .eq => 0#3
  | .ne => 1#3
  | .ltS => 2#3
  | .geS => 3#3
  | .ltZ => 4#3
  | .geZ => 5#3
  | .leS => 6#3
  | .gtS => 7#3

/-- The CondI that a code names. -/
def CondI.ofCode (c : BitVec 3) : Except DecodeError CondI :=
  match c with
  | 0#3 => .ok .eq
  | 1#3 => .ok .ne
  | 2#3 => .ok .ltS
  | 3#3 => .ok .geS
  | 4#3 => .ok .ltZ
  | 5#3 => .ok .geZ
  | 6#3 => .ok .leS
  | _ => .ok .gtS

/-- The code of a AtomSub. -/
def AtomSub.code : AtomSub → BitVec 4
  | .add => 0#4
  | .and => 1#4
  | .or => 2#4
  | .xor => 3#4
  | .mins => 4#4
  | .minu => 5#4
  | .maxs => 6#4
  | .maxu => 7#4
  | .xchg => 8#4
  | .fadd => 9#4

/-- The AtomSub that a code names. -/
def AtomSub.ofCode (c : BitVec 4) : Except DecodeError AtomSub :=
  match c with
  | 0#4 => .ok .add
  | 1#4 => .ok .and
  | 2#4 => .ok .or
  | 3#4 => .ok .xor
  | 4#4 => .ok .mins
  | 5#4 => .ok .minu
  | 6#4 => .ok .maxs
  | 7#4 => .ok .maxu
  | 8#4 => .ok .xchg
  | 9#4 => .ok .fadd
  | _ => .error .unassigned

/-- The code of a Round. -/
def Round.code : Round → BitVec 2
  | .rn => 0#2
  | .rz => 1#2
  | .rp => 2#2
  | .rm => 3#2

/-- The Round that a code names. -/
def Round.ofCode (c : BitVec 2) : Except DecodeError Round :=
  match c with
  | 0#2 => .ok .rn
  | 1#2 => .ok .rz
  | 2#2 => .ok .rp
  | _ => .ok .rm

/-- The code of a FType. -/
def FType.code : FType → BitVec 3
  | .f16 => 0#3
  | .bf16 => 1#3
  | .f32 => 2#3
  | .f64 => 3#3
  | .vf16 => 4#3
  | .vbf16 => 5#3
  | .vf32 => 6#3
  | .vf64 => 7#3

/-- The FType that a code names. -/
def FType.ofCode (c : BitVec 3) : Except DecodeError FType :=
  match c with
  | 0#3 => .ok .f16
  | 1#3 => .ok .bf16
  | 2#3 => .ok .f32
  | 3#3 => .ok .f64
  | 4#3 => .ok .vf16
  | 5#3 => .ok .vbf16
  | 6#3 => .ok .vf32
  | _ => .ok .vf64

/-- The code of a VType. -/
def VType.code : VType → BitVec 2
  | .vf16 => 0#2
  | .vbf16 => 1#2
  | .vf32 => 2#2
  | .vf64 => 3#2

/-- The VType that a code names. -/
def VType.ofCode (c : BitVec 2) : Except DecodeError VType :=
  match c with
  | 0#2 => .ok .vf16
  | 1#2 => .ok .vbf16
  | 2#2 => .ok .vf32
  | _ => .ok .vf64

/-- The code of a MinMaxSub. -/
def MinMaxSub.code : MinMaxSub → BitVec 2
  | .min => 0#2
  | .max => 1#2
  | .minp => 2#2
  | .maxp => 3#2

/-- The MinMaxSub that a code names. -/
def MinMaxSub.ofCode (c : BitVec 2) : Except DecodeError MinMaxSub :=
  match c with
  | 0#2 => .ok .min
  | 1#2 => .ok .max
  | 2#2 => .ok .minp
  | _ => .ok .maxp

/-- The code of a FCmpSub. -/
def FCmpSub.code : FCmpSub → BitVec 2
  | .eq => 0#2
  | .lt => 1#2
  | .le => 2#2
  | .un => 3#2

/-- The FCmpSub that a code names. -/
def FCmpSub.ofCode (c : BitVec 2) : Except DecodeError FCmpSub :=
  match c with
  | 0#2 => .ok .eq
  | 1#2 => .ok .lt
  | 2#2 => .ok .le
  | _ => .ok .un

/-- The code of a FSignSub. -/
def FSignSub.code : FSignSub → BitVec 2
  | .cpy => 0#2
  | .ncpy => 1#2
  | .xsgn => 2#2

/-- The FSignSub that a code names. -/
def FSignSub.ofCode (c : BitVec 2) : Except DecodeError FSignSub :=
  match c with
  | 0#2 => .ok .cpy
  | 1#2 => .ok .ncpy
  | 2#2 => .ok .xsgn
  | _ => .error .unassigned

/-- The code of a IntWidth. -/
def IntWidth.code : IntWidth → BitVec 2
  | .w8 => 0#2
  | .w16 => 1#2
  | .w32 => 2#2
  | .w64 => 3#2

/-- The IntWidth that a code names. -/
def IntWidth.ofCode (c : BitVec 2) : Except DecodeError IntWidth :=
  match c with
  | 0#2 => .ok .w8
  | 1#2 => .ok .w16
  | 2#2 => .ok .w32
  | _ => .ok .w64

/-- The code of a GxWidth. -/
def GxWidth.code : GxWidth → BitVec 2
  | .gx2 => 0#2
  | .gx4 => 1#2
  | .gx7 => 2#2

/-- The GxWidth that a code names. -/
def GxWidth.ofCode (c : BitVec 2) : Except DecodeError GxWidth :=
  match c with
  | 0#2 => .ok .gx2
  | 1#2 => .ok .gx4
  | 2#2 => .ok .gx7
  | _ => .error .unassigned

/-- The code of a MatType. -/
def MatType.code : MatType → BitVec 3
  | .f64 => 0#3
  | .f32 => 1#3
  | .f16 => 2#3
  | .bf16 => 3#3
  | .gx => 4#3

/-- The MatType that a code names. -/
def MatType.ofCode (c : BitVec 3) : Except DecodeError MatType :=
  match c with
  | 0#3 => .ok .f64
  | 1#3 => .ok .f32
  | 2#3 => .ok .f16
  | 3#3 => .ok .bf16
  | 4#3 => .ok .gx
  | _ => .error .unassigned

/-- The code of a TileBuf. -/
def TileBuf.code : TileBuf → BitVec 2
  | .ta0 => 0#2
  | .ta1 => 1#2
  | .tb0 => 2#2
  | .tb1 => 3#2

/-- The TileBuf that a code names. -/
def TileBuf.ofCode (c : BitVec 2) : Except DecodeError TileBuf :=
  match c with
  | 0#2 => .ok .ta0
  | 1#2 => .ok .ta1
  | 2#2 => .ok .tb0
  | _ => .ok .tb1

/-- The code of a MmaMode. -/
def MmaMode.code : MmaMode → BitVec 2
  | .z => 0#2
  | .k => 1#2
  | .d => 2#2

/-- The MmaMode that a code names. -/
def MmaMode.ofCode (c : BitVec 2) : Except DecodeError MmaMode :=
  match c with
  | 0#2 => .ok .z
  | 1#2 => .ok .k
  | 2#2 => .ok .d
  | _ => .error .unassigned

/-- The code of a PactSub. -/
def PactSub.code : PactSub → BitVec 3
  | .get => 0#3
  | .act => 1#3
  | .adopt => 2#3
  | .deact => 3#3
  | .tidy => 4#3

/-- The PactSub that a code names. -/
def PactSub.ofCode (c : BitVec 3) : Except DecodeError PactSub :=
  match c with
  | 0#3 => .ok .get
  | 1#3 => .ok .act
  | 2#3 => .ok .adopt
  | 3#3 => .ok .deact
  | 4#3 => .ok .tidy
  | _ => .error .unassigned

/-- The code of a PsumSub. -/
def PsumSub.code : PsumSub → BitVec 2
  | .sum => 0#2
  | .max => 1#2
  | .min => 2#2

/-- The PsumSub that a code names. -/
def PsumSub.ofCode (c : BitVec 2) : Except DecodeError PsumSub :=
  match c with
  | 0#2 => .ok .sum
  | 1#2 => .ok .max
  | 2#2 => .ok .min
  | _ => .error .unassigned

/-- The code of a PcopySub. -/
def PcopySub.code : PcopySub → BitVec 2
  | .copy => 0#2
  | .swap => 1#2

/-- The PcopySub that a code names. -/
def PcopySub.ofCode (c : BitVec 2) : Except DecodeError PcopySub :=
  match c with
  | 0#2 => .ok .copy
  | 1#2 => .ok .swap
  | _ => .error .unassigned

/-- The code of a Queue. -/
def Queue.code : Queue → BitVec 3
  | .rast => 0#3
  | .zb => 1#3
  | .tess => 2#3
  | .tfil => 3#3
  | .rtrav => 4#3
  | .asb => 5#3

/-- The Queue that a code names. -/
def Queue.ofCode (c : BitVec 3) : Except DecodeError Queue :=
  match c with
  | 0#3 => .ok .rast
  | 1#3 => .ok .zb
  | 2#3 => .ok .tess
  | 3#3 => .ok .tfil
  | 4#3 => .ok .rtrav
  | 5#3 => .ok .asb
  | _ => .error .unassigned

/-- The SEL and K fields of SITE (15 R242, Table 15-6). -/
def SiteSel.code : SiteSel → BitVec 5
  | .inp k => 0#2 ++ k
  | .x => 8#5
  | .y => 9#5
  | .z => 10#5
  | .rule => 11#5
  | .walls => 12#5
  | .count => 13#5

/-- What SITE's SEL and K fields select. -/
def SiteSel.ofCode (c : BitVec 5) : Except DecodeError SiteSel :=
  if c.extractLsb' 3 2 = 0#2 then .ok (.inp (c.extractLsb' 0 3))
  else match c with
    | 8#5 => .ok .x
    | 9#5 => .ok .y
    | 10#5 => .ok .z
    | 11#5 => .ok .rule
    | 12#5 => .ok .walls
    | 13#5 => .ok .count
    | _ => .error .unassigned

/-! ## The encoder's formats (09 Tables 9-2 to 9-8) -/

/-- Format A. -/
def fmtA (op : BitVec 7) (p : Pm) (t u : BitVec 9) (x : BitVec 5) : Word := op ++ p.code ++ t ++ u ++ x

/-- Format I. -/
def fmtI (op : BitVec 7) (p : Pm) (t : BitVec 9) (imm : BitVec 14) : Word := op ++ p.code ++ t ++ imm

/-- Format M. -/
def fmtM (op : BitVec 7) (p : Pm) (t : BitVec 9) (lsid : BitVec 4) (sz : BitVec 3) (imm : BitVec 7) : Word :=
  op ++ p.code ++ t ++ lsid ++ sz ++ imm

/-- Formats R and P (P has bit 18 zero). -/
def fmtR (op : BitVec 7) (reg : BitVec 6) (fe : BitVec 1) (t u : BitVec 9) : Word := op ++ reg ++ fe ++ t ++ u

/-- Format B. -/
def fmtB (op : BitVec 7) (p : Pm) (exit : BitVec 3) (off : BitVec 20) : Word := op ++ p.code ++ exit ++ off

/-- Format J. -/
def fmtJ (op : BitVec 7) (pa pb : BitVec 6) (mode : BitVec 3) (t : BitVec 9) : Word :=
  op ++ pa ++ pb ++ mode ++ t ++ 0#1

/-! ## The decoder's formats -/

/-- The PM of formats A, I, M and B. -/
def pmOf (w : Word) : Except DecodeError Pm := Pm.ofCode (fld w 23 2)

/-- T0 of formats A, I and M. -/
def t0Of (w : Word) : Except DecodeError Tgt := Tgt.ofCode (fld w 14 9)

/-- T1 of format A. -/
def t1Of (w : Word) : Except DecodeError Tgt := Tgt.ofCode (fld w 5 9)

/-- The targets of an instruction that names none must be zero. -/
def noTgt (w : Word) (lo n : Nat) : Except DecodeError Unit :=
  if fld w lo n = 0 then .ok () else .error .targetNotTaken

/-- Format A with both targets. -/
def decA (w : Word) (mk : Pm → Tgt → Tgt → Instr) : Except DecodeError Instr := do
  let p ← pmOf w
  let t ← t0Of w
  let u ← t1Of w
  .ok (mk p t u)

/-- Format A with no target. -/
def decA0 (w : Word) (mk : Pm → Instr) : Except DecodeError Instr := do
  noTgt w 5 18
  let p ← pmOf w
  .ok (mk p)

/-- Format I, or a format that has one target in T0 and no other. -/
def decI (w : Word) (mk : Pm → Tgt → Instr) : Except DecodeError Instr := do
  let p ← pmOf w
  let t ← t0Of w
  .ok (mk p t)

/-- Format M with a target. -/
def decM (w : Word) (mk : Pm → Tgt → BitVec 4 → Instr) : Except DecodeError Instr := do
  let p ← pmOf w
  let t ← t0Of w
  .ok (mk p t (fld w 10 4))

/-- Format M with no target. -/
def decM0 (w : Word) (mk : Pm → BitVec 4 → Instr) : Except DecodeError Instr := do
  noTgt w 14 9
  let p ← pmOf w
  .ok (mk p (fld w 10 4))

/-- Formats R and P. -/
def decR (w : Word) (mk : BitVec 6 → Bool → Tgt → Tgt → Instr) : Except DecodeError Instr := do
  let t ← Tgt.ofCode (fld w 9 9)
  let u ← Tgt.ofCode (fld w 0 9)
  .ok (mk (fld w 19 6) (bitOf w 18) t u)

/-- Format P: bit 18 is zero. -/
def decP (w : Word) (mk : BitVec 6 → Tgt → Tgt → Instr) : Except DecodeError Instr := do
  zeroFld w 18 1
  decR w fun port _ t u => mk port t u

/-- Format B. -/
def decB (w : Word) (mk : Pm → BitVec 3 → BitVec 20 → Instr) : Except DecodeError Instr := do
  let p ← pmOf w
  .ok (mk p (fld w 20 3) (fld w 0 20))

/-- The instruction that a word encodes (09 R135, R155 to R159). -/
def decode (w : Word) : Except DecodeError Instr :=
  match fld w 25 7 with
  | 0x01#7 => decR w fun reg fe t u => .read reg fe t u
  | 0x02#7 => do
      zeroX w 0 5
      decA w fun p t u => .mov p t u
  | 0x03#7 => decI w fun p t => .movi p t (fld w 0 14)
  | 0x04#7 => decI w fun p t => .movis p t (fld w 0 14)
  | 0x05#7 => do
      zeroX w 0 5
      decA w fun p t u => .null p t u
  | 0x06#7 => decP w fun port t u => .recv port t u
  | 0x07#7 => decP w fun port t u => .recvk port t u
  | 0x08#7 => decP w fun port t u => .recvo port t u
  | 0x09#7 => do
      zeroFld w 0 1
      let mode ← JoinMode.ofCode (fld w 10 3)
      let t ← Tgt.ofCode (fld w 1 9)
      .ok (.join (fld w 19 6) (fld w 13 6) mode t)
  | 0x0A#7 => decB w fun p exit off => .bro p exit off
  | 0x0B#7 => do
      zeroX w 3 2
      decA0 w fun p => .bri p (fld w 0 3)
  | 0x0C#7 => decB w fun p exit off => .callo p exit off
  | 0x0D#7 => do
      zeroX w 3 2
      decA0 w fun p => .retb p (fld w 0 3)
  | 0x0E#7 => do
      zeroX w 0 5
      decA0 w fun p => .halt p
  | 0x0F#7 => do
      let scope ← FenceScope.ofCode (fld w 0 3)
      decA0 w fun p => .fence p (fld w 3 2) scope
  | 0x10#7 => do
      zeroX w 0 5
      decA w fun p t u => .add p t u
  | 0x11#7 => do
      zeroX w 0 5
      decA w fun p t u => .sub p t u
  | 0x12#7 => do
      zeroX w 0 5
      decA w fun p t u => .mul p t u
  | 0x13#7 => do
      zeroX w 1 4
      decA w fun p t u => .mulh p t u (bitOf w 0)
  | 0x14#7 => do
      zeroX w 1 4
      decA w fun p t u => .div p t u (bitOf w 0)
  | 0x15#7 => do
      zeroX w 1 4
      decA w fun p t u => .rem p t u (bitOf w 0)
  | 0x16#7 => do
      zeroX w 0 5
      decA w fun p t u => .and p t u
  | 0x17#7 => do
      zeroX w 0 5
      decA w fun p t u => .or p t u
  | 0x18#7 => do
      zeroX w 0 5
      decA w fun p t u => .xor p t u
  | 0x19#7 => do
      zeroX w 0 5
      decA w fun p t u => .andn p t u
  | 0x1A#7 => do
      zeroX w 0 5
      decA w fun p t u => .shl p t u
  | 0x1B#7 => do
      zeroX w 0 5
      decA w fun p t u => .shr p t u
  | 0x1C#7 => do
      zeroX w 0 5
      decA w fun p t u => .sra p t u
  | 0x1D#7 => do
      zeroX w 0 5
      decA w fun p t u => .rot p t u
  | 0x1E#7 => do
      zeroX w 1 4
      decA w fun p t u => .min p t u (bitOf w 0)
  | 0x1F#7 => do
      zeroX w 1 4
      decA w fun p t u => .max p t u (bitOf w 0)
  | 0x20#7 => do
      zeroX w 0 1
      zeroX w 2 3
      let sub ← AbsNeg.ofCode (fld w 1 1)
      decA w fun p t u => .absneg p t u sub
  | 0x21#7 => do
      zeroX w 0 1
      zeroX w 3 2
      let sub ← BitCount.ofCode (fld w 1 2)
      decA w fun p t u => .bitc p t u sub
  | 0x22#7 => do
      zeroX w 1 4
      decA w fun p t u => .bfx p t u (bitOf w 0)
  | 0x23#7 => do
      zeroX w 0 5
      decA w fun p t u => .bfi p t u
  | 0x24#7 => do
      let cond ← Cond.ofCode (fld w 1 4)
      decA w fun p t u => .cmp p t u cond (bitOf w 0)
  | 0x25#7 => do
      zeroX w 0 1
      zeroX w 2 3
      decA w fun p t u => .sel p t u (bitOf w 1)
  | 0x26#7 => do
      zeroX w 3 2
      let ew ← ExtWidth.ofCode (fld w 1 2)
      decA w fun p t u => .ext p t u ew (bitOf w 0)
  | 0x27#7 => decI w fun p t => .addi p t (fld w 0 14)
  | 0x28#7 => decI w fun p t => .andi p t (fld w 0 14)
  | 0x29#7 => decI w fun p t => .ori p t (fld w 0 14)
  | 0x2A#7 => decI w fun p t => .xori p t (fld w 0 14)
  | 0x2B#7 => do
      zeroX w 6 8
      decI w fun p t => .shli p t (fld w 0 6)
  | 0x2C#7 => do
      zeroX w 6 8
      decI w fun p t => .shri p t (fld w 0 6)
  | 0x2D#7 => do
      zeroX w 6 8
      decI w fun p t => .srai p t (fld w 0 6)
  | 0x2E#7 => do
      let cond ← CondI.ofCode (fld w 11 3)
      decI w fun p t => .cmpi p t cond (fld w 0 11)
  | 0x2F#7 => decI w fun p t => .muli p t (fld w 0 14)
  | 0x30#7 => do
      zeroX w 2 3
      decA w fun p t u => .xlate p t u (bitOf w 1) (bitOf w 0)
  | 0x31#7 => do
      zeroX w 0 5
      decA w fun p t u => .paadd p t u
  | 0x32#7 => decI w fun p t => .paoff p t (fld w 0 14)
  | 0x33#7 => do
      let sz ← Sz.ofCode (fld w 7 3)
      decM w fun p t lsid => .ld p t lsid sz (fld w 0 7)
  | 0x34#7 => do
      let sz ← Sz.ofCode (fld w 7 3)
      decM0 w fun p lsid => .st p lsid sz (fld w 0 7)
  | 0x35#7 => do
      if fld w 7 3 = 7#3 then .ok () else .error .unassigned
      decM w fun p t lsid => .ldv p t lsid (fld w 0 7)
  | 0x36#7 => do
      if fld w 7 3 = 7#3 then .ok () else .error .unassigned
      decM0 w fun p lsid => .stv p lsid (fld w 0 7)
  | 0x37#7 => do
      let sz ← Sz.ofCode (fld w 7 3)
      decM w fun p t lsid => .ldl p t lsid sz (fld w 0 7)
  | 0x38#7 => do
      let sz ← Sz.ofCode (fld w 7 3)
      decM0 w fun p lsid => .stl p lsid sz (fld w 0 7)
  | 0x39#7 => do
      let sz ← Sz.ofCode (fld w 7 3)
      decM w fun p t lsid => .ldlw p t lsid sz (bitOf w 6) (fld w 0 6)
  | 0x3A#7 => do
      let sz ← Sz.ofCode (fld w 7 3)
      decM0 w fun p lsid => .stlf p lsid sz (bitOf w 6) (fld w 0 6)
  | 0x3B#7 => do
      if fld w 7 3 = 7#3 then .ok () else .error .unassigned
      decM w fun p t lsid => .ldlv p t lsid (fld w 0 7)
  | 0x3C#7 => do
      if fld w 7 3 = 7#3 then .ok () else .error .unassigned
      decM0 w fun p lsid => .stlv p lsid (fld w 0 7)
  | 0x3D#7 => do
      let sz ← Sz.ofCode (fld w 7 3)
      let sub ← AtomSub.ofCode (fld w 3 4)
      decM w fun p t lsid => .atom p t lsid sz sub (fld w 0 3)
  | 0x3E#7 => do
      let sz ← Sz.ofCode (fld w 7 3)
      decM w fun p t lsid => .cas p t lsid sz (fld w 0 7)
  | 0x3F#7 => do
      let sz ← Sz.ofCode (fld w 7 3)
      let sub ← AtomSub.ofCode (fld w 3 4)
      decM w fun p t lsid => .atoml p t lsid sz sub (fld w 0 3)
  | 0x40#7 => decA0 w fun p => .bufdef p (fld w 0 5)
  | 0x41#7 => decA w fun p t u => .bufget p t u (fld w 0 5)
  | 0x42#7 => decA0 w fun p => .bufput p (fld w 0 5)
  | 0x43#7 => decA w fun p t u => .bufstat p t u (fld w 0 5)
  | 0x44#7 => decA0 w fun p => .cpyopen p (fld w 0 5)
  | 0x45#7 => decA0 w fun p => .cpyclose p (fld w 0 5)
  | 0x46#7 => decA w fun p t u => .cpywait p t u (fld w 0 5)
  | 0x47#7 => do
      zeroX w 3 2
      let sz ← Sz.ofCode (fld w 0 3)
      decA w fun p t u => .gather p t u sz
  | 0x48#7 => do
      zeroX w 3 2
      let sz ← Sz.ofCode (fld w 0 3)
      decA0 w fun p => .scatter p sz
  | 0x49#7 => do
      zeroX w 4 1
      let sub ← AtomSub.ofCode (fld w 0 4)
      decA w fun p t u => .epatom p t u sub
  | 0x4A#7 => do
      zeroX w 0 5
      decA0 w fun p => .epfence p
  | 0x4B#7 => do
      noTgt w 5 9
      zeroX w 0 5
      decI w fun p t => .lmstream p t
  | 0x4C#7 => .error .reservedOpcode
  | 0x4D#7 => .error .reservedOpcode
  | 0x4E#7 => .error .reservedOpcode
  | 0x4F#7 => .error .reservedOpcode
  | 0x50#7 => do
      let ty ← FType.ofCode (fld w 2 3)
      let rnd ← Round.ofCode (fld w 0 2)
      decA w fun p t u => .fadd p t u ty rnd
  | 0x51#7 => do
      let ty ← FType.ofCode (fld w 2 3)
      let rnd ← Round.ofCode (fld w 0 2)
      decA w fun p t u => .fsub p t u ty rnd
  | 0x52#7 => do
      let ty ← FType.ofCode (fld w 2 3)
      let rnd ← Round.ofCode (fld w 0 2)
      decA w fun p t u => .fmul p t u ty rnd
  | 0x53#7 => do
      let ty ← FType.ofCode (fld w 2 3)
      let rnd ← Round.ofCode (fld w 0 2)
      decA w fun p t u => .fma p t u ty rnd
  | 0x54#7 => do
      let ty ← FType.ofCode (fld w 2 3)
      let rnd ← Round.ofCode (fld w 0 2)
      decA w fun p t u => .fdiv p t u ty rnd
  | 0x55#7 => do
      let ty ← FType.ofCode (fld w 2 3)
      let rnd ← Round.ofCode (fld w 0 2)
      decA w fun p t u => .fsqrt p t u ty rnd
  | 0x56#7 => do
      let ty ← FType.ofCode (fld w 2 3)
      let rnd ← Round.ofCode (fld w 0 2)
      decA w fun p t u => .frsq p t u ty rnd
  | 0x57#7 => do
      let ty ← FType.ofCode (fld w 2 3)
      let sub ← MinMaxSub.ofCode (fld w 0 2)
      decA w fun p t u => .fminmax p t u ty sub
  | 0x58#7 => do
      let ty ← FType.ofCode (fld w 2 3)
      let sub ← FCmpSub.ofCode (fld w 0 2)
      decA w fun p t u => .fcmp p t u ty sub
  | 0x59#7 => do
      zeroX w 0 2
      let ty ← FType.ofCode (fld w 2 3)
      decA w fun p t u => .fclass p t u ty
  | 0x5A#7 => do
      let ty ← FType.ofCode (fld w 2 3)
      let sub ← FSignSub.ofCode (fld w 0 2)
      decA w fun p t u => .fsign p t u ty sub
  | 0x5B#7 => do
      let ty ← FType.ofCode (fld w 2 3)
      let rnd ← Round.ofCode (fld w 0 2)
      decA w fun p t u => .frnd p t u ty rnd
  | 0x5C#7 => do
      let ty ← FType.ofCode (fld w 2 3)
      let rnd ← Round.ofCode (fld w 0 2)
      decA w fun p t u => .fexp2 p t u ty rnd
  | 0x5D#7 => do
      let ty ← FType.ofCode (fld w 2 3)
      let rnd ← Round.ofCode (fld w 0 2)
      decA w fun p t u => .flog2 p t u ty rnd
  | 0x5E#7 => do
      zeroX w 5 3
      let dty ← FType.ofCode (fld w 11 3)
      let ty ← FType.ofCode (fld w 2 3)
      let rnd ← Round.ofCode (fld w 0 2)
      decI w fun p t => .cvt p t dty (bitOf w 10) (fld w 8 2) ty rnd
  | 0x5F#7 => do
      zeroX w 5 6
      let iw ← IntWidth.ofCode (fld w 12 2)
      let ty ← FType.ofCode (fld w 2 3)
      let rnd ← Round.ofCode (fld w 0 2)
      decI w fun p t => .cvti p t iw (bitOf w 11) ty rnd
  | 0x60#7 => do
      zeroX w 5 6
      let iw ← IntWidth.ofCode (fld w 12 2)
      let ty ← FType.ofCode (fld w 2 3)
      let rnd ← Round.ofCode (fld w 0 2)
      decI w fun p t => .cvtf p t iw (bitOf w 11) ty rnd
  | 0x61#7 => do
      if fld w 2 3 = 6#3 then .ok () else .error .unassigned
      let gw ← GxWidth.ofCode (fld w 0 2)
      decA w fun p t u => .gxpack p t u gw
  | 0x62#7 => do
      let ty ← FType.ofCode (fld w 2 3)
      let gw ← GxWidth.ofCode (fld w 0 2)
      decA w fun p t u => .gxunp p t u ty gw
  | 0x63#7 => do
      if fld w 4 1 = 1#1 then .ok () else .error .unassigned
      let ty ← VType.ofCode (fld w 2 2)
      let rnd ← Round.ofCode (fld w 0 2)
      decA w fun p t u => .vred p t u ty rnd
  | 0x64#7 => do
      zeroX w 1 1
      if fld w 4 1 = 1#1 then .ok () else .error .unassigned
      let ty ← VType.ofCode (fld w 2 2)
      decA w fun p t u => .vshuf p t u ty (bitOf w 0)
  | 0x65#7 => do
      zeroX w 0 2
      if fld w 4 1 = 1#1 then .ok () else .error .unassigned
      let ty ← VType.ofCode (fld w 2 2)
      decA w fun p t u => .vbcast p t u ty
  | 0x66#7 => do
      zeroX w 1 1
      if fld w 4 1 = 1#1 then .ok () else .error .unassigned
      let ty ← VType.ofCode (fld w 2 2)
      decA w fun p t u => .vlane p t u ty (bitOf w 0)
  | 0x67#7 => do
      let ty ← FType.ofCode (fld w 2 3)
      let rnd ← Round.ofCode (fld w 0 2)
      decA w fun p t u => .vdot p t u ty rnd
  | 0x68#7 => do
      zeroX w 1 1
      let ty ← MatType.ofCode (fld w 2 3)
      decA0 w fun p => .mlda p ty (bitOf w 0)
  | 0x69#7 => do
      zeroX w 1 1
      let ty ← MatType.ofCode (fld w 2 3)
      decA0 w fun p => .mldb p ty (bitOf w 0)
  | 0x6A#7 => do
      let ty ← MatType.ofCode (fld w 2 3)
      let buf ← TileBuf.ofCode (fld w 0 2)
      decA0 w fun p => .mldl p ty buf
  | 0x6B#7 => do
      let ty ← MatType.ofCode (fld w 2 3)
      let mode ← MmaMode.ofCode (fld w 0 2)
      decA0 w fun p => .mma p ty mode
  | 0x6C#7 => do
      let ty ← MatType.ofCode (fld w 2 3)
      decA0 w fun p => .mst p ty (fld w 0 2)
  | 0x6D#7 => do
      noTgt w 5 9
      let ty ← MatType.ofCode (fld w 2 3)
      decI w fun p t => .mrel p t ty (fld w 0 2)
  | 0x6E#7 => do
      let ty ← MatType.ofCode (fld w 2 3)
      decA0 w fun p => .mjob p ty (fld w 0 2)
  | 0x6F#7 => decA w fun p t u => .ctr p t u (bitOf w 4) (fld w 0 4)
  | 0x70#7 => do
      zeroX w 4 1
      decA0 w fun p => .pldef p (fld w 0 4)
  | 0x71#7 => do
      zeroX w 1 4
      decA0 w fun p => .pshift p (bitOf w 0)
  | 0x72#7 => do
      zeroX w 0 5
      decA0 w fun p => .pstep p
  | 0x73#7 => do
      zeroX w 3 2
      let sub ← PactSub.ofCode (fld w 0 3)
      decA w fun p t u => .pact p t u sub
  | 0x74#7 => do
      zeroX w 2 3
      let sub ← PsumSub.ofCode (fld w 0 2)
      decA w fun p t u => .psum p t u sub
  | 0x75#7 => do
      zeroX w 2 3
      let sub ← PcopySub.ofCode (fld w 0 2)
      decA0 w fun p => .pcopy p sub
  | 0x76#7 => do
      zeroX w 4 1
      decA w fun p t u => .lmarch p t u (fld w 0 4)
  | 0x77#7 => do
      let sel ← SiteSel.ofCode (fld w 0 5)
      decA w fun p t u => .site p t u sel
  | 0x78#7 => match fld w 0 5 with
    | 0#5 => decA w fun p t u => .timeNow p t u
    | 1#5 => decA w fun p t u => .timeCmp p t u
    | 2#5 => decA w fun p t u => .timeMake p t u
    | 3#5 => decA w fun p t u => .timeField p t u
    | _ => .error .unassigned
  | 0x79#7 => match fld w 0 5 with
    | 0#5 => decA w fun p t u => .frontRead p t u
    | 1#5 => decA w fun p t u => .frontWait p t u
    | 2#5 => decA0 w fun p => .frontSubscribe p
    | _ => .error .unassigned
  | 0x7A#7 => match fld w 0 5 with
    | 0#5 => decA w fun p t u => .tcapNew p t u
    | 1#5 => decA0 w fun p => .tcapAdvance p
    | 2#5 => decA0 w fun p => .tcapDrop p
    | _ => .error .unassigned
  | 0x7B#7 => do
      zeroX w 0 1
      let queue ← Queue.ofCode (fld w 2 3)
      decA0 w fun p => .callq p queue (bitOf w 1)
  | 0x7C#7 => match fld w 0 5 with
    | 0#5 => decA0 w fun p => .sysTrap p
    | 1#5 => decA0 w fun p => .sysEret p
    | 2#5 => decA0 w fun p => .sysBkpt p
    | 3#5 => decA w fun p t u => .sysFeatq p t u
    | 4#5 => decA w fun p t u => .sysWdog p t u
    | 5#5 => decA0 w fun p => .sysPmonctl p
    | 6#5 => decA w fun p t u => .sysPmonrd p t u
    | 7#5 => decA0 w fun p => .sysRrmark p
    | 8#5 => decA0 w fun p => .sysTlbinv p
    | 9#5 => decA0 w fun p => .sysCsload p
    | _ => .error .unassigned
  | 0x7D#7 => if bitOf w 13 then do
      noTgt w 14 9
      let p ← pmOf w
      .ok (.sregWr p (fld w 0 13))
    else decI w fun p t => .sregRd p t (fld w 0 13)
  | 0x7E#7 => match fld w 0 5 with
    | 0#5 => decA0 w fun p => .sectCfgload p
    | 1#5 => decA0 w fun p => .sectArm p
    | 2#5 => decA0 w fun p => .sectBound p
    | 3#5 => decA0 w fun p => .sectDrain p
    | 4#5 => decA w fun p t u => .sectSinkw p t u
    | 5#5 => decA0 w fun p => .sectRelease p
    | 6#5 => decA w fun p t u => .sectGred p t u
    | 7#5 => decA0 w fun p => .sectGbcast p
    | _ => .error .unassigned
  | _ => .error .illegalOpcode

/-- The word of an instruction. A step of the machine has no word: it gives the illegal word 0. -/
def encode : Instr → Word
  | .read reg fe t u => fmtR 0x01 reg (bit fe) t.code u.code
  | .mov p t u => fmtA 0x02 p t.code u.code 0#5
  | .movi p t imm => fmtI 0x03 p t.code imm
  | .movis p t imm => fmtI 0x04 p t.code imm
  | .null p t u => fmtA 0x05 p t.code u.code 0#5
  | .recv port t u => fmtR 0x06 port 0 t.code u.code
  | .recvk port t u => fmtR 0x07 port 0 t.code u.code
  | .recvo port t u => fmtR 0x08 port 0 t.code u.code
  | .join pa pb mode t => fmtJ 0x09 pa pb mode.code t.code
  | .bro p exit off => fmtB 0x0A p exit off
  | .bri p exit => fmtA 0x0B p 0 0 (0#2 ++ exit)
  | .callo p exit off => fmtB 0x0C p exit off
  | .retb p exit => fmtA 0x0D p 0 0 (0#2 ++ exit)
  | .halt p => fmtA 0x0E p 0 0 0#5
  | .fence p gslot scope => fmtA 0x0F p 0 0 (gslot ++ scope.code)
  | .add p t u => fmtA 0x10 p t.code u.code 0#5
  | .sub p t u => fmtA 0x11 p t.code u.code 0#5
  | .mul p t u => fmtA 0x12 p t.code u.code 0#5
  | .mulh p t u sg => fmtA 0x13 p t.code u.code (0#4 ++ bit sg)
  | .div p t u sg => fmtA 0x14 p t.code u.code (0#4 ++ bit sg)
  | .rem p t u sg => fmtA 0x15 p t.code u.code (0#4 ++ bit sg)
  | .and p t u => fmtA 0x16 p t.code u.code 0#5
  | .or p t u => fmtA 0x17 p t.code u.code 0#5
  | .xor p t u => fmtA 0x18 p t.code u.code 0#5
  | .andn p t u => fmtA 0x19 p t.code u.code 0#5
  | .shl p t u => fmtA 0x1A p t.code u.code 0#5
  | .shr p t u => fmtA 0x1B p t.code u.code 0#5
  | .sra p t u => fmtA 0x1C p t.code u.code 0#5
  | .rot p t u => fmtA 0x1D p t.code u.code 0#5
  | .min p t u sg => fmtA 0x1E p t.code u.code (0#4 ++ bit sg)
  | .max p t u sg => fmtA 0x1F p t.code u.code (0#4 ++ bit sg)
  | .absneg p t u sub => fmtA 0x20 p t.code u.code (0#3 ++ sub.code ++ 0#1)
  | .bitc p t u sub => fmtA 0x21 p t.code u.code (0#2 ++ sub.code ++ 0#1)
  | .bfx p t u sg => fmtA 0x22 p t.code u.code (0#4 ++ bit sg)
  | .bfi p t u => fmtA 0x23 p t.code u.code 0#5
  | .cmp p t u cond sg => fmtA 0x24 p t.code u.code (cond.code ++ bit sg)
  | .sel p t u nz => fmtA 0x25 p t.code u.code (0#3 ++ bit nz ++ 0#1)
  | .ext p t u ew sg => fmtA 0x26 p t.code u.code (0#2 ++ ew.code ++ bit sg)
  | .addi p t imm => fmtI 0x27 p t.code imm
  | .andi p t imm => fmtI 0x28 p t.code imm
  | .ori p t imm => fmtI 0x29 p t.code imm
  | .xori p t imm => fmtI 0x2A p t.code imm
  | .shli p t imm => fmtI 0x2B p t.code (0#8 ++ imm)
  | .shri p t imm => fmtI 0x2C p t.code (0#8 ++ imm)
  | .srai p t imm => fmtI 0x2D p t.code (0#8 ++ imm)
  | .cmpi p t cond imm => fmtI 0x2E p t.code (cond.code ++ imm)
  | .muli p t imm => fmtI 0x2F p t.code imm
  | .xlate p t u wr nf => fmtA 0x30 p t.code u.code (0#3 ++ bit wr ++ bit nf)
  | .paadd p t u => fmtA 0x31 p t.code u.code 0#5
  | .paoff p t imm => fmtI 0x32 p t.code imm
  | .ld p t lsid sz imm => fmtM 0x33 p t.code lsid sz.code imm
  | .st p lsid sz imm => fmtM 0x34 p 0 lsid sz.code imm
  | .ldv p t lsid imm => fmtM 0x35 p t.code lsid 7#3 imm
  | .stv p lsid imm => fmtM 0x36 p 0 lsid 7#3 imm
  | .ldl p t lsid sz imm => fmtM 0x37 p t.code lsid sz.code imm
  | .stl p lsid sz imm => fmtM 0x38 p 0 lsid sz.code imm
  | .ldlw p t lsid sz q off => fmtM 0x39 p t.code lsid sz.code (bit q ++ off)
  | .stlf p lsid sz q off => fmtM 0x3A p 0 lsid sz.code (bit q ++ off)
  | .ldlv p t lsid imm => fmtM 0x3B p t.code lsid 7#3 imm
  | .stlv p lsid imm => fmtM 0x3C p 0 lsid 7#3 imm
  | .atom p t lsid sz sub off => fmtM 0x3D p t.code lsid sz.code (sub.code ++ off)
  | .cas p t lsid sz imm => fmtM 0x3E p t.code lsid sz.code imm
  | .atoml p t lsid sz sub off => fmtM 0x3F p t.code lsid sz.code (sub.code ++ off)
  | .bufdef p h => fmtA 0x40 p 0 0 h
  | .bufget p t u h => fmtA 0x41 p t.code u.code h
  | .bufput p h => fmtA 0x42 p 0 0 h
  | .bufstat p t u h => fmtA 0x43 p t.code u.code h
  | .cpyopen p h => fmtA 0x44 p 0 0 h
  | .cpyclose p h => fmtA 0x45 p 0 0 h
  | .cpywait p t u h => fmtA 0x46 p t.code u.code h
  | .gather p t u sz => fmtA 0x47 p t.code u.code (0#2 ++ sz.code)
  | .scatter p sz => fmtA 0x48 p 0 0 (0#2 ++ sz.code)
  | .epatom p t u sub => fmtA 0x49 p t.code u.code (0#1 ++ sub.code)
  | .epfence p => fmtA 0x4A p 0 0 0#5
  | .lmstream p t => fmtA 0x4B p t.code 0 0#5
  | .fadd p t u ty rnd => fmtA 0x50 p t.code u.code (ty.code ++ rnd.code)
  | .fsub p t u ty rnd => fmtA 0x51 p t.code u.code (ty.code ++ rnd.code)
  | .fmul p t u ty rnd => fmtA 0x52 p t.code u.code (ty.code ++ rnd.code)
  | .fma p t u ty rnd => fmtA 0x53 p t.code u.code (ty.code ++ rnd.code)
  | .fdiv p t u ty rnd => fmtA 0x54 p t.code u.code (ty.code ++ rnd.code)
  | .fsqrt p t u ty rnd => fmtA 0x55 p t.code u.code (ty.code ++ rnd.code)
  | .frsq p t u ty rnd => fmtA 0x56 p t.code u.code (ty.code ++ rnd.code)
  | .fminmax p t u ty sub => fmtA 0x57 p t.code u.code (ty.code ++ sub.code)
  | .fcmp p t u ty sub => fmtA 0x58 p t.code u.code (ty.code ++ sub.code)
  | .fclass p t u ty => fmtA 0x59 p t.code u.code (ty.code ++ 0#2)
  | .fsign p t u ty sub => fmtA 0x5A p t.code u.code (ty.code ++ sub.code)
  | .frnd p t u ty rnd => fmtA 0x5B p t.code u.code (ty.code ++ rnd.code)
  | .fexp2 p t u ty rnd => fmtA 0x5C p t.code u.code (ty.code ++ rnd.code)
  | .flog2 p t u ty rnd => fmtA 0x5D p t.code u.code (ty.code ++ rnd.code)
  | .cvt p t dty rsd part ty rnd => fmtI 0x5E p t.code (dty.code ++ bit rsd ++ part ++ 0#3 ++ ty.code ++ rnd.code)
  | .cvti p t iw sg ty rnd => fmtI 0x5F p t.code (iw.code ++ bit sg ++ 0#6 ++ ty.code ++ rnd.code)
  | .cvtf p t iw sg ty rnd => fmtI 0x60 p t.code (iw.code ++ bit sg ++ 0#6 ++ ty.code ++ rnd.code)
  | .gxpack p t u gw => fmtA 0x61 p t.code u.code (6#3 ++ gw.code)
  | .gxunp p t u ty gw => fmtA 0x62 p t.code u.code (ty.code ++ gw.code)
  | .vred p t u ty rnd => fmtA 0x63 p t.code u.code (1#1 ++ ty.code ++ rnd.code)
  | .vshuf p t u ty rot => fmtA 0x64 p t.code u.code (1#1 ++ ty.code ++ 0#1 ++ bit rot)
  | .vbcast p t u ty => fmtA 0x65 p t.code u.code (1#1 ++ ty.code ++ 0#2)
  | .vlane p t u ty put => fmtA 0x66 p t.code u.code (1#1 ++ ty.code ++ 0#1 ++ bit put)
  | .vdot p t u ty rnd => fmtA 0x67 p t.code u.code (ty.code ++ rnd.code)
  | .mlda p ty buf => fmtA 0x68 p 0 0 (ty.code ++ 0#1 ++ bit buf)
  | .mldb p ty buf => fmtA 0x69 p 0 0 (ty.code ++ 0#1 ++ bit buf)
  | .mldl p ty buf => fmtA 0x6A p 0 0 (ty.code ++ buf.code)
  | .mma p ty mode => fmtA 0x6B p 0 0 (ty.code ++ mode.code)
  | .mst p ty acc => fmtA 0x6C p 0 0 (ty.code ++ acc)
  | .mrel p t ty acc => fmtA 0x6D p t.code 0 (ty.code ++ acc)
  | .mjob p ty acc => fmtA 0x6E p 0 0 (ty.code ++ acc)
  | .ctr p t u bp reg => fmtA 0x6F p t.code u.code (bit bp ++ reg)
  | .pldef p plane => fmtA 0x70 p 0 0 (0#1 ++ plane)
  | .pshift p cst => fmtA 0x71 p 0 0 (0#4 ++ bit cst)
  | .pstep p => fmtA 0x72 p 0 0 0#5
  | .pact p t u sub => fmtA 0x73 p t.code u.code (0#2 ++ sub.code)
  | .psum p t u sub => fmtA 0x74 p t.code u.code (0#3 ++ sub.code)
  | .pcopy p sub => fmtA 0x75 p 0 0 (0#3 ++ sub.code)
  | .lmarch p t u plane => fmtA 0x76 p t.code u.code (0#1 ++ plane)
  | .site p t u sel => fmtA 0x77 p t.code u.code sel.code
  | .timeNow p t u => fmtA 0x78 p t.code u.code 0#5
  | .timeCmp p t u => fmtA 0x78 p t.code u.code 1#5
  | .timeMake p t u => fmtA 0x78 p t.code u.code 2#5
  | .timeField p t u => fmtA 0x78 p t.code u.code 3#5
  | .frontRead p t u => fmtA 0x79 p t.code u.code 0#5
  | .frontWait p t u => fmtA 0x79 p t.code u.code 1#5
  | .frontSubscribe p => fmtA 0x79 p 0 0 2#5
  | .tcapNew p t u => fmtA 0x7A p t.code u.code 0#5
  | .tcapAdvance p => fmtA 0x7A p 0 0 1#5
  | .tcapDrop p => fmtA 0x7A p 0 0 2#5
  | .callq p queue ord => fmtA 0x7B p 0 0 (queue.code ++ bit ord ++ 0#1)
  | .sysTrap p => fmtA 0x7C p 0 0 0#5
  | .sysEret p => fmtA 0x7C p 0 0 1#5
  | .sysBkpt p => fmtA 0x7C p 0 0 2#5
  | .sysFeatq p t u => fmtA 0x7C p t.code u.code 3#5
  | .sysWdog p t u => fmtA 0x7C p t.code u.code 4#5
  | .sysPmonctl p => fmtA 0x7C p 0 0 5#5
  | .sysPmonrd p t u => fmtA 0x7C p t.code u.code 6#5
  | .sysRrmark p => fmtA 0x7C p 0 0 7#5
  | .sysTlbinv p => fmtA 0x7C p 0 0 8#5
  | .sysCsload p => fmtA 0x7C p 0 0 9#5
  | .sregRd p t num => fmtI 0x7D p t.code (0#1 ++ num)
  | .sregWr p num => fmtI 0x7D p 0 (1#1 ++ num)
  | .sectCfgload p => fmtA 0x7E p 0 0 0#5
  | .sectArm p => fmtA 0x7E p 0 0 1#5
  | .sectBound p => fmtA 0x7E p 0 0 2#5
  | .sectDrain p => fmtA 0x7E p 0 0 3#5
  | .sectSinkw p t u => fmtA 0x7E p t.code u.code 4#5
  | .sectRelease p => fmtA 0x7E p 0 0 5#5
  | .sectGred p t u => fmtA 0x7E p t.code u.code 6#5
  | .sectGbcast p => fmtA 0x7E p 0 0 7#5
  | .sliceAccess _ _ _ _ => 0#32
  | .sectorFill _ _ _ => 0#32
  | .bolterFill _ _ => 0#32
  | .scrubRead _ _ => 0#32
  | .mailboxForward _ _ => 0#32
  | .relayForward _ => 0#32
  | .artEntryEnable _ _ => 0#32
  | .artEntryDisable _ => 0#32
  | .ownerTagWrite _ _ => 0#32
  | .errorLogFree _ _ => 0#32
  | .lostClear _ => 0#32
  | .writeBackRange => 0#32
  | .writeBackInvalidateRange => 0#32
  | .writeBackInvalidateAll => 0#32
  | .rebase => 0#32
  | .maintenanceDone => 0#32
  | .formatWindowEnable _ _ => 0#32
  | .formatWindowDisable _ => 0#32
  | .registerWrite _ _ => 0#32
  | .pageResume _ _ => 0#32
  | .pageRefuse _ _ => 0#32
  | .withheldTimeout _ => 0#32
  | .deviceReply _ => 0#32
  | .copyTileStart _ _ => 0#32
  | .copyTileComplete _ _ _ => 0#32
  | .copyPoison _ _ _ => 0#32
  | .freeNotice _ _ => 0#32
  | .fullNotice _ _ => 0#32
  | .copyMarker _ => 0#32
  | .pageRefill _ _ => 0#32
  | .frameWriteback _ _ => 0#32
  | .fullEmptyWake _ _ => 0#32
  | .lmstreamSourceToken _ => 0#32
  | .lmstreamSinkToken _ => 0#32
  | .tokenHop _ _ => 0#32
  | .packetHop _ _ => 0#32
  | .requestDamaged _ => 0#32
  | .replyResend _ => 0#32
  | .linkuncorr _ => 0#32
  | .circuitUncorr _ _ => 0#32
  | .softerr _ => 0#32
  | .confArrival _ => 0#32
  | .configSwitch _ => 0#32
  | .nodeFiring _ => 0#32
  | .sourceFiring _ => 0#32
  | .agAdmit _ => 0#32
  | .controlBlockFetch _ => 0#32
  | .blockCommit => 0#32
  | .coalesceLaunch _ _ => 0#32
  | .coalesceTimeout _ _ => 0#32
  | .streamBlockSelect _ => 0#32
  | .streamThreadReport _ _ => 0#32
  | .countBatchForward _ _ => 0#32
  | .rootBatchApply _ => 0#32
  | .announcementArrival _ _ => 0#32
  | .peerBatch _ _ _ => 0#32
  | .peerConnectionLoss _ => 0#32
  | .mmaExecute _ _ => 0#32
  | .tileLoadExecute _ => 0#32
  | .mstExecute _ => 0#32
  | .mrelExecute _ => 0#32
  | .mjobExecute _ => 0#32
  | .matrixMarker _ => 0#32
  | .latticeLocalApply _ => 0#32
  | .pshiftRun _ => 0#32
  | .pstepRun _ => 0#32
  | .marchHandoff _ => 0#32
  | .callTake _ _ _ => 0#32
  | .callReturn _ _ _ => 0#32
  | .zbRelease _ _ => 0#32
  | .unitTimeout _ _ _ => 0#32
  | .queueMarker _ _ _ => 0#32
  | .wsEntryRead _ => 0#32
  | .wsPoolEnter _ => 0#32
  | .wsEntryComplete _ _ => 0#32
  | .sluiceDecision => 0#32
  | .handlerEntry _ => 0#32
  | .qovf _ _ => 0#32
  | .deadline _ => 0#32
  | .stall _ => 0#32
  | .haltGraceExpiry _ => 0#32
  | .jobdeadline _ => 0#32
  | .preemptInject _ => 0#32
  | .markReceived _ _ => 0#32
  | .cutComplete _ => 0#32
  | .draintimeout _ => 0#32
  | .restoreContext _ => 0#32
  | .jobsubmit _ _ _ => 0#32
  | .jobabort _ _ _ => 0#32
  | .epattach _ _ _ _ _ => 0#32
  | .epdetach _ _ _ _ => 0#32
  | .checkpoint _ _ _ => 0#32
  | .restoreImage _ _ _ => 0#32
  | .telemetry _ _ => 0#32
  | .replay _ _ _ _ => 0#32
  | .exportRange _ _ _ _ _ _ => 0#32
  | .unexportRange _ _ _ _ => 0#32
  | .rmaRead _ _ _ _ _ => 0#32
  | .rmaWrite _ _ _ _ _ => 0#32
  | .rmaAtomic _ _ _ _ _ _ => 0#32
  | .endpointAck _ _ => 0#32
  | .epfail _ => 0#32
  | .pageCapture _ _ => 0#32
  | .powerUp => 0#32
  | .bootImageArrival _ _ => 0#32
  | .bootRetry => 0#32
  | .bayIdleEntry _ => 0#32
  | .thermalThrottle _ _ => 0#32
  | .thermalShutdown _ _ => 0#32
  | .breakResume _ => 0#32
  | .connectionRequest _ => 0#32
  | .badmsg _ _ _ => 0#32
  | .rmaReadResponse _ _ => 0#32
  | .bayPowerGating _ _ => 0#32
  | .selfRefresh _ _ => 0#32

/-- The instruction that the decoder reads from a row of the opcode table whose bits are `w`: the words are 32 bits
long, little-endian, and numbered as the table numbers them (09 R133, R135). -/
def decodeTableWord (nbits w : Nat) : Option Instr :=
  if nbits = 32 then (decode (BitVec.ofNat 32 w)).toOption else none

end Sys2Proof
end

