-- ==== Sys2Proof/Machine/Shape.lean ====
section
/-! DEFINITION. Shape: how many operands an instruction takes, and its predicate mode (09 Table 9-18; the entries of
chapters 10 to 26). A step of the machine that has no encoding takes none and has no predicate mode. -/

namespace Sys2Proof.Machine

/-- The operands that an instruction takes: op0 alone, op0 and op1, or all three. -/
def operandCount : Instr → Nat
  | .read _ _ _ _ => 0
  | .mov _ _ _ => 1
  | .movi _ _ _ => 0
  | .movis _ _ _ => 1
  | .null _ _ _ => 0
  | .recv _ _ _ => 0
  | .recvk _ _ _ => 0
  | .recvo _ _ _ => 0
  | .join _ _ _ _ => 0
  | .bro _ _ _ => 0
  | .bri _ _ => 1
  | .callo _ _ _ => 0
  | .retb _ _ => 0
  | .halt _ => 0
  | .fence _ _ _ => 0
  | .add _ _ _ => 2
  | .sub _ _ _ => 2
  | .mul _ _ _ => 2
  | .mulh _ _ _ _ => 2
  | .div _ _ _ _ => 2
  | .rem _ _ _ _ => 2
  | .and _ _ _ => 2
  | .or _ _ _ => 2
  | .xor _ _ _ => 2
  | .andn _ _ _ => 2
  | .shl _ _ _ => 2
  | .shr _ _ _ => 2
  | .sra _ _ _ => 2
  | .rot _ _ _ => 2
  | .min _ _ _ _ => 2
  | .max _ _ _ _ => 2
  | .absneg _ _ _ _ => 1
  | .bitc _ _ _ _ => 1
  | .bfx _ _ _ _ => 2
  | .bfi _ _ _ => 3
  | .cmp _ _ _ _ _ => 2
  | .sel _ _ _ _ => 3
  | .ext _ _ _ _ _ => 1
  | .addi _ _ _ => 1
  | .andi _ _ _ => 1
  | .ori _ _ _ => 1
  | .xori _ _ _ => 1
  | .shli _ _ _ => 1
  | .shri _ _ _ => 1
  | .srai _ _ _ => 1
  | .cmpi _ _ _ _ => 1
  | .muli _ _ _ => 1
  | .xlate _ _ _ _ _ => 1
  | .paadd _ _ _ => 2
  | .paoff _ _ _ => 1
  | .ld _ _ _ _ _ => 1
  | .st _ _ _ _ => 2
  | .ldv _ _ _ _ => 1
  | .stv _ _ _ => 2
  | .ldl _ _ _ _ _ => 1
  | .stl _ _ _ _ => 2
  | .ldlw _ _ _ _ _ _ => 1
  | .stlf _ _ _ _ _ => 2
  | .ldlv _ _ _ _ => 1
  | .stlv _ _ _ => 2
  | .atom _ _ _ _ _ _ => 2
  | .cas _ _ _ _ _ => 3
  | .atoml _ _ _ _ _ _ => 2
  | .bufdef _ _ => 1
  | .bufget _ _ _ _ => 0
  | .bufput _ _ => 0
  | .bufstat _ _ _ _ => 0
  | .cpyopen _ _ => 2
  | .cpyclose _ _ => 0
  | .cpywait _ _ _ _ => 0
  | .gather _ _ _ _ => 1
  | .scatter _ _ => 2
  | .epatom _ _ _ _ => 2
  | .epfence _ => 0
  | .lmstream _ _ => 1
  | .fadd _ _ _ _ _ => 2
  | .fsub _ _ _ _ _ => 2
  | .fmul _ _ _ _ _ => 2
  | .fma _ _ _ _ _ => 3
  | .fdiv _ _ _ _ _ => 2
  | .fsqrt _ _ _ _ _ => 1
  | .frsq _ _ _ _ _ => 1
  | .fminmax _ _ _ _ _ => 2
  | .fcmp _ _ _ _ _ => 2
  | .fclass _ _ _ _ => 1
  | .fsign _ _ _ _ _ => 2
  | .frnd _ _ _ _ _ => 1
  | .fexp2 _ _ _ _ _ => 1
  | .flog2 _ _ _ _ _ => 1
  | .cvt _ _ _ _ _ _ _ => 1
  | .cvti _ _ _ _ _ _ => 1
  | .cvtf _ _ _ _ _ _ => 1
  | .gxpack _ _ _ _ => 1
  | .gxunp _ _ _ _ _ => 1
  | .vred _ _ _ _ _ => 1
  | .vshuf _ _ _ _ _ => 2
  | .vbcast _ _ _ _ => 1
  | .vlane _ _ _ _ put => if put then 3 else 2
  | .vdot _ _ _ ty _ => if ty.scalar then 3 else 2
  | .mlda _ _ _ => 2
  | .mldb _ _ _ => 2
  | .mldl _ _ _ => 2
  | .mma _ _ mode => if mode == .d then 2 else 1
  | .mst _ _ _ => 3
  | .mrel _ _ _ _ => 1
  | .mjob _ _ _ => 1
  | .ctr _ _ _ _ _ => 0
  | .pldef _ _ => 2
  | .pshift _ cst => if cst then 2 else 1
  | .pstep _ => 2
  | .pact _ _ _ sub => if sub == .get || sub == .tidy then 1 else 2
  | .psum _ _ _ _ => 1
  | .pcopy _ _ => 1
  | .lmarch _ _ _ _ => 1
  | .site _ _ _ _ => 0
  | .timeNow _ _ _ => 0
  | .timeCmp _ _ _ => 2
  | .timeMake _ _ _ => 2
  | .timeField _ _ _ => 2
  | .frontRead _ _ _ => 1
  | .frontWait _ _ _ => 2
  | .frontSubscribe _ => 1
  | .tcapNew _ _ _ => 2
  | .tcapAdvance _ => 2
  | .tcapDrop _ => 1
  | .callq _ _ _ => 1
  | .sysTrap _ => 1
  | .sysEret _ => 2
  | .sysBkpt _ => 1
  | .sysFeatq _ _ _ => 0
  | .sysWdog _ _ _ => 2
  | .sysPmonctl _ => 1
  | .sysPmonrd _ _ _ => 1
  | .sysRrmark _ => 1
  | .sysTlbinv _ => 2
  | .sysCsload _ => 2
  | .sregRd _ _ _ => 0
  | .sregWr _ _ => 1
  | .sectCfgload _ => 1
  | .sectArm _ => 2
  | .sectBound _ => 3
  | .sectDrain _ => 0
  | .sectSinkw _ _ _ => 1
  | .sectRelease _ => 0
  | .sectGred _ _ _ => 2
  | .sectGbcast _ => 2
  | .sliceAccess _ _ _ _ => 0
  | .sectorFill _ _ _ => 0
  | .bolterFill _ _ => 0
  | .scrubRead _ _ => 0
  | .mailboxForward _ _ => 0
  | .relayForward _ => 0
  | .artEntryEnable _ _ => 0
  | .artEntryDisable _ => 0
  | .ownerTagWrite _ _ => 0
  | .errorLogFree _ _ => 0
  | .lostClear _ => 0
  | .writeBackRange => 0
  | .writeBackInvalidateRange => 0
  | .writeBackInvalidateAll => 0
  | .rebase => 0
  | .maintenanceDone => 0
  | .formatWindowEnable _ _ => 0
  | .formatWindowDisable _ => 0
  | .registerWrite _ _ => 0
  | .pageResume _ _ => 0
  | .pageRefuse _ _ => 0
  | .withheldTimeout _ => 0
  | .deviceReply _ => 0
  | .copyTileStart _ _ => 0
  | .copyTileComplete _ _ _ => 0
  | .copyPoison _ _ _ => 0
  | .freeNotice _ _ => 0
  | .fullNotice _ _ => 0
  | .copyMarker _ => 0
  | .pageRefill _ _ => 0
  | .frameWriteback _ _ => 0
  | .fullEmptyWake _ _ => 0
  | .lmstreamSourceToken _ => 0
  | .lmstreamSinkToken _ => 0
  | .tokenHop _ _ => 0
  | .packetHop _ _ => 0
  | .requestDamaged _ => 0
  | .replyResend _ => 0
  | .linkuncorr _ => 0
  | .circuitUncorr _ _ => 0
  | .softerr _ => 0
  | .confArrival _ => 0
  | .configSwitch _ => 0
  | .nodeFiring _ => 0
  | .sourceFiring _ => 0
  | .agAdmit _ => 0
  | .controlBlockFetch _ => 0
  | .blockCommit => 0
  | .coalesceLaunch _ _ => 0
  | .coalesceTimeout _ _ => 0
  | .streamBlockSelect _ => 0
  | .streamThreadReport _ _ => 0
  | .countBatchForward _ _ => 0
  | .rootBatchApply _ => 0
  | .announcementArrival _ _ => 0
  | .peerBatch _ _ _ => 0
  | .peerConnectionLoss _ => 0
  | .mmaExecute _ _ => 0
  | .tileLoadExecute _ => 0
  | .mstExecute _ => 0
  | .mrelExecute _ => 0
  | .mjobExecute _ => 0
  | .matrixMarker _ => 0
  | .latticeLocalApply _ => 0
  | .pshiftRun _ => 0
  | .pstepRun _ => 0
  | .marchHandoff _ => 0
  | .callTake _ _ _ => 0
  | .callReturn _ _ _ => 0
  | .zbRelease _ _ => 0
  | .unitTimeout _ _ _ => 0
  | .queueMarker _ _ _ => 0
  | .wsEntryRead _ => 0
  | .wsPoolEnter _ => 0
  | .wsEntryComplete _ _ => 0
  | .sluiceDecision => 0
  | .handlerEntry _ => 0
  | .qovf _ _ => 0
  | .deadline _ => 0
  | .stall _ => 0
  | .haltGraceExpiry _ => 0
  | .jobdeadline _ => 0
  | .preemptInject _ => 0
  | .markReceived _ _ => 0
  | .cutComplete _ => 0
  | .draintimeout _ => 0
  | .restoreContext _ => 0
  | .jobsubmit _ _ _ => 0
  | .jobabort _ _ _ => 0
  | .epattach _ _ _ _ _ => 0
  | .epdetach _ _ _ _ => 0
  | .checkpoint _ _ _ => 0
  | .restoreImage _ _ _ => 0
  | .telemetry _ _ => 0
  | .replay _ _ _ _ => 0
  | .exportRange _ _ _ _ _ _ => 0
  | .unexportRange _ _ _ _ => 0
  | .rmaRead _ _ _ _ _ => 0
  | .rmaWrite _ _ _ _ _ => 0
  | .rmaAtomic _ _ _ _ _ _ => 0
  | .endpointAck _ _ => 0
  | .epfail _ => 0
  | .pageCapture _ _ => 0
  | .powerUp => 0
  | .bootImageArrival _ _ => 0
  | .bootRetry => 0
  | .bayIdleEntry _ => 0
  | .thermalThrottle _ _ => 0
  | .thermalShutdown _ _ => 0
  | .breakResume _ => 0
  | .connectionRequest _ => 0
  | .badmsg _ _ _ => 0
  | .rmaReadResponse _ _ => 0
  | .bayPowerGating _ _ => 0
  | .selfRefresh _ _ => 0

/-- The predicate mode of an encoded instruction. Formats R, P and J have none, and issue without a predicate. -/
def predMode : Instr → Option Pm
  | .read _ _ _ _ => some .always
  | .mov p _ _ => some p
  | .movi p _ _ => some p
  | .movis p _ _ => some p
  | .null p _ _ => some p
  | .recv _ _ _ => some .always
  | .recvk _ _ _ => some .always
  | .recvo _ _ _ => some .always
  | .join _ _ _ _ => some .always
  | .bro p _ _ => some p
  | .bri p _ => some p
  | .callo p _ _ => some p
  | .retb p _ => some p
  | .halt p => some p
  | .fence p _ _ => some p
  | .add p _ _ => some p
  | .sub p _ _ => some p
  | .mul p _ _ => some p
  | .mulh p _ _ _ => some p
  | .div p _ _ _ => some p
  | .rem p _ _ _ => some p
  | .and p _ _ => some p
  | .or p _ _ => some p
  | .xor p _ _ => some p
  | .andn p _ _ => some p
  | .shl p _ _ => some p
  | .shr p _ _ => some p
  | .sra p _ _ => some p
  | .rot p _ _ => some p
  | .min p _ _ _ => some p
  | .max p _ _ _ => some p
  | .absneg p _ _ _ => some p
  | .bitc p _ _ _ => some p
  | .bfx p _ _ _ => some p
  | .bfi p _ _ => some p
  | .cmp p _ _ _ _ => some p
  | .sel p _ _ _ => some p
  | .ext p _ _ _ _ => some p
  | .addi p _ _ => some p
  | .andi p _ _ => some p
  | .ori p _ _ => some p
  | .xori p _ _ => some p
  | .shli p _ _ => some p
  | .shri p _ _ => some p
  | .srai p _ _ => some p
  | .cmpi p _ _ _ => some p
  | .muli p _ _ => some p
  | .xlate p _ _ _ _ => some p
  | .paadd p _ _ => some p
  | .paoff p _ _ => some p
  | .ld p _ _ _ _ => some p
  | .st p _ _ _ => some p
  | .ldv p _ _ _ => some p
  | .stv p _ _ => some p
  | .ldl p _ _ _ _ => some p
  | .stl p _ _ _ => some p
  | .ldlw p _ _ _ _ _ => some p
  | .stlf p _ _ _ _ => some p
  | .ldlv p _ _ _ => some p
  | .stlv p _ _ => some p
  | .atom p _ _ _ _ _ => some p
  | .cas p _ _ _ _ => some p
  | .atoml p _ _ _ _ _ => some p
  | .bufdef p _ => some p
  | .bufget p _ _ _ => some p
  | .bufput p _ => some p
  | .bufstat p _ _ _ => some p
  | .cpyopen p _ => some p
  | .cpyclose p _ => some p
  | .cpywait p _ _ _ => some p
  | .gather p _ _ _ => some p
  | .scatter p _ => some p
  | .epatom p _ _ _ => some p
  | .epfence p => some p
  | .lmstream p _ => some p
  | .fadd p _ _ _ _ => some p
  | .fsub p _ _ _ _ => some p
  | .fmul p _ _ _ _ => some p
  | .fma p _ _ _ _ => some p
  | .fdiv p _ _ _ _ => some p
  | .fsqrt p _ _ _ _ => some p
  | .frsq p _ _ _ _ => some p
  | .fminmax p _ _ _ _ => some p
  | .fcmp p _ _ _ _ => some p
  | .fclass p _ _ _ => some p
  | .fsign p _ _ _ _ => some p
  | .frnd p _ _ _ _ => some p
  | .fexp2 p _ _ _ _ => some p
  | .flog2 p _ _ _ _ => some p
  | .cvt p _ _ _ _ _ _ => some p
  | .cvti p _ _ _ _ _ => some p
  | .cvtf p _ _ _ _ _ => some p
  | .gxpack p _ _ _ => some p
  | .gxunp p _ _ _ _ => some p
  | .vred p _ _ _ _ => some p
  | .vshuf p _ _ _ _ => some p
  | .vbcast p _ _ _ => some p
  | .vlane p _ _ _ _ => some p
  | .vdot p _ _ _ _ => some p
  | .mlda p _ _ => some p
  | .mldb p _ _ => some p
  | .mldl p _ _ => some p
  | .mma p _ _ => some p
  | .mst p _ _ => some p
  | .mrel p _ _ _ => some p
  | .mjob p _ _ => some p
  | .ctr p _ _ _ _ => some p
  | .pldef p _ => some p
  | .pshift p _ => some p
  | .pstep p => some p
  | .pact p _ _ _ => some p
  | .psum p _ _ _ => some p
  | .pcopy p _ => some p
  | .lmarch p _ _ _ => some p
  | .site p _ _ _ => some p
  | .timeNow p _ _ => some p
  | .timeCmp p _ _ => some p
  | .timeMake p _ _ => some p
  | .timeField p _ _ => some p
  | .frontRead p _ _ => some p
  | .frontWait p _ _ => some p
  | .frontSubscribe p => some p
  | .tcapNew p _ _ => some p
  | .tcapAdvance p => some p
  | .tcapDrop p => some p
  | .callq p _ _ => some p
  | .sysTrap p => some p
  | .sysEret p => some p
  | .sysBkpt p => some p
  | .sysFeatq p _ _ => some p
  | .sysWdog p _ _ => some p
  | .sysPmonctl p => some p
  | .sysPmonrd p _ _ => some p
  | .sysRrmark p => some p
  | .sysTlbinv p => some p
  | .sysCsload p => some p
  | .sregRd p _ _ => some p
  | .sregWr p _ => some p
  | .sectCfgload p => some p
  | .sectArm p => some p
  | .sectBound p => some p
  | .sectDrain p => some p
  | .sectSinkw p _ _ => some p
  | .sectRelease p => some p
  | .sectGred p _ _ => some p
  | .sectGbcast p => some p
  | .sliceAccess _ _ _ _ => none
  | .sectorFill _ _ _ => none
  | .bolterFill _ _ => none
  | .scrubRead _ _ => none
  | .mailboxForward _ _ => none
  | .relayForward _ => none
  | .artEntryEnable _ _ => none
  | .artEntryDisable _ => none
  | .ownerTagWrite _ _ => none
  | .errorLogFree _ _ => none
  | .lostClear _ => none
  | .writeBackRange => none
  | .writeBackInvalidateRange => none
  | .writeBackInvalidateAll => none
  | .rebase => none
  | .maintenanceDone => none
  | .formatWindowEnable _ _ => none
  | .formatWindowDisable _ => none
  | .registerWrite _ _ => none
  | .pageResume _ _ => none
  | .pageRefuse _ _ => none
  | .withheldTimeout _ => none
  | .deviceReply _ => none
  | .copyTileStart _ _ => none
  | .copyTileComplete _ _ _ => none
  | .copyPoison _ _ _ => none
  | .freeNotice _ _ => none
  | .fullNotice _ _ => none
  | .copyMarker _ => none
  | .pageRefill _ _ => none
  | .frameWriteback _ _ => none
  | .fullEmptyWake _ _ => none
  | .lmstreamSourceToken _ => none
  | .lmstreamSinkToken _ => none
  | .tokenHop _ _ => none
  | .packetHop _ _ => none
  | .requestDamaged _ => none
  | .replyResend _ => none
  | .linkuncorr _ => none
  | .circuitUncorr _ _ => none
  | .softerr _ => none
  | .confArrival _ => none
  | .configSwitch _ => none
  | .nodeFiring _ => none
  | .sourceFiring _ => none
  | .agAdmit _ => none
  | .controlBlockFetch _ => none
  | .blockCommit => none
  | .coalesceLaunch _ _ => none
  | .coalesceTimeout _ _ => none
  | .streamBlockSelect _ => none
  | .streamThreadReport _ _ => none
  | .countBatchForward _ _ => none
  | .rootBatchApply _ => none
  | .announcementArrival _ _ => none
  | .peerBatch _ _ _ => none
  | .peerConnectionLoss _ => none
  | .mmaExecute _ _ => none
  | .tileLoadExecute _ => none
  | .mstExecute _ => none
  | .mrelExecute _ => none
  | .mjobExecute _ => none
  | .matrixMarker _ => none
  | .latticeLocalApply _ => none
  | .pshiftRun _ => none
  | .pstepRun _ => none
  | .marchHandoff _ => none
  | .callTake _ _ _ => none
  | .callReturn _ _ _ => none
  | .zbRelease _ _ => none
  | .unitTimeout _ _ _ => none
  | .queueMarker _ _ _ => none
  | .wsEntryRead _ => none
  | .wsPoolEnter _ => none
  | .wsEntryComplete _ _ => none
  | .sluiceDecision => none
  | .handlerEntry _ => none
  | .qovf _ _ => none
  | .deadline _ => none
  | .stall _ => none
  | .haltGraceExpiry _ => none
  | .jobdeadline _ => none
  | .preemptInject _ => none
  | .markReceived _ _ => none
  | .cutComplete _ => none
  | .draintimeout _ => none
  | .restoreContext _ => none
  | .jobsubmit _ _ _ => none
  | .jobabort _ _ _ => none
  | .epattach _ _ _ _ _ => none
  | .epdetach _ _ _ _ => none
  | .checkpoint _ _ _ => none
  | .restoreImage _ _ _ => none
  | .telemetry _ _ => none
  | .replay _ _ _ _ => none
  | .exportRange _ _ _ _ _ _ => none
  | .unexportRange _ _ _ _ => none
  | .rmaRead _ _ _ _ _ => none
  | .rmaWrite _ _ _ _ _ => none
  | .rmaAtomic _ _ _ _ _ _ => none
  | .endpointAck _ _ => none
  | .epfail _ => none
  | .pageCapture _ _ => none
  | .powerUp => none
  | .bootImageArrival _ _ => none
  | .bootRetry => none
  | .bayIdleEntry _ => none
  | .thermalThrottle _ _ => none
  | .thermalShutdown _ _ => none
  | .breakResume _ => none
  | .connectionRequest _ => none
  | .badmsg _ _ _ => none
  | .rmaReadResponse _ _ => none
  | .bayPowerGating _ _ => none
  | .selfRefresh _ _ => none

/-- The kinds of block in which an instruction is legal (09 Tables 9-18, 9-19). -/
inductive Legal where
  | any
  | controlNode
  | control
  | node
  | rule
  | nowhere
  deriving DecidableEq, Repr

/-- Where an instruction is legal. -/
def legalIn : Instr → Legal
  | .read _ _ _ _ => .controlNode
  | .mov _ _ _ => .any
  | .movi _ _ _ => .any
  | .movis _ _ _ => .any
  | .null _ _ _ => .any
  | .recv _ _ _ => .node
  | .recvk _ _ _ => .node
  | .recvo _ _ _ => .node
  | .join _ _ _ _ => .node
  | .bro _ _ _ => .control
  | .bri _ _ => .control
  | .callo _ _ _ => .control
  | .retb _ _ => .control
  | .halt _ => .control
  | .fence _ _ _ => .controlNode
  | .add _ _ _ => .any
  | .sub _ _ _ => .any
  | .mul _ _ _ => .any
  | .mulh _ _ _ _ => .any
  | .div _ _ _ _ => .any
  | .rem _ _ _ _ => .any
  | .and _ _ _ => .any
  | .or _ _ _ => .any
  | .xor _ _ _ => .any
  | .andn _ _ _ => .any
  | .shl _ _ _ => .any
  | .shr _ _ _ => .any
  | .sra _ _ _ => .any
  | .rot _ _ _ => .any
  | .min _ _ _ _ => .any
  | .max _ _ _ _ => .any
  | .absneg _ _ _ _ => .any
  | .bitc _ _ _ _ => .any
  | .bfx _ _ _ _ => .any
  | .bfi _ _ _ => .any
  | .cmp _ _ _ _ _ => .any
  | .sel _ _ _ _ => .any
  | .ext _ _ _ _ _ => .any
  | .addi _ _ _ => .any
  | .andi _ _ _ => .any
  | .ori _ _ _ => .any
  | .xori _ _ _ => .any
  | .shli _ _ _ => .any
  | .shri _ _ _ => .any
  | .srai _ _ _ => .any
  | .cmpi _ _ _ _ => .any
  | .muli _ _ _ => .any
  | .xlate _ _ _ _ _ => .controlNode
  | .paadd _ _ _ => .controlNode
  | .paoff _ _ _ => .controlNode
  | .ld _ _ _ _ _ => .controlNode
  | .st _ _ _ _ => .controlNode
  | .ldv _ _ _ _ => .controlNode
  | .stv _ _ _ => .controlNode
  | .ldl _ _ _ _ _ => .controlNode
  | .stl _ _ _ _ => .controlNode
  | .ldlw _ _ _ _ _ _ => .controlNode
  | .stlf _ _ _ _ _ => .controlNode
  | .ldlv _ _ _ _ => .controlNode
  | .stlv _ _ _ => .controlNode
  | .atom _ _ _ _ _ _ => .controlNode
  | .cas _ _ _ _ _ => .controlNode
  | .atoml _ _ _ _ _ _ => .controlNode
  | .bufdef _ _ => .controlNode
  | .bufget _ _ _ _ => .controlNode
  | .bufput _ _ => .controlNode
  | .bufstat _ _ _ _ => .controlNode
  | .cpyopen _ _ => .controlNode
  | .cpyclose _ _ => .controlNode
  | .cpywait _ _ _ _ => .controlNode
  | .gather _ _ _ _ => .node
  | .scatter _ _ => .node
  | .epatom _ _ _ _ => .controlNode
  | .epfence _ => .controlNode
  | .lmstream _ _ => .node
  | .fadd _ _ _ _ _ => .any
  | .fsub _ _ _ _ _ => .any
  | .fmul _ _ _ _ _ => .any
  | .fma _ _ _ _ _ => .any
  | .fdiv _ _ _ _ _ => .any
  | .fsqrt _ _ _ _ _ => .any
  | .frsq _ _ _ _ _ => .any
  | .fminmax _ _ _ _ _ => .any
  | .fcmp _ _ _ _ _ => .any
  | .fclass _ _ _ _ => .any
  | .fsign _ _ _ _ _ => .any
  | .frnd _ _ _ _ _ => .any
  | .fexp2 _ _ _ _ _ => .any
  | .flog2 _ _ _ _ _ => .any
  | .cvt _ _ _ _ _ _ _ => .any
  | .cvti _ _ _ _ _ _ => .any
  | .cvtf _ _ _ _ _ _ => .any
  | .gxpack _ _ _ _ => .any
  | .gxunp _ _ _ _ _ => .any
  | .vred _ _ _ _ _ => .any
  | .vshuf _ _ _ _ _ => .any
  | .vbcast _ _ _ _ => .any
  | .vlane _ _ _ _ _ => .any
  | .vdot _ _ _ _ _ => .any
  | .mlda _ _ _ => .node
  | .mldb _ _ _ => .node
  | .mldl _ _ _ => .node
  | .mma _ _ _ => .node
  | .mst _ _ _ => .node
  | .mrel _ _ _ _ => .node
  | .mjob _ _ _ => .controlNode
  | .ctr _ _ _ _ _ => .node
  | .pldef _ _ => .node
  | .pshift _ _ => .node
  | .pstep _ => .node
  | .pact _ _ _ _ => .node
  | .psum _ _ _ _ => .node
  | .pcopy _ _ => .node
  | .lmarch _ _ _ _ => .node
  | .site _ _ _ _ => .rule
  | .timeNow _ _ _ => .any
  | .timeCmp _ _ _ => .any
  | .timeMake _ _ _ => .any
  | .timeField _ _ _ => .any
  | .frontRead _ _ _ => .controlNode
  | .frontWait _ _ _ => .controlNode
  | .frontSubscribe _ => .controlNode
  | .tcapNew _ _ _ => .controlNode
  | .tcapAdvance _ => .controlNode
  | .tcapDrop _ => .controlNode
  | .callq _ _ _ => .node
  | .sysTrap _ => .controlNode
  | .sysEret _ => .control
  | .sysBkpt _ => .controlNode
  | .sysFeatq _ _ _ => .controlNode
  | .sysWdog _ _ _ => .control
  | .sysPmonctl _ => .control
  | .sysPmonrd _ _ _ => .controlNode
  | .sysRrmark _ => .controlNode
  | .sysTlbinv _ => .control
  | .sysCsload _ => .control
  | .sregRd _ _ _ => .controlNode
  | .sregWr _ _ => .controlNode
  | .sectCfgload _ => .control
  | .sectArm _ => .control
  | .sectBound _ => .control
  | .sectDrain _ => .control
  | .sectSinkw _ _ _ => .control
  | .sectRelease _ => .control
  | .sectGred _ _ _ => .control
  | .sectGbcast _ => .control
  | .sliceAccess _ _ _ _ => .nowhere
  | .sectorFill _ _ _ => .nowhere
  | .bolterFill _ _ => .nowhere
  | .scrubRead _ _ => .nowhere
  | .mailboxForward _ _ => .nowhere
  | .relayForward _ => .nowhere
  | .artEntryEnable _ _ => .nowhere
  | .artEntryDisable _ => .nowhere
  | .ownerTagWrite _ _ => .nowhere
  | .errorLogFree _ _ => .nowhere
  | .lostClear _ => .nowhere
  | .writeBackRange => .nowhere
  | .writeBackInvalidateRange => .nowhere
  | .writeBackInvalidateAll => .nowhere
  | .rebase => .nowhere
  | .maintenanceDone => .nowhere
  | .formatWindowEnable _ _ => .nowhere
  | .formatWindowDisable _ => .nowhere
  | .registerWrite _ _ => .nowhere
  | .pageResume _ _ => .nowhere
  | .pageRefuse _ _ => .nowhere
  | .withheldTimeout _ => .nowhere
  | .deviceReply _ => .nowhere
  | .copyTileStart _ _ => .nowhere
  | .copyTileComplete _ _ _ => .nowhere
  | .copyPoison _ _ _ => .nowhere
  | .freeNotice _ _ => .nowhere
  | .fullNotice _ _ => .nowhere
  | .copyMarker _ => .nowhere
  | .pageRefill _ _ => .nowhere
  | .frameWriteback _ _ => .nowhere
  | .fullEmptyWake _ _ => .nowhere
  | .lmstreamSourceToken _ => .nowhere
  | .lmstreamSinkToken _ => .nowhere
  | .tokenHop _ _ => .nowhere
  | .packetHop _ _ => .nowhere
  | .requestDamaged _ => .nowhere
  | .replyResend _ => .nowhere
  | .linkuncorr _ => .nowhere
  | .circuitUncorr _ _ => .nowhere
  | .softerr _ => .nowhere
  | .confArrival _ => .nowhere
  | .configSwitch _ => .nowhere
  | .nodeFiring _ => .nowhere
  | .sourceFiring _ => .nowhere
  | .agAdmit _ => .nowhere
  | .controlBlockFetch _ => .nowhere
  | .blockCommit => .nowhere
  | .coalesceLaunch _ _ => .nowhere
  | .coalesceTimeout _ _ => .nowhere
  | .streamBlockSelect _ => .nowhere
  | .streamThreadReport _ _ => .nowhere
  | .countBatchForward _ _ => .nowhere
  | .rootBatchApply _ => .nowhere
  | .announcementArrival _ _ => .nowhere
  | .peerBatch _ _ _ => .nowhere
  | .peerConnectionLoss _ => .nowhere
  | .mmaExecute _ _ => .nowhere
  | .tileLoadExecute _ => .nowhere
  | .mstExecute _ => .nowhere
  | .mrelExecute _ => .nowhere
  | .mjobExecute _ => .nowhere
  | .matrixMarker _ => .nowhere
  | .latticeLocalApply _ => .nowhere
  | .pshiftRun _ => .nowhere
  | .pstepRun _ => .nowhere
  | .marchHandoff _ => .nowhere
  | .callTake _ _ _ => .nowhere
  | .callReturn _ _ _ => .nowhere
  | .zbRelease _ _ => .nowhere
  | .unitTimeout _ _ _ => .nowhere
  | .queueMarker _ _ _ => .nowhere
  | .wsEntryRead _ => .nowhere
  | .wsPoolEnter _ => .nowhere
  | .wsEntryComplete _ _ => .nowhere
  | .sluiceDecision => .nowhere
  | .handlerEntry _ => .nowhere
  | .qovf _ _ => .nowhere
  | .deadline _ => .nowhere
  | .stall _ => .nowhere
  | .haltGraceExpiry _ => .nowhere
  | .jobdeadline _ => .nowhere
  | .preemptInject _ => .nowhere
  | .markReceived _ _ => .nowhere
  | .cutComplete _ => .nowhere
  | .draintimeout _ => .nowhere
  | .restoreContext _ => .nowhere
  | .jobsubmit _ _ _ => .nowhere
  | .jobabort _ _ _ => .nowhere
  | .epattach _ _ _ _ _ => .nowhere
  | .epdetach _ _ _ _ => .nowhere
  | .checkpoint _ _ _ => .nowhere
  | .restoreImage _ _ _ => .nowhere
  | .telemetry _ _ => .nowhere
  | .replay _ _ _ _ => .nowhere
  | .exportRange _ _ _ _ _ _ => .nowhere
  | .unexportRange _ _ _ _ => .nowhere
  | .rmaRead _ _ _ _ _ => .nowhere
  | .rmaWrite _ _ _ _ _ => .nowhere
  | .rmaAtomic _ _ _ _ _ _ => .nowhere
  | .endpointAck _ _ => .nowhere
  | .epfail _ => .nowhere
  | .pageCapture _ _ => .nowhere
  | .powerUp => .nowhere
  | .bootImageArrival _ _ => .nowhere
  | .bootRetry => .nowhere
  | .bayIdleEntry _ => .nowhere
  | .thermalThrottle _ _ => .nowhere
  | .thermalShutdown _ _ => .nowhere
  | .breakResume _ => .nowhere
  | .connectionRequest _ => .nowhere
  | .badmsg _ _ _ => .nowhere
  | .rmaReadResponse _ _ => .nowhere
  | .bayPowerGating _ _ => .nowhere
  | .selfRefresh _ _ => .nowhere

/-- The FEAT bit that a matrix type needs (09 Table 9-1). -/
def matFeature : MatType → Option Nat
  | .f64 => some 8
  | .gx => some 9
  | _ => none

/-- The header bit of the feature that an instruction needs (09 R134). -/
def featureOf : Instr → Option Nat
  | .read _ _ _ _ => none
  | .mov _ _ _ => none
  | .movi _ _ _ => none
  | .movis _ _ _ => none
  | .null _ _ _ => none
  | .recv _ _ _ => none
  | .recvk _ _ _ => none
  | .recvo _ _ _ => none
  | .join _ _ _ _ => none
  | .bro _ _ _ => none
  | .bri _ _ => none
  | .callo _ _ _ => none
  | .retb _ _ => none
  | .halt _ => none
  | .fence _ _ _ => none
  | .add _ _ _ => none
  | .sub _ _ _ => none
  | .mul _ _ _ => none
  | .mulh _ _ _ _ => none
  | .div _ _ _ _ => none
  | .rem _ _ _ _ => none
  | .and _ _ _ => none
  | .or _ _ _ => none
  | .xor _ _ _ => none
  | .andn _ _ _ => none
  | .shl _ _ _ => none
  | .shr _ _ _ => none
  | .sra _ _ _ => none
  | .rot _ _ _ => none
  | .min _ _ _ _ => none
  | .max _ _ _ _ => none
  | .absneg _ _ _ _ => none
  | .bitc _ _ _ _ => none
  | .bfx _ _ _ _ => none
  | .bfi _ _ _ => none
  | .cmp _ _ _ _ _ => none
  | .sel _ _ _ _ => none
  | .ext _ _ _ _ _ => none
  | .addi _ _ _ => none
  | .andi _ _ _ => none
  | .ori _ _ _ => none
  | .xori _ _ _ => none
  | .shli _ _ _ => none
  | .shri _ _ _ => none
  | .srai _ _ _ => none
  | .cmpi _ _ _ _ => none
  | .muli _ _ _ => none
  | .xlate _ _ _ _ _ => none
  | .paadd _ _ _ => none
  | .paoff _ _ _ => none
  | .ld _ _ _ _ _ => none
  | .st _ _ _ _ => none
  | .ldv _ _ _ _ => none
  | .stv _ _ _ => none
  | .ldl _ _ _ _ _ => none
  | .stl _ _ _ _ => none
  | .ldlw _ _ _ _ _ _ => none
  | .stlf _ _ _ _ _ => none
  | .ldlv _ _ _ _ => none
  | .stlv _ _ _ => none
  | .atom _ _ _ _ _ _ => none
  | .cas _ _ _ _ _ => none
  | .atoml _ _ _ _ _ _ => none
  | .bufdef _ _ => none
  | .bufget _ _ _ _ => none
  | .bufput _ _ => none
  | .bufstat _ _ _ _ => none
  | .cpyopen _ _ => none
  | .cpyclose _ _ => none
  | .cpywait _ _ _ _ => none
  | .gather _ _ _ _ => some 12
  | .scatter _ _ => some 12
  | .epatom _ _ _ _ => none
  | .epfence _ => none
  | .lmstream _ _ => none
  | .fadd _ _ _ _ _ => none
  | .fsub _ _ _ _ _ => none
  | .fmul _ _ _ _ _ => none
  | .fma _ _ _ _ _ => none
  | .fdiv _ _ _ _ _ => none
  | .fsqrt _ _ _ _ _ => none
  | .frsq _ _ _ _ _ => none
  | .fminmax _ _ _ _ _ => none
  | .fcmp _ _ _ _ _ => none
  | .fclass _ _ _ _ => none
  | .fsign _ _ _ _ _ => none
  | .frnd _ _ _ _ _ => none
  | .fexp2 _ _ _ _ _ => none
  | .flog2 _ _ _ _ _ => none
  | .cvt _ _ _ _ _ _ _ => none
  | .cvti _ _ _ _ _ _ => none
  | .cvtf _ _ _ _ _ _ => none
  | .gxpack _ _ _ _ => none
  | .gxunp _ _ _ _ _ => none
  | .vred _ _ _ _ _ => none
  | .vshuf _ _ _ _ _ => none
  | .vbcast _ _ _ _ => none
  | .vlane _ _ _ _ _ => none
  | .vdot _ _ _ _ _ => none
  | .mlda _ ty _ => matFeature ty
  | .mldb _ ty _ => matFeature ty
  | .mldl _ ty _ => matFeature ty
  | .mma _ ty _ => matFeature ty
  | .mst _ ty _ => matFeature ty
  | .mrel _ _ ty _ => matFeature ty
  | .mjob _ ty _ => matFeature ty
  | .ctr _ _ _ _ _ => none
  | .pldef _ _ => some 10
  | .pshift _ _ => some 10
  | .pstep _ => some 10
  | .pact _ _ _ _ => some 10
  | .psum _ _ _ _ => some 10
  | .pcopy _ _ => some 10
  | .lmarch _ _ _ _ => some 10
  | .site _ _ _ _ => some 10
  | .timeNow _ _ _ => none
  | .timeCmp _ _ _ => none
  | .timeMake _ _ _ => none
  | .timeField _ _ _ => none
  | .frontRead _ _ _ => none
  | .frontWait _ _ _ => none
  | .frontSubscribe _ => none
  | .tcapNew _ _ _ => none
  | .tcapAdvance _ => none
  | .tcapDrop _ => none
  | .callq _ _ _ => some 11
  | .sysTrap _ => some 13
  | .sysEret _ => some 13
  | .sysBkpt _ => some 13
  | .sysFeatq _ _ _ => some 13
  | .sysWdog _ _ _ => some 13
  | .sysPmonctl _ => some 13
  | .sysPmonrd _ _ _ => some 13
  | .sysRrmark _ => some 13
  | .sysTlbinv _ => some 13
  | .sysCsload _ => some 13
  | .sregRd _ _ _ => none
  | .sregWr _ _ => none
  | .sectCfgload _ => none
  | .sectArm _ => none
  | .sectBound _ => none
  | .sectDrain _ => none
  | .sectSinkw _ _ _ => none
  | .sectRelease _ => none
  | .sectGred _ _ _ => none
  | .sectGbcast _ => none
  | .sliceAccess _ _ _ _ => none
  | .sectorFill _ _ _ => none
  | .bolterFill _ _ => none
  | .scrubRead _ _ => none
  | .mailboxForward _ _ => none
  | .relayForward _ => none
  | .artEntryEnable _ _ => none
  | .artEntryDisable _ => none
  | .ownerTagWrite _ _ => none
  | .errorLogFree _ _ => none
  | .lostClear _ => none
  | .writeBackRange => none
  | .writeBackInvalidateRange => none
  | .writeBackInvalidateAll => none
  | .rebase => none
  | .maintenanceDone => none
  | .formatWindowEnable _ _ => none
  | .formatWindowDisable _ => none
  | .registerWrite _ _ => none
  | .pageResume _ _ => none
  | .pageRefuse _ _ => none
  | .withheldTimeout _ => none
  | .deviceReply _ => none
  | .copyTileStart _ _ => none
  | .copyTileComplete _ _ _ => none
  | .copyPoison _ _ _ => none
  | .freeNotice _ _ => none
  | .fullNotice _ _ => none
  | .copyMarker _ => none
  | .pageRefill _ _ => none
  | .frameWriteback _ _ => none
  | .fullEmptyWake _ _ => none
  | .lmstreamSourceToken _ => none
  | .lmstreamSinkToken _ => none
  | .tokenHop _ _ => none
  | .packetHop _ _ => none
  | .requestDamaged _ => none
  | .replyResend _ => none
  | .linkuncorr _ => none
  | .circuitUncorr _ _ => none
  | .softerr _ => none
  | .confArrival _ => none
  | .configSwitch _ => none
  | .nodeFiring _ => none
  | .sourceFiring _ => none
  | .agAdmit _ => none
  | .controlBlockFetch _ => none
  | .blockCommit => none
  | .coalesceLaunch _ _ => none
  | .coalesceTimeout _ _ => none
  | .streamBlockSelect _ => none
  | .streamThreadReport _ _ => none
  | .countBatchForward _ _ => none
  | .rootBatchApply _ => none
  | .announcementArrival _ _ => none
  | .peerBatch _ _ _ => none
  | .peerConnectionLoss _ => none
  | .mmaExecute _ _ => none
  | .tileLoadExecute _ => none
  | .mstExecute _ => none
  | .mrelExecute _ => none
  | .mjobExecute _ => none
  | .matrixMarker _ => none
  | .latticeLocalApply _ => none
  | .pshiftRun _ => none
  | .pstepRun _ => none
  | .marchHandoff _ => none
  | .callTake _ _ _ => none
  | .callReturn _ _ _ => none
  | .zbRelease _ _ => none
  | .unitTimeout _ _ _ => none
  | .queueMarker _ _ _ => none
  | .wsEntryRead _ => none
  | .wsPoolEnter _ => none
  | .wsEntryComplete _ _ => none
  | .sluiceDecision => none
  | .handlerEntry _ => none
  | .qovf _ _ => none
  | .deadline _ => none
  | .stall _ => none
  | .haltGraceExpiry _ => none
  | .jobdeadline _ => none
  | .preemptInject _ => none
  | .markReceived _ _ => none
  | .cutComplete _ => none
  | .draintimeout _ => none
  | .restoreContext _ => none
  | .jobsubmit _ _ _ => none
  | .jobabort _ _ _ => none
  | .epattach _ _ _ _ _ => none
  | .epdetach _ _ _ _ => none
  | .checkpoint _ _ _ => none
  | .restoreImage _ _ _ => none
  | .telemetry _ _ => none
  | .replay _ _ _ _ => none
  | .exportRange _ _ _ _ _ _ => none
  | .unexportRange _ _ _ _ => none
  | .rmaRead _ _ _ _ _ => none
  | .rmaWrite _ _ _ _ _ => none
  | .rmaAtomic _ _ _ _ _ _ => none
  | .endpointAck _ _ => none
  | .epfail _ => none
  | .pageCapture _ _ => none
  | .powerUp => none
  | .bootImageArrival _ _ => none
  | .bootRetry => none
  | .bayIdleEntry _ => none
  | .thermalThrottle _ _ => none
  | .thermalShutdown _ _ => none
  | .breakResume _ => none
  | .connectionRequest _ => none
  | .badmsg _ _ _ => none
  | .rmaReadResponse _ _ => none
  | .bayPowerGating _ _ => none
  | .selfRefresh _ _ => none

/-- The targets of an instruction, T0 first. -/
def targetsOf : Instr → List Tgt
  | .read _ _ t u => [t, u]
  | .mov _ t u => [t, u]
  | .movi _ t _ => [t]
  | .movis _ t _ => [t]
  | .null _ t u => [t, u]
  | .recv _ t u => [t, u]
  | .recvk _ t u => [t, u]
  | .recvo _ t u => [t, u]
  | .join _ _ _ t => [t]
  | .bro _ _ _ => []
  | .bri _ _ => []
  | .callo _ _ _ => []
  | .retb _ _ => []
  | .halt _ => []
  | .fence _ _ _ => []
  | .add _ t u => [t, u]
  | .sub _ t u => [t, u]
  | .mul _ t u => [t, u]
  | .mulh _ t u _ => [t, u]
  | .div _ t u _ => [t, u]
  | .rem _ t u _ => [t, u]
  | .and _ t u => [t, u]
  | .or _ t u => [t, u]
  | .xor _ t u => [t, u]
  | .andn _ t u => [t, u]
  | .shl _ t u => [t, u]
  | .shr _ t u => [t, u]
  | .sra _ t u => [t, u]
  | .rot _ t u => [t, u]
  | .min _ t u _ => [t, u]
  | .max _ t u _ => [t, u]
  | .absneg _ t u _ => [t, u]
  | .bitc _ t u _ => [t, u]
  | .bfx _ t u _ => [t, u]
  | .bfi _ t u => [t, u]
  | .cmp _ t u _ _ => [t, u]
  | .sel _ t u _ => [t, u]
  | .ext _ t u _ _ => [t, u]
  | .addi _ t _ => [t]
  | .andi _ t _ => [t]
  | .ori _ t _ => [t]
  | .xori _ t _ => [t]
  | .shli _ t _ => [t]
  | .shri _ t _ => [t]
  | .srai _ t _ => [t]
  | .cmpi _ t _ _ => [t]
  | .muli _ t _ => [t]
  | .xlate _ t u _ _ => [t, u]
  | .paadd _ t u => [t, u]
  | .paoff _ t _ => [t]
  | .ld _ t _ _ _ => [t]
  | .st _ _ _ _ => []
  | .ldv _ t _ _ => [t]
  | .stv _ _ _ => []
  | .ldl _ t _ _ _ => [t]
  | .stl _ _ _ _ => []
  | .ldlw _ t _ _ _ _ => [t]
  | .stlf _ _ _ _ _ => []
  | .ldlv _ t _ _ => [t]
  | .stlv _ _ _ => []
  | .atom _ t _ _ _ _ => [t]
  | .cas _ t _ _ _ => [t]
  | .atoml _ t _ _ _ _ => [t]
  | .bufdef _ _ => []
  | .bufget _ t u _ => [t, u]
  | .bufput _ _ => []
  | .bufstat _ t u _ => [t, u]
  | .cpyopen _ _ => []
  | .cpyclose _ _ => []
  | .cpywait _ t u _ => [t, u]
  | .gather _ t u _ => [t, u]
  | .scatter _ _ => []
  | .epatom _ t u _ => [t, u]
  | .epfence _ => []
  | .lmstream _ t => [t]
  | .fadd _ t u _ _ => [t, u]
  | .fsub _ t u _ _ => [t, u]
  | .fmul _ t u _ _ => [t, u]
  | .fma _ t u _ _ => [t, u]
  | .fdiv _ t u _ _ => [t, u]
  | .fsqrt _ t u _ _ => [t, u]
  | .frsq _ t u _ _ => [t, u]
  | .fminmax _ t u _ _ => [t, u]
  | .fcmp _ t u _ _ => [t, u]
  | .fclass _ t u _ => [t, u]
  | .fsign _ t u _ _ => [t, u]
  | .frnd _ t u _ _ => [t, u]
  | .fexp2 _ t u _ _ => [t, u]
  | .flog2 _ t u _ _ => [t, u]
  | .cvt _ t _ _ _ _ _ => [t]
  | .cvti _ t _ _ _ _ => [t]
  | .cvtf _ t _ _ _ _ => [t]
  | .gxpack _ t u _ => [t, u]
  | .gxunp _ t u _ _ => [t, u]
  | .vred _ t u _ _ => [t, u]
  | .vshuf _ t u _ _ => [t, u]
  | .vbcast _ t u _ => [t, u]
  | .vlane _ t u _ _ => [t, u]
  | .vdot _ t u _ _ => [t, u]
  | .mlda _ _ _ => []
  | .mldb _ _ _ => []
  | .mldl _ _ _ => []
  | .mma _ _ _ => []
  | .mst _ _ _ => []
  | .mrel _ t _ _ => [t]
  | .mjob _ _ _ => []
  | .ctr _ t u _ _ => [t, u]
  | .pldef _ _ => []
  | .pshift _ _ => []
  | .pstep _ => []
  | .pact _ t u _ => [t, u]
  | .psum _ t u _ => [t, u]
  | .pcopy _ _ => []
  | .lmarch _ t u _ => [t, u]
  | .site _ t u _ => [t, u]
  | .timeNow _ t u => [t, u]
  | .timeCmp _ t u => [t, u]
  | .timeMake _ t u => [t, u]
  | .timeField _ t u => [t, u]
  | .frontRead _ t u => [t, u]
  | .frontWait _ t u => [t, u]
  | .frontSubscribe _ => []
  | .tcapNew _ t u => [t, u]
  | .tcapAdvance _ => []
  | .tcapDrop _ => []
  | .callq _ _ _ => []
  | .sysTrap _ => []
  | .sysEret _ => []
  | .sysBkpt _ => []
  | .sysFeatq _ t u => [t, u]
  | .sysWdog _ t u => [t, u]
  | .sysPmonctl _ => []
  | .sysPmonrd _ t u => [t, u]
  | .sysRrmark _ => []
  | .sysTlbinv _ => []
  | .sysCsload _ => []
  | .sregRd _ t _ => [t]
  | .sregWr _ _ => []
  | .sectCfgload _ => []
  | .sectArm _ => []
  | .sectBound _ => []
  | .sectDrain _ => []
  | .sectSinkw _ t u => [t, u]
  | .sectRelease _ => []
  | .sectGred _ t u => [t, u]
  | .sectGbcast _ => []
  | .sliceAccess _ _ _ _ => []
  | .sectorFill _ _ _ => []
  | .bolterFill _ _ => []
  | .scrubRead _ _ => []
  | .mailboxForward _ _ => []
  | .relayForward _ => []
  | .artEntryEnable _ _ => []
  | .artEntryDisable _ => []
  | .ownerTagWrite _ _ => []
  | .errorLogFree _ _ => []
  | .lostClear _ => []
  | .writeBackRange => []
  | .writeBackInvalidateRange => []
  | .writeBackInvalidateAll => []
  | .rebase => []
  | .maintenanceDone => []
  | .formatWindowEnable _ _ => []
  | .formatWindowDisable _ => []
  | .registerWrite _ _ => []
  | .pageResume _ _ => []
  | .pageRefuse _ _ => []
  | .withheldTimeout _ => []
  | .deviceReply _ => []
  | .copyTileStart _ _ => []
  | .copyTileComplete _ _ _ => []
  | .copyPoison _ _ _ => []
  | .freeNotice _ _ => []
  | .fullNotice _ _ => []
  | .copyMarker _ => []
  | .pageRefill _ _ => []
  | .frameWriteback _ _ => []
  | .fullEmptyWake _ _ => []
  | .lmstreamSourceToken _ => []
  | .lmstreamSinkToken _ => []
  | .tokenHop _ _ => []
  | .packetHop _ _ => []
  | .requestDamaged _ => []
  | .replyResend _ => []
  | .linkuncorr _ => []
  | .circuitUncorr _ _ => []
  | .softerr _ => []
  | .confArrival _ => []
  | .configSwitch _ => []
  | .nodeFiring _ => []
  | .sourceFiring _ => []
  | .agAdmit _ => []
  | .controlBlockFetch _ => []
  | .blockCommit => []
  | .coalesceLaunch _ _ => []
  | .coalesceTimeout _ _ => []
  | .streamBlockSelect _ => []
  | .streamThreadReport _ _ => []
  | .countBatchForward _ _ => []
  | .rootBatchApply _ => []
  | .announcementArrival _ _ => []
  | .peerBatch _ _ _ => []
  | .peerConnectionLoss _ => []
  | .mmaExecute _ _ => []
  | .tileLoadExecute _ => []
  | .mstExecute _ => []
  | .mrelExecute _ => []
  | .mjobExecute _ => []
  | .matrixMarker _ => []
  | .latticeLocalApply _ => []
  | .pshiftRun _ => []
  | .pstepRun _ => []
  | .marchHandoff _ => []
  | .callTake _ _ _ => []
  | .callReturn _ _ _ => []
  | .zbRelease _ _ => []
  | .unitTimeout _ _ _ => []
  | .queueMarker _ _ _ => []
  | .wsEntryRead _ => []
  | .wsPoolEnter _ => []
  | .wsEntryComplete _ _ => []
  | .sluiceDecision => []
  | .handlerEntry _ => []
  | .qovf _ _ => []
  | .deadline _ => []
  | .stall _ => []
  | .haltGraceExpiry _ => []
  | .jobdeadline _ => []
  | .preemptInject _ => []
  | .markReceived _ _ => []
  | .cutComplete _ => []
  | .draintimeout _ => []
  | .restoreContext _ => []
  | .jobsubmit _ _ _ => []
  | .jobabort _ _ _ => []
  | .epattach _ _ _ _ _ => []
  | .epdetach _ _ _ _ => []
  | .checkpoint _ _ _ => []
  | .restoreImage _ _ _ => []
  | .telemetry _ _ => []
  | .replay _ _ _ _ => []
  | .exportRange _ _ _ _ _ _ => []
  | .unexportRange _ _ _ _ => []
  | .rmaRead _ _ _ _ _ => []
  | .rmaWrite _ _ _ _ _ => []
  | .rmaAtomic _ _ _ _ _ _ => []
  | .endpointAck _ _ => []
  | .epfail _ => []
  | .pageCapture _ _ => []
  | .powerUp => []
  | .bootImageArrival _ _ => []
  | .bootRetry => []
  | .bayIdleEntry _ => []
  | .thermalThrottle _ _ => []
  | .thermalShutdown _ _ => []
  | .breakResume _ => []
  | .connectionRequest _ => []
  | .badmsg _ _ _ => []
  | .rmaReadResponse _ _ => []
  | .bayPowerGating _ _ => []
  | .selfRefresh _ _ => []

end Sys2Proof.Machine
end

