-- ==== Sys2Proof/Machine/Fetch.lean ====
section
/-! DEFINITION. Fetch: what the word of a slot is, which slot of a block is next (09 R144, R147), and how a single word
is placed as the next instruction. -/

namespace Sys2Proof.Machine

/-- The instruction that a word is, when it decodes and its fields fit together (09 R159). -/
def instrOf (w : Word) : Option Instr :=
  match decode w with
  | .ok i => if i.wellFormed then some i else none
  | .error _ => none

/-- The instruction of a slot. -/
def Frame.instr (f : Frame) (k : Nat) : Option Instr :=
  match f.words[k]? with
  | some w => instrOf w
  | none => none

/-- An instruction that a slot still has to issue, or to skip (09 R138, R144). -/
def Slot.due (sl : Slot) (i : Option Instr) : Bool :=
  sl.phase == .idle &&
  match i with
  | none => true
  | some i =>
    match predMode i with
    | none => false
    | some p => sl.predicate p == some false || (sl.predicate p == some true && (sl.operands (operandCount i)).isSome)

/-- The first slot from `k` on that satisfies a test. -/
def firstSlot (test : Nat → Slot → Bool) : Nat → List Slot → Option Nat
  | _, [] => none
  | k, sl :: sls => if test k sl then some k else firstSlot test (k + 1) sls

/-- The instructions of a block that issue in slot order among themselves: section commands with HALT (18 R279), and capability
commands (20 R312). Log entry 23 (DEDUCED). -/
def orderFamily : Option Instr → Nat
  | some (.sectCfgload _) | some (.sectArm _) | some (.sectBound _) | some (.sectDrain _) | some (.sectSinkw _ _ _)
  | some (.sectRelease _) | some (.sectGred _ _ _) | some (.sectGbcast _) | some (.halt _) => 1
  | some (.tcapNew _ _ _) | some (.tcapAdvance _) | some (.tcapDrop _) => 2
  | _ => 0

/-- An earlier slot of the same family has still to issue. -/
def Frame.held (f : Frame) (k : Nat) : Bool :=
  let m := orderFamily (f.instr k)
  m != 0 && (List.range k).any fun j =>
    (f.slotAt j).phase != .issued && (f.slotAt j).phase != .skipped && orderFamily (f.instr j) == m

/-- No instruction is still executing (09 R147). -/
def Frame.quiet (f : Frame) : Bool := f.slots.all fun sl => sl.phase != .blocked && sl.phase != .inflight

/-- The slot that issues next: the lowest that is due, an ordered one after the earlier ones of its family, or at once where
those can issue no more. Log entry 23. -/
def Frame.dueSlot (f : Frame) : Option Nat :=
  if f.live && f.phase == .running then
    let due := fun k (sl : Slot) => decide (k < f.words.length) && sl.due (f.instr k)
    match firstSlot (fun k sl => due k sl && !f.held k) 0 f.slots with
    | some k => some k
    | none => if f.quiet then firstSlot due 0 f.slots else none
  else none

/-- A slot that waits: each in its turn. -/
def Frame.waitingSlot (f : Frame) (round : Nat) : Option Nat :=
  if f.live && f.phase == .running then
    let ks := (List.range f.slots.length).filter fun k => (f.slotAt k).phase == .blocked
    ks[round % max ks.length 1]?
  else none

/-- The counts are met and no instruction is still executing (09 R147). -/
def Frame.complete (f : Frame) : Bool :=
  f.live && (f.phase != .running ||
    (f.outs == f.nout && f.stores == f.nst && f.quiet && f.dueSlot.isNone))

/-! ## One word as the next instruction -/

/-- The kind of block in which a word is placed to run: a control block where it is legal there, else a node or a rule
block. -/
def kindFor : Option Instr → BlockKind
  | none => .control
  | some i =>
    match legalIn i with
    | .any | .controlNode | .control | .nowhere => .control
    | .node => .node
    | .rule => .rule

/-- The agent that runs it: region 0, PE 0, or AG node 0. -/
def agentFor (i : Option Instr) : Agent :=
  match i with
  | some (.gather _ _ _ _) => .ag 0 0
  | some (.scatter _ _) => .ag 0 0
  | _ =>
    match kindFor i with
    | .control => .ctl 0
    | .node => .node 0
    | .rule => .rule 0

/-- A predicate that lets a word issue. -/
def predFor : Option Pm → Option Value
  | some .ifTrue => some (.data 1)
  | some .ifFalse => some (.data 0)
  | _ => none

/-- A block that holds one word in slot 0, with every operand delivered as DATA 0, a predicate that matches, every feature
declared, and room for 15 deliveries and 15 stores. Log entry 78 (DESIGN CHOICE). -/
def frameFor (w : Word) : Frame :=
  let i := instrOf w
  let kind := kindFor i
  { Frame.blank with
    live := true, agent := agentFor i, kind := kind,
    header := packFields 32 [(30, 2, match kind with
        | .control => 0
        | .node => 1
        | .rule => 2), (24, 6, 63), (20, 4, 15), (16, 4, 15), (8, 6, 63)],
    words := [w],
    slots := ⟨some (.data 0), some (.data 0), some (.data 0), predFor (i.bind predMode), .idle⟩ ::
      List.replicate 63 { Slot.blank with phase := .skipped } }

/-- The state with a word placed as the next instruction. Log entry 78 (DESIGN CHOICE). -/
def State.placeWord (s : State) (w : Word) : State := { s with cur := frameFor w, agenda := [] }

end Sys2Proof.Machine
end

