-- ==== Sys2Proof/Machine/Gx.lean ====
section
/-! DEFINITION. Gx: the GX block formats, canonical encoding, and the Bolter's engine form (03 R45 to R52). -/

namespace Sys2Proof.Machine

/-- A GX block of 16 elements: the shared exponent, the four quad shifts, the signs and the magnitudes (03 R45). -/
structure GxBlock where
  e  : Nat
  sg : List Nat
  s  : List Bool
  m  : List Nat
  deriving DecidableEq, Repr

/-- The block whose bits are a number, at element width w (03 R45). -/
def gxUnpack (w v : Nat) : GxBlock :=
  let el := fun i => (v / 2 ^ (16 + w * i)) % 2 ^ w
  { e := v % 256
    sg := (List.range 4).map fun j => (v / 2 ^ (8 + 2 * j)) % 4
    s := (List.range 16).map fun i => el i / 2 ^ (w - 1) == 1
    m := (List.range 16).map fun i => el i % 2 ^ (w - 1) }

/-- The bits of a block at element width w (03 R45). -/
def gxPack (w : Nat) (b : GxBlock) : Nat :=
  b.e % 256 + 256 * (lanesNat 2 b.sg % 256) +
    65536 * lanesNat w ((b.s.zip b.m).map fun p => (if p.1 then 2 ^ (w - 1) else 0) + p.2 % 2 ^ (w - 1))

/-- The NaN block: E is 0xFF and every other bit 0. -/
def gxNan : GxBlock := ⟨255, List.replicate 4 0, List.replicate 16 false, List.replicate 16 0⟩

/-- The zero block with given signs. -/
def gxZero (s : List Bool) : GxBlock := ⟨0, List.replicate 4 0, s, List.replicate 16 0⟩

/-- The value of element i of a block that is no NaN block (03 Table 3-5). -/
def gxElem (w : Nat) (b : GxBlock) (i : Nat) : FVal :=
  let s := b.s.getD i false
  if b.e = 0 then .fin s 0 0
  else .fin s (b.m.getD i 0) ((b.e : Int) - 127 - b.sg.getD (i / 4) 0 - (w - 2 : Nat))

/-- The values of a block, or none for a NaN block. -/
def gxVals (w : Nat) (b : GxBlock) : Option (List FVal) :=
  if b.e = 255 then none else some ((List.range 16).map (gxElem w b))

/-- Round a magnitude to units of 2^q, nearest, ties to even. -/
def unitsOf (v : FVal) (q : Int) : Nat :=
  match v with
  | .fin _ m e => (roundUnits .rn false m e q).1
  | _ => 0

/-- Whether every value of a list rounds to at most `top` units of 2^q; an infinity does not. -/
def allFit (top : Nat) (q : Int) (vs : List FVal) : Bool := vs.all fun v => match v with
  | .fin _ _ _ => decide (unitsOf v q ≤ top)
  | _ => false

/-- The sign of a value. -/
def FVal.isNeg : FVal → Bool
  | .inf s => s
  | .fin s _ _ => s
  | .nan _ => false

/-- The largest of the finite magnitudes of a list. -/
def maxMag (vs : List FVal) : Dy :=
  vs.foldl (fun a v => match v with
    | .fin _ m e => if Dy.cmp ⟨m, e⟩ a = 1 then ⟨m, e⟩ else a
    | _ => a) Dy.zero

/-- The largest quad shift at which a quad fits; 0 when none does (03 R48). -/
def quadShift (top : Nat) (e w : Nat) (vs : List FVal) : Nat :=
  let ok := fun g : Nat => allFit top ((e : Int) - 127 - g - (w - 2 : Nat)) vs
  if ok 3 then 3 else if ok 2 then 2 else if ok 1 then 1 else 0

/-- Canonical encoding of 16 values at width w, with the flags it raises (03 R48): a value other than NaN beside a NaN decodes as
NaN, which differs from it. -/
def gxEncode (w : Nat) (vs : List FVal) : GxBlock × Flags :=
  let top := 2 ^ (w - 1) - 1
  let isNan := fun (v : FVal) => match v with
    | .nan _ => true
    | _ => false
  if vs.any isNan then (gxNan, ⟨false, false, false, false, !vs.all isNan⟩)
  else
    let s := vs.map FVal.isNeg
    let anyInf := (infSign vs).isSome
    let m := maxMag vs
    if m.n = 0 && !anyInf then (gxZero s, Flags.none)
    else
      let w2 : Nat := w - 2
      let e0 : Int := if anyInf then 255 else (log2n m.n.natAbs : Int) + m.e + 127
      let e1 : Int := if e0 ≤ 254 && top < unitsOf (.fin false m.n.natAbs m.e) (e0 - 127 - w2) then e0 + 1 else e0
      let sat := decide (e1 > 254)
      let e : Nat := if sat then 254 else if e1 < 1 then 1 else e1.toNat
      let quads := (List.range 4).map fun j => (vs.drop (4 * j)).take 4
      let sg := quads.map (quadShift top e w)
      let unit := fun i : Nat => (e : Int) - 127 - sg.getD (i / 4) 0 - w2
      let ms := vs.zipIdx.map fun p => match p.1 with
        | .inf _ => top
        | v => min top (unitsOf v (unit p.2))
      let b : GxBlock := if ms.all (· == 0) then gxZero s else ⟨e, sg, s, ms⟩
      let changed := vs.zipIdx.any fun p => match p.1 with
        | .inf _ => true
        | v => Dy.cmp v.dy (gxElem w b p.2).dy != 0
      (b, ⟨false, false, sat, false, changed⟩)

/-- The engine block of a storage block of width w with scale S (03 R50). -/
def gxFill (w : Nat) (scale : Int) (b : GxBlock) : GxBlock :=
  if b.e = 255 then gxNan
  else if b.e = 0 then gxZero b.s
  else
    let es := (b.e : Int) + scale
    if 255 ≤ es then gxNan
    else if 1 ≤ es then { b with e := es.toNat, m := b.m.map (· * 2 ^ (7 - w)) }
    else
      let k := 1 - es
      let ms := b.m.map fun m => (roundUnits .rn false (m * 2 ^ (7 - w)) 0 k).1
      if ms.all (· == 0) then gxZero b.s else { b with e := 1, m := ms }

/-- The storage block of width w with scale S of an engine block (03 R51). -/
def gxEvict (w : Nat) (scale : Int) (b : GxBlock) : GxBlock :=
  match gxVals 7 b with
  | none => gxNan
  | some vs => (gxEncode w (vs.map fun v => match v with
      | .fin s m e => .fin s m (e - scale)
      | v => v)).1

/-- The element width of a format window's format; `none` copies bytes (04 Table 4-3, R65). -/
def gxWidth : BitVec 2 → Option Nat
  | 1#2 => some 2
  | 2#2 => some 4
  | 3#2 => some 7
  | _ => none

/-- The bytes of a storage block (04 R65). -/
def gxBlockSize (w : Nat) : Nat := 2 + 2 * w

/-- The width that GXPACK and GXUNP name (13 R211). -/
def gwWidth : GxWidth → Nat
  | .gx2 => 2
  | .gx4 => 4
  | .gx7 => 7

end Sys2Proof.Machine
end

