-- ==== Sys2Proof/Machine/Packets.lean ====
section
/-! DEFINITION. Packets: where stacks and slices stand (01 R7, R8), the place of a requester, and the packets that carry requests
and responses (08 R122; 16 R253; 19 R289). -/

namespace Sys2Proof.Machine

/-! ## Stacks (01 R7) -/

/-- The stack of a slice (00 R3). -/
def stackOf (k : Nat) : Nat := k / 32

/-- The two dies of a seam, and the seams by number: the bridge stacks 2 n and 2 n + 1 stand on seam n (01 Table 1-2). -/
def seamDies (seam : Nat) : Option (Nat × Nat) :=
  match seam with
  | 0 => some (0, 1)
  | 1 => some (2, 3)
  | 2 => some (0, 2)
  | 3 => some (1, 3)
  | _ => none

/-- The seam between two dies. -/
def seamBetween (a b : Nat) : Option Nat :=
  (List.range 4).find? fun n => seamDies n == some (a, b) || seamDies n == some (b, a)

/-- The seam of a slice in a bridge stack (01 Table 1-2). -/
def seamOfSlice (k : Nat) : Option Nat := if k < 256 then some (stackOf k / 2) else none

/-- The die at whose outer edges a stack stands (01 Table 1-2). -/
def edgeDie (stack : Nat) : Nat := (stack - 8) / 2

/-- The dies that a slice borders (01 R8). -/
def sliceDies (k : Nat) : List Nat :=
  match (seamOfSlice k).bind seamDies with
  | some p => [p.1, p.2]
  | none => [edgeDie (stackOf k)]

/-- A seam runs between the left and the right die of a row; the others run between a lower and an upper die (01 R7). -/
def seamInX (a b : Nat) : Bool := a / 2 == b / 2

/-- The switch of die `a` at a row or column of its seam with die `b`. -/
def seamPlace (a b at_ : Nat) : Place :=
  if seamInX a b then ⟨a, if a % 2 = 0 then 63 else 0, at_⟩ else ⟨a, at_, if a / 2 = 0 then 63 else 0⟩

/-- The switch at an outer edge of a die: the edge in x or the one in y, at a row or column of it. -/
def edgePlace (d : Nat) (inX : Bool) (at_ : Nat) : Place :=
  if inX then ⟨d, if d % 2 = 0 then 0 else 63, at_⟩ else ⟨d, at_, if d / 2 = 0 then 0 else 63⟩

/-- The bridge stack that a route meets at a row or column of a seam. Log entry 8 (DESIGN CHOICE). -/
def relayStack (seam at_ : Nat) : Nat := 2 * seam + b2n (Config.relayUpper seam at_)

/-- The die by which a request of die `d` reaches a slice: its own where the slice borders it, else the bordering die next to it
(01 R8). -/
def entryDie (d k : Nat) : Nat :=
  let ds := sliceDies k
  if ds.contains d then d
  else (ds.find? fun x => (seamBetween d x).isSome).getD (ds.headD 0)

/-- The switch that serves a slice, as it is reached from a die: a slice of a bridge stack has one on each side of its seam.
Log entry 8 (DESIGN CHOICE). -/
def slicePlace (d k : Nat) : Place :=
  let p := Config.slicePlace k
  match (seamOfSlice k).bind seamDies with
  | some (a, b) => let e := entryDie d k; seamPlace e (if e = a then b else a) (p.2 % 64)
  | none => edgePlace (edgeDie (stackOf k)) p.1 (p.2 % 64)

/-! ## Requesters -/

/-- The switch of a PE or AG node. -/
def placeOf (key : Nat) : Place := let p := hostPe key; ⟨peDie p, peX p, peY p⟩

/-- The packet plane of a class (08 Table 8-4). -/
def planeOf (cls : Nat) : Plane := if cls = 1 then .memory else if cls = 5 then .exec else .copy

/-- The place from which a request enters its plane, and to which its reply goes. `pe` names a PE, or a control thread
whose home PE it is. -/
def State.reqPlace (s : State) (r : Req) : Place :=
  if agBase ≤ r.pe ∧ r.pe < agBase + 256 then placeOf (s.region (r.pe - agBase)).rect.home
  else if r.pe < agBase then placeOf r.pe else placeOf (agHost (r.pe - 16640))

/-- The switch of its slice at which a request arrives, and from which its reply leaves. -/
def State.servingPlace (s : State) (k : Nat) (r : Req) : Place :=
  slicePlace (match r.via with
    | c :: _ => c.into
    | [] => (s.reqPlace r).die) k

/-! ## Packets -/

/-- Put a packet on a plane, where it is made: it is still to be injected. -/
def State.addPacket (s : State) (p : Packet) : State :=
  { s with packets := s.packets.set s.nextId p, nextId := s.nextId + 1 }

/-- Send a request toward a slice. -/
def State.sendTo (s : State) (k : Nat) (r : Req) : State :=
  let p := s.reqPlace r
  s.addPacket ⟨planeOf r.cls, p, 6, slicePlace p.die k, k, .req r, 0, none⟩

/-- A packet is a request. -/
def Packet.isReq (p : Packet) : Bool :=
  match p.body with
  | .req _ => true
  | .reply _ => false

/-- The packets of a plane and virtual channel at a switch that came in by one of some sides (08 R122). -/
def State.buffered (s : State) (plane : Plane) (isReq : Bool) (at_ : Place) (sides : List Nat) : Nat :=
  (s.packets.filter fun e => e.2.plane == plane && e.2.isReq == isReq && e.2.at_ == at_ && sides.contains e.2.side).length

/-- The packet buffers of a virtual channel at a switch input (08 R122). -/
def inputRoom : Nat := 4

/-- A reply to a request can be placed at its slice's switch (08 R125). -/
def State.replyRoom (s : State) (k : Nat) (r : Req) : Bool :=
  s.buffered (planeOf r.cls) false (s.servingPlace k r) [0, 6] < inputRoom

/-- The value of a load that was merged, out of the line that the older load returned. -/
def Req.pick (q : Req) (line : W512) : W512 :=
  if q.op == .loadV then line else BitVec.ofNat 512 (bytesAt line (q.addr % 64) q.n)

/-- The replies of the loads that a router merged into a load: the value and the tags of its own reply (16 R253). -/
def State.releaseMerged (s : State) (rep : Reply) : State :=
  { s with packets := s.packets.mapVals fun _ p =>
      match p.body with
      | .req q =>
        if p.merged == some rep.req.rid then
          { p with body := .reply { rep with req := q, val := q.pick rep.line, merged := true }, dst := s.reqPlace q, side := 6,
                   merged := none }
        else p
      | .reply _ => p }

/-- A reply leaves a slice toward the place from which its request came. -/
def State.sendReply (s : State) (k : Nat) (rep : Reply) : State :=
  (s.releaseMerged rep).addPacket
    ⟨planeOf rep.req.cls, s.servingPlace k rep.req, 6, s.reqPlace rep.req, k, .reply rep, 0, none⟩

end Sys2Proof.Machine
end

