-- ==== Sys2Proof/Machine/SliceOps.lean ====
section
/-! DEFINITION. SliceOps: the physical map and the choice of a slice (02 R17 to R20), the checks of an access (02 R26),
lines, fills, leases and evictions (04 R53 to R58), format windows (04 R63 to R67), and the error log (02 R28). -/

namespace Sys2Proof.Machine

/-! ## The physical map -/

/-- Device memory (02 Table 2-1). -/
def inDevice (a : Nat) : Bool := a < 2 ^ 40
/-- View space. -/
def inView (a : Nat) : Bool := inRange a 0x200000000000 0x200000000000
/-- Executive space. -/
def inExec (a : Nat) : Bool := inRange a 0x100000000000 0x100000000000
/-- The boot ROM. -/
def inRom (a : Nat) : Bool := inRange a 0x100000000000 0x10000
/-- The address-range table. -/
def inArt (a : Nat) : Bool := inRange a 0x100010000000 0x800
/-- The control blocks of the slices. -/
def inCtl (a : Nat) : Bool := inRange a 0x100100000000 (512 * 0x10000)
/-- The page owner table. -/
def inOwner (a : Nat) : Bool := inRange a 0x100200000000 0x2000000

/-- The set bits of a mask, lowest first. -/
def bitsSet (m : W64) : List Nat := (List.range 64).filter fun j => bitAt m j

/-- The default hash (02 R20). -/
def hashSlice (a : Nat) : Nat :=
  (a / 2 ^ 6 % 512) ^^^ (a / 2 ^ 15 % 512) ^^^ (a / 2 ^ 24 % 512) ^^^ (a / 2 ^ 33 % 512) ^^^ (a / 2 ^ 42 % 16)

/-- The i-th slice of an entry's mask (02 R20). -/
def maskSlice (m : W64) (i : Nat) : Nat := 8 * (bitsSet m).getD (i / 8) 0 + i % 8

/-- The slice that serves an address of device memory or of view space (02 R20). A view address that no window covers but an
enabled entry does is answered by the entry's slice, as the pseudocode of R20 says and its text does not. An entry that changes
without a write-back takes effect at once: a line that a former slice holds is not looked for there (02 R24 allows either
value). Log entry 91 (DESIGN CHOICE). -/
def State.sliceOf (s : State) (a : Nat) : Nat :=
  match s.art.find? fun e => e.2.en && e.2.base.toNat ≤ a / 64 && a / 64 ≤ e.2.limit.toNat with
  | some (_, e) =>
    maskSlice e.mask ((a - 64 * e.base.toNat) / 2 ^ e.stride.toNat % (8 * (bitsSet e.mask).length))
  | none => hashSlice a

/-! ## Format windows -/

/-- The window whose view range holds an address (04 R63). -/
def State.windowAt (s : State) (a : Nat) : Option Window :=
  (s.windows.find? fun e => e.2.en && e.2.vbase.toNat ≤ a && a ≤ e.2.vlimit.toNat).map Prod.snd

/-- The bytes of a window's view. -/
def Window.view (w : Window) : Nat := w.vlimit.toNat + 1 - w.vbase.toNat
/-- The bytes of a storage block (04 R65). -/
def Window.block (w : Window) : Nat :=
  match gxWidth w.fmt with
  | some k => gxBlockSize k
  | none => 16
/-- The bytes of a window's storage (04 R64). -/
def Window.storage (w : Window) : Nat := w.view / 16 * w.block
/-- The storage range guards an address (04 R69). -/
def Window.guards (w : Window) (a : Nat) : Bool := w.en && inRange a w.sbase.toNat w.storage
/-- The storage block of a view address (04 R65). -/
def Window.blockOf (w : Window) (a : Nat) : Nat := w.sbase.toNat + (a - w.vbase.toNat) / 16 * w.block
/-- The scale byte of a view address. -/
def Window.scaleOf (w : Window) (a : Nat) : Nat := w.scbase.toNat + (a - w.vbase.toNat) / 256

/-- The owner tag of the page of an address (02 R25). -/
def State.ownerOf (s : State) (a : Nat) : BitVec 16 := Map.get 0 s.owner (a / 65536)

/-- The tag of the executive. -/
def execTag : BitVec 16 := 0xFFFF#16

/-- The address of the storage of an access: for a view address, of its block. -/
def State.ownerPlace (s : State) (a : Nat) : Nat :=
  match s.windowAt a with
  | some w => w.blockOf a
  | none => a

/-- The pages whose owner is checked for an access to n bytes: for view addresses, those of the first and last byte of each storage
block (02 Table 2-4; 04 R65). -/
def State.ownerPages (s : State) (a n : Nat) : List Nat :=
  match s.windowAt a with
  | some w => ((List.range ((a % 16 + n + 15) / 16)).flatMap fun i =>
      let b := w.blockOf (a / 16 * 16 + 16 * i)
      [b / 65536, (b + w.block - 1) / 65536]).eraseDups
  | none => [a / 65536]

/-- The owner tag of a page. -/
def State.pageOwner (s : State) (page : Nat) : BitVec 16 := Map.get 0 s.owner page

/-- An address that nothing answers: unmapped, a view address that no enabled window covers, or a write to the boot ROM. -/
def State.unmapped (s : State) (a : Nat) (write : Bool) : Bool :=
  if inExec a then (if inRom a then write else !(inArt a || inCtl a || inOwner a))
  else !inDevice a && !(inView a && (s.windowAt a).isSome)

/-- The error response of an access to n bytes before its line is looked at, in the order of Table 2-4 (02 R18, R20, R26). -/
def State.accessError (s : State) (job : BitVec 16) (a n : Nat) (write : Bool) : Option ErrCode :=
  if s.unmapped a write then some .unmapped
  else if inExec a then (if job ≠ execTag then some .priv else none)
  else if s.windows.any fun e => e.2.guards a then some .guard
  else if job ≠ execTag && (s.ownerPages a n).any (fun p => s.pageOwner p != job) then some .owner
  else none

/-- The slice that answers a request: for a control block, the slice that holds it (02 Table 2-1). Log entry 92 (DESIGN CHOICE). -/
def State.homeOf (s : State) (a : Nat) : Nat :=
  if inCtl a then (a - 0x100100000000) / 0x10000 else s.sliceOf a

/-! ## Lines -/

/-- The code of an error response (02 Table 2-4). -/
def ErrCode.num : ErrCode → Nat
  | .unmapped => 1
  | .priv => 2
  | .guard => 3
  | .owner => 4
  | .uncorr => 5
  | .poison => 6

/-- A line that has just been allocated: both leases are EVTS (04 R57). -/
def freshLine (evts : Nat) (poison : Bool) : Line :=
  ⟨Vector.replicate 4 .invalid, 0, evts, evts, poison, 0, false, []⟩

/-- A sector of a line. -/
def Line.sector (l : Line) (i : Nat) : Sector := l.sectors.toList.getD i .invalid
/-- A line with a sector changed. -/
def Line.setSector (l : Line) (i : Nat) (x : Sector) : Line := { l with sectors := l.sectors.set! i x }
/-- A line is valid: some sector is. -/
def Line.valid (l : Line) : Bool := l.sectors.toList.any (· != .invalid)
/-- The bytes [o, o + n) of a line. -/
def Line.get (l : Line) (o n : Nat) : Nat := bytesAt l.data o n
/-- A line with bytes replaced. -/
def Line.put (l : Line) (o n v : Nat) : Line := { l with data := insertBits l.data (8 * o) (8 * n) v }

/-- The sectors that [o, o + n) touches. -/
def sectorsOf (o n : Nat) : List Nat := (List.range 4).filter fun i => o < 16 * i + 16 && 16 * i < o + n
/-- A sector that [o, o + n) covers whole. -/
def coversSector (o n i : Nat) : Bool := o ≤ 16 * i && 16 * i + 16 ≤ o + n

/-- A byte of device memory as an access finds it: in the line of its slice, else in HBM. -/
def State.coherentByte (s : State) (a : Nat) : Byte :=
  match (s.slice (s.sliceOf a)).lines.find (a / 64) with
  | some l => if l.sector (a % 64 / 16) == .invalid then s.mem.read a else BitVec.ofNat 8 (l.get (a % 64) 1)
  | none => s.mem.read a

/-- Bytes of device memory as an access finds them. -/
def State.coherentBytes (s : State) (a n : Nat) : List Byte := (List.range n).map fun i => s.coherentByte (a + i)

/-- A device line is poisoned, in its slice or in HBM (02 R30). -/
def State.poisoned (s : State) (a : Nat) : Bool :=
  match (s.slice (s.sliceOf a)).lines.find (a / 64) with
  | some l => l.poison
  | none => s.poison.contains (a / 64)

/-- Write a byte of storage at its slice: into a valid sector, else to HBM (04 R67). -/
def State.storeByte (s : State) (a : Nat) (b : Byte) : State :=
  let k := s.sliceOf a
  match (s.slice k).lines.find (a / 64) with
  | some l =>
    if l.sector (a % 64 / 16) == .invalid then { s with mem := s.mem.write a b }
    else s.onSlice k fun c =>
      { c with lines := c.lines.set (a / 64) ((l.put (a % 64) 1 b.toNat).setSector (a % 64 / 16) .dirty) }
  | none => { s with mem := s.mem.write a b }

/-- Write bytes of storage. -/
def State.storeBytes : State → Nat → List Byte → State
  | s, _, [] => s
  | s, a, b :: bs => State.storeBytes (s.storeByte a b) (a + 1) bs

/-- Poison the storage lines of a block. -/
def State.poisonLine (s : State) (line : Nat) : State :=
  let k := s.sliceOf (64 * line)
  let s := s.onSlice k fun c => match c.lines.find line with
    | some l => { c with lines := c.lines.set line { l with poison := true } }
    | none => c
  { s with poison := if s.poison.contains line then s.poison else line :: s.poison }

/-- The engine form of a view sector from its storage (03 R50; 04 R66). -/
def State.viewSector (s : State) (w : Window) (a : Nat) (scale : BitVec 8) : Nat :=
  let raw := leNat (s.coherentBytes (w.blockOf a) w.block)
  match gxWidth w.fmt with
  | none => raw
  | some k => gxPack 7 (gxFill k scale.toInt (gxUnpack k raw))

/-- The storage bytes of a view sector that is evicted (03 R51; 04 R67). -/
def viewStorage (w : Window) (v : Nat) (scale : BitVec 8) : List Byte :=
  match gxWidth w.fmt with
  | none => leBytes 16 v
  | some k => leBytes w.block (gxPack k (gxEvict k scale.toInt (gxUnpack 7 v)))

/-- The scale byte that a fill of a view line reads, 0 where the window has none; one that lies in a poisoned line is read as it stands.
Log entry 100 (DESIGN CHOICE). -/
def State.viewScale (s : State) (w : Window) (a : Nat) : BitVec 8 :=
  if w.sc then s.coherentByte (w.scaleOf a) else 0

/-- S with which a view line is encoded: the one kept since its first fill, and for a line that no fill has reached, whose sectors
were all written whole, the scale byte as it stands now. Log entry 93 (DESIGN CHOICE). -/
def State.lineScale (s : State) (w : Window) (a : Nat) (l : Line) : BitVec 8 := if l.hasScale then l.scale else s.viewScale w a

/-! ## Soft errors (02 R29, R30; 04 R70 to R72) -/

/-- The error that the code words of a sector (0 to 3), or of the tag and lease (4), of a line show. -/
def Line.err (l : Line) (part : Nat) : SoftError := ((l.errs.find? fun e => e.1 == part).map Prod.snd).getD .clean

/-- A line without the errors of some parts. -/
def Line.forget (l : Line) (parts : List Nat) : Line := { l with errs := l.errs.filter fun e => !parts.contains e.1 }

/-- The dirty sectors of a line. -/
def Line.dirtySectors (l : Line) : List Nat := (List.range 4).filter fun i => l.sector i == .dirty

/-- The dirty sectors that are lost: by an error of their own, or by one of the tag or lease (04 R70). -/
def Line.lostSectors (l : Line) : List Nat :=
  l.dirtySectors.filter fun i => l.err i == .uncorrectable || l.err 4 == .uncorrectable

/-- How many of the errors in some parts are corrected. -/
def Line.corrected (l : Line) (parts : List Nat) : Nat := (parts.filter fun i => l.err i == .corrected).length

/-- Errors that a slice has corrected (04 R70). -/
def Slice.countSram (c : Slice) (n : Nat) : Slice := { c with corrSram := min (c.corrSram + n) 0xFFFFFFFF }

/-- An error of a fill that is corrected (02 R29). -/
def Slice.countHbm (c : Slice) : Slice := { c with corrHbm := min (c.corrHbm + 1) 0xFFFFFFFF }

/-- Record an error: into the lowest free entry, else in LOST (02 R28). -/
def Slice.log (c : Slice) (e : ErrEntry) : Slice :=
  match findIdx (fun x : ErrEntry => !x.v) c.errlog.toList 0 with
  | some (i, _) => { c with errlog := c.errlog.set! i e }
  | none => { c with lost := min (c.lost + 1) 0xFFFFFFFF }

/-- Record an error at a slice; an entry that becomes valid signals the executive (02 R28). -/
def State.logError (s : State) (k : Nat) (e : ErrEntry) : State :=
  let s := match findIdx (fun x : ErrEntry => !x.v) (s.slice k).errlog.toList 0 with
    | some (i, _) => { s with signals := s.signals ++ [Signal.errorLog k i] }
    | none => s
  s.onSlice k (·.log e)

/-- The entry of an error that no access is charged for: an eviction or the scrubber finds it, and the owner of the page is named
(02 R31; 04 R72). Log entry 25 (DESIGN CHOICE). -/
def State.chargeOwner (s : State) (k a : Nat) : State :=
  s.logError k ⟨true, 5, 5, BitVec.ofNat 46 a, s.ownerOf (s.ownerPlace a), 3, BitVec.ofNat 32 k⟩

/-- Write back one dirty sector of a line (04 R54, R67). -/
def State.writeSector (line : Nat) (l : Line) (s : State) (i : Nat) : State :=
  let a := 64 * line + 16 * i
  match s.windowAt a with
  | some w => s.storeBytes (w.blockOf a) (viewStorage w (l.get (16 * i) 16) (s.lineScale w (64 * line) l))
  | none => if inView a then s else { s with mem := s.mem.writeNat a 16 (l.get (16 * i) 16) }

/-- A dirty sector that is lost at its write-back: the line is poisoned in HBM, or the storage lines of a view line's block are
(04 R72). -/
def State.poisonSector (line : Nat) (s : State) (i : Nat) : State :=
  let a := 64 * line + 16 * i
  match s.windowAt a with
  | some w => (s.poisonLine (w.blockOf a / 64)).poisonLine ((w.blockOf a + w.block - 1) / 64)
  | none => if inView a then s else s.poisonLine line

/-- Write back the dirty sectors of a line: the sound ones reach memory, and a lost one poisons what it would have written and is
charged to the owner of the page (04 R54, R67, R72). Corrected errors are counted. -/
def State.writeBackSectors (s : State) (k line : Nat) (l : Line) : State :=
  let lost := l.lostSectors
  let s := s.onSlice k (·.countSram (l.corrected (4 :: l.dirtySectors)))
  let s := (l.dirtySectors.filter fun i => !lost.contains i).foldl (State.writeSector line l) s
  if lost.isEmpty then s else (lost.foldl (State.poisonSector line) s).chargeOwner k (64 * line)

/-- A line with its dirty sectors clean. -/
def Line.cleaned (l : Line) : Line :=
  { l.forget (4 :: l.dirtySectors) with sectors := l.sectors.map fun x => if x == .dirty then .clean else x }

/-- Write back a line and keep it (04 R62). -/
def State.cleanLine (s : State) (k line : Nat) : State :=
  match (s.slice k).lines.find line with
  | none => s
  | some l =>
    let l' := { l.cleaned with poison := l.poison || (!l.lostSectors.isEmpty && inDevice (64 * line)) }
    (s.writeBackSectors k line l).onSlice k fun c => { c with lines := c.lines.set line l' }

/-- A lease time at a slice has passed 2^47: LEASEHI is set and the executive is signalled (04 R58). -/
def State.leaseHigh (s : State) (t : Nat) : State :=
  if 2 ^ 47 < t && !s.maint.leasehi then
    { s with maint := { s.maint with leasehi := true }, signals := s.signals ++ [.leaseHi] }
  else s

/-- A line leaves its slice: EVTS keeps the greatest rts (04 R57). -/
def State.dropLine (s : State) (k line rts : Nat) : State :=
  s.onSlice k fun c => { c with lines := c.lines.drop line, evts := max c.evts rts }

/-- Evict a line: write back its dirty sectors, keep the greatest rts in EVTS and its poison in HBM (04 R54, R57). -/
def State.evictLine (s : State) (k line : Nat) : State :=
  match (s.slice k).lines.find line with
  | none => s
  | some l =>
    let s := s.writeBackSectors k line l
    let s := if l.poison && !s.poison.contains line then { s with poison := line :: s.poison } else s
    s.dropLine k line l.rts

/-- What the code words of a held line show to an access that reads some sectors: errors that are corrected are counted; a clean
sector with an error that cannot be corrected is invalid and is filled again; a line whose tag or lease has one and that has no dirty
sector is dropped, and EVTS keeps the rts that it had (log entry 94 (DEDUCED)); and the answer says whether a dirty sector is lost,
which poisons the line (04 R70, R71). -/
def State.checkLine (s : State) (k line : Nat) (secs : List Nat) : State × Bool :=
  match (s.slice k).lines.find line with
  | none => (s, false)
  | some l =>
    if l.errs.isEmpty then (s, false)
    else
      let s := s.onSlice k (·.countSram (l.corrected (4 :: secs)))
      if l.err 4 == .uncorrectable && l.dirtySectors.isEmpty then (s.dropLine k line l.rts, false)
      else
        let l' := (secs.filter fun i => l.err i == .uncorrectable && l.sector i == .clean).foldl (fun l i => l.setSector i .invalid)
          (l.forget (4 :: secs))
        let s := s.onSlice k fun c => { c with lines := c.lines.set line l' }
        if l.err 4 == .uncorrectable || l.lostSectors.any secs.contains then (s.poisonLine line, true) else (s, false)

/-- What a read of a line in HBM finds: an error that is corrected is counted; one that cannot be poisons the line (02 R29, R30). -/
def State.readHbm (s : State) (line : Nat) : State × Bool :=
  let k := s.sliceOf (64 * line)
  match s.hbmErr.find line with
  | none | some .clean => (s, false)
  | some .corrected => ({ s with hbmErr := s.hbmErr.drop line }.onSlice k (·.countHbm), false)
  | some .uncorrectable => ({ s with hbmErr := s.hbmErr.drop line }.poisonLine line, true)

/-- The Bolter's read of a storage line: the code words of its slice and of HBM are checked on the way (04 R66, R70; 02 R29). -/
def State.readStorage (s : State) (line : Nat) : State :=
  let k := s.sliceOf (64 * line)
  let s := (s.checkLine k line [0, 1, 2, 3]).1
  match (s.slice k).lines.find line with
  | some l => if l.sectors.toList.contains .invalid then (s.readHbm line).1 else s
  | none => (s.readHbm line).1

/-! ## Room in a slice (04 R53) -/

/-- The sets of a slice. -/
def sliceSets : Nat := 2048
/-- The ways of a set. -/
def sliceWays : Nat := 16

/-- The set of a line at its slice. Log entry 95 (DESIGN CHOICE). -/
def setOf (line : Nat) : Nat := Config.cacheSet line % sliceSets

/-- The lines that stand in the set of a line. -/
def Slice.mates (c : Slice) (line : Nat) : List Nat := c.lines.keys.filter fun x => setOf x == setOf line

/-- A line finds a free way in its set. -/
def Slice.hasWay (c : Slice) (line : Nat) : Bool :=
  (c.lines.find line).isSome || c.lines.length < sliceWays || (c.mates line).length < sliceWays

/-- Make room for a line: with every way of its set taken, the first of them leaves. Log entry 86 (DESIGN CHOICE). -/
def State.makeRoom (s : State) (k line : Nat) : State :=
  if (s.slice k).hasWay line then s
  else match (s.slice k).mates line with
    | x :: _ => s.evictLine k x
    | [] => s

/-- The line at its slice, allocated when it is not held. -/
def State.lineAt (s : State) (k line : Nat) : Line :=
  match (s.slice k).lines.find line with
  | some l => l
  | none => freshLine (s.slice k).evts (s.poison.contains line)

/-- Put a line into its slice. -/
def State.setLine (s : State) (k line : Nat) (l : Line) : State := s.onSlice k fun c => { c with lines := c.lines.set line l }

/-! ## Fills (04 R54, R55, R66) -/

/-- A device line's invalid sectors are filled from HBM. -/
def Line.fillFrom (l : Line) (mem : Memory) (a : Nat) (secs : List Nat) : Line :=
  secs.foldl (fun l i =>
    if l.sector i == .invalid then (l.put (16 * i) 16 (mem.readNat (a + 16 * i) 16)).setSector i .clean else l) l

/-- A storage line of the block of a view sector is poisoned (04 R66). -/
def State.blockPoisoned (s : State) (w : Window) (a : Nat) : Bool :=
  s.poisoned (w.blockOf a) || s.poisoned (w.blockOf a + w.block - 1)

/-- Fill some invalid sectors of a line, from HBM or through the Bolter. A line that HBM cannot correct is poisoned and the fill
answers UNCORR (02 R30); a view sector whose storage is poisoned stays invalid and the fill answers POISON (04 R66). A view line that
no window covers any more is not filled. -/
def State.fillSectors (s : State) (k line : Nat) (secs : List Nat) : State × Option ErrCode :=
  let a := 64 * line
  let s := s.makeRoom k line
  match s.windowAt a with
  | none =>
    if inView a then (s, none)
    else
      let x := s.readHbm line
      if x.2 then ((x.1.setLine k line (x.1.lineAt k line)), some .uncorr)
      else (x.1.setLine k line ((x.1.lineAt k line).fillFrom x.1.mem a secs), none)
  | some w =>
    let l := s.lineAt k line
    let open_ := secs.filter fun i => l.sector i == .invalid
    let s := (open_.flatMap fun i => [w.blockOf (a + 16 * i) / 64, (w.blockOf (a + 16 * i) + w.block - 1) / 64]).eraseDups.foldl
      State.readStorage s
    let good := open_.filter fun i => !s.blockPoisoned w (a + 16 * i)
    let l := if l.hasScale || good.isEmpty then l else { l with scale := s.viewScale w a, hasScale := true }
    let l := good.foldl (fun l i => (l.put (16 * i) 16 (s.viewSector w (a + 16 * i) l.scale)).setSector i .clean) l
    (if good.isEmpty then s else s.setLine k line l, if good.length == open_.length then none else some .poison)

/-! ## Requests at a line -/

/-- The bytes of one access of a request within its line: a vector form acts granule by granule (11 R183). -/
def Req.span (r : Req) : Nat × Nat :=
  match r.op with
  | .loadV | .storeV => (16 * r.gran, 16)
  | _ => (r.addr % 64, r.n)

/-- The sectors that a request touches. -/
def Req.sectors (r : Req) : List Nat := sectorsOf r.span.1 r.span.2

/-- The sectors that a request reads: those it takes bytes from, and those it writes in part (04 R54). -/
def Req.reads (r : Req) : List Nat :=
  r.sectors.filter fun i =>
    match r.op with
    | .store | .storeV => !coversSector r.span.1 r.span.2 i
    | _ => true

/-- The sectors that must be filled before a request acts (04 R54). -/
def Req.needs (r : Req) (l : Line) : List Nat := r.reads.filter fun i => l.sector i == .invalid

/-- The greatest lease time. -/
def leaseMax : Nat := 2 ^ 48 - 1

/-- The leases after a load with a lease length, and after a store (04 Table 4-1). -/
def loadLease (l : Line) (pts lease : Nat) : Nat × Nat := (l.wts, max l.rts (max pts l.wts + lease))
/-- The store row. -/
def storeLease (l : Line) (pts : Nat) : Nat × Nat := let w := max pts (l.rts + 1); (w, w)

/-- Write bytes into a line; the sectors written become dirty. -/
def Line.write (l : Line) (o n v : Nat) : Line :=
  (sectorsOf o n).foldl (fun l i => l.setSector i .dirty) (l.put o n v)

/-- What a request does at its line: the line after it, the value it returns, and whether its access is a write. -/
def Req.apply (r : Req) (l : Line) : Line × W512 × Bool :=
  let o := r.addr % 64
  match r.op with
  | .load => (l, BitVec.ofNat 512 (l.get o r.n), false)
  | .loadV => (l, r.acc ||| (BitVec.ofNat 512 (l.get (16 * r.gran) 16) <<< (128 * r.gran)), false)
  | .store => (l.write o r.n (lowBytes r.data r.n), 0, true)
  | .storeV => (l.write (16 * r.gran) 16 (bytesAt r.data (16 * r.gran) 16), 0, true)
  | .atom sub =>
    let old := l.get o r.n
    (l.write o r.n (atomNew sub r.n old (lowBytes r.data r.n)), BitVec.ofNat 512 old, true)
  | .cas =>
    let old := l.get o r.n
    if old = lowBytes r.data r.n then (l.write o r.n (lowBytes r.data2 r.n), BitVec.ofNat 512 old, true)
    else (l, BitVec.ofNat 512 old, false)

/-- A line written whole by one access: its poison is cleared (02 R30; 11 R183). -/
def Req.wholeLine (r : Req) : Bool :=
  match r.op with
  | .storeV => r.gran == 0
  | .store => r.n == 64
  | _ => false

/-- The outcome of one access of a request. -/
inductive Applied where
  /-- an error response -/
  | err (e : ErrCode)
  /-- another granule follows -/
  | more (r : Req)
  /-- the reply -/
  | reply (val : W512) (done : Bool) (wts rts : Nat) (line : W512)

/-- The bytes of a line as its line order has them: an invalid sector's are those of its memory. -/
def State.lineBytes (s : State) (k line : Nat) : W512 :=
  let l := s.lineAt k line
  ((List.range 4).filter fun i => l.sector i == .invalid).foldl (fun v i =>
    let a := 64 * line + 16 * i
    insertBits v (128 * i) 128 (match s.windowAt a with
      | some w => s.viewSector w a (s.lineScale w (64 * line) l)
      | none => s.mem.readNat a 16)) l.data

/-- Apply one access of a request to its line, with its lease update; the sectors it needs are valid (04 R55, R56). A
lease that would pass 2^48 - 1 is answered with UNCORR instead (04 R58). -/
def State.applyReq (s : State) (k : Nat) (r : Req) : State × Applied :=
  let line := r.addr / 64
  let s := s.makeRoom k line
  let l := s.lineAt k line
  let whole := l.poison && r.wholeLine
  if l.poison && !whole then (s, .err .poison)
  else
    let p := if whole then (({ l with poison := false }).write 0 64 r.data.toNat, (0 : W512), true) else r.apply l
    let le := if p.2.2 then storeLease l r.pts else loadLease l r.pts r.lease
    if leaseMax < max le.1 le.2 then (s, .err .uncorr)
    else
      let bytes := if r.op == .load then s.lineBytes k line else p.2.1
      let s := s.setLine k line { p.1 with wts := le.1, rts := le.2 }
      let s := if whole then { s with poison := s.poison.filter (· != line) } else s
      let s := s.leaseHigh (max le.1 le.2)
      let vec := r.op == .loadV || r.op == .storeV
      if vec && r.gran < 3 && !whole then (s, .more { r with gran := r.gran + 1, acc := p.2.1 })
      else (s, .reply p.2.1 p.2.2 le.1 le.2 bytes)

/-! ## The error log (02 R28) -/

/-- CLASS of an error-log entry from the class of the queue (02 Table 2-5). -/
def logClass (cls : Nat) : Nat := cls - 1

/-- The entry of a failing request. -/
def Req.entry (r : Req) (e : ErrCode) : ErrEntry :=
  ⟨true, BitVec.ofNat 4 e.num, BitVec.ofNat 3 (logClass r.cls), BitVec.ofNat 46 r.addr, r.job, BitVec.ofNat 2 r.from_.kind,
   BitVec.ofNat 32 r.from_.unit⟩

/-- An executive agent of the hub, for the error log: hub port 0. Log entry 96 (DESIGN CHOICE). -/
def hubRequester : Requester := ⟨2, 0⟩

/-- An engine of a bay, for the error log: its unit number is the bay's. Log entry 96 (DESIGN CHOICE). -/
def engineRequester (bay : Nat) : Requester := ⟨1, bay⟩

/-- A PE or AG node, for the error log; an AG node has no id of its own and takes that of the PE whose box it joins. Log entry 96
(DESIGN CHOICE). -/
def peRequester (key : Nat) : Requester := ⟨0, hostPe key⟩

/-- Answer a request with an error, which the slice logs. -/
def State.errReply (s : State) (k : Nat) (r : Req) (e : ErrCode) : State × Reply :=
  (s.logError k (r.entry e), ⟨r, some e, 0, false, 0, 0, false, 0⟩)

/-- Answer a request with an error, which the slice logs (02 R26). -/
def State.answerError (s : State) (k : Nat) (r : Req) (e : ErrCode) : State :=
  let x := s.errReply k r e
  x.1.sendReply k x.2

/-- Put a request at the head of its class queue again. -/
def Slice.pushFront (c : Slice) (r : Req) : Slice :=
  { c with queues := c.queues.set! (r.cls - 1) (r :: c.queues.toList.getD (r.cls - 1) []) }

/-- Apply a request whose sectors are valid: the reply leaves, or the next granule of a vector access waits at the head of
its queue (04 R55; 11 R183). -/
def State.applyAt (s : State) (k : Nat) (r : Req) : State :=
  match s.applyReq k r with
  | (s, .err e) => s.answerError k r e
  | (s, .more r) => s.onSlice k (·.pushFront r)
  | (s, .reply v d w t b) => s.sendReply k ⟨r, none, v, d, w, t, false, b⟩

/-! ## Fills that land (04 R55) -/

/-- Sectors as a mask. -/
def sectorMask (l : List Nat) : Nat := l.foldl (fun m i => m ||| 2 ^ i) 0
/-- The sectors of a mask. -/
def maskSectors (m : Nat) : List Nat := (List.range 4).filter fun i => m / 2 ^ i % 2 = 1

/-- The fill buffer in which a fill of one of some sectors of a line is pending. -/
def Slice.pending (c : Slice) (line : Nat) (secs : List Nat) : Option Nat :=
  (findIdx (fun f : Fill => f.line == line && secs.any (maskSectors f.sectors).contains) c.fills 0).map Prod.fst

/-- A request that has waited for a fill is applied once the fill has landed (04 R55). -/
def State.applyWaiting (k : Nat) (s : State) (r : Req) : State :=
  match s.accessError r.job r.addr r.n r.op.writes with
  | some e => s.answerError k r e
  | none =>
    let need := r.needs (s.lineAt k (r.addr / 64))
    if need.isEmpty || (s.lineAt k (r.addr / 64)).poison then s.applyAt k r
    else
      match s.fillSectors k (r.addr / 64) need with
      | (s, none) => s.applyAt k r
      | (s, some e) => s.answerError k r e

/-- A fill leaves its buffer. -/
def State.popFill (s : State) (k idx : Nat) : State := s.onSlice k fun c => { c with fills := c.fills.eraseIdx idx }

/-- A fill lands, and the requests that wait for it are applied in arrival order (04 R55). The access that caused a fill that HBM
cannot correct takes UNCORR, and those behind it find the line poisoned (02 R30). -/
def State.landFill (s : State) (k idx : Nat) : State :=
  match (s.slice k).fills[idx]? with
  | none => s
  | some f =>
    match (s.popFill k idx).fillSectors k f.line (maskSectors f.sectors), f.waiting with
    | (s, some .uncorr), r :: rs => rs.foldl (State.applyWaiting k) (s.answerError k r .uncorr)
    | (s, _), rs => rs.foldl (State.applyWaiting k) s

/-! ## Accesses in one step -/

/-- The accesses of a request one after another, in one step: a step of the machine is whole and indivisible (95), and the
accesses that a walk, a fetch, a tile row, a unit or the hub makes within one step are applied in it. A pending fill of a
sector that it touches lands first, since the requests that wait for it came before (04 R55). Log entry 16 (DEDUCED). -/
def State.accessLoop : Nat → State → Nat → Req → State × Reply
  | 0, s, k, r => s.errReply k r .uncorr
  | n + 1, s, k, r =>
    let line := r.addr / 64
    let s := match (s.slice k).pending line r.sectors with
      | some i => s.landFill k i
      | none => s
    match s.checkLine k line r.reads with
    | (s, true) => s.errReply k r .uncorr
    | (s, false) =>
      let need := if (s.lineAt k line).poison then [] else r.needs (s.lineAt k line)
      match (if need.isEmpty then (s, none) else s.fillSectors k line need) with
      | (s, some e) => s.errReply k r e
      | (s, none) =>
        match s.applyReq k r with
        | (s, .err e) => s.errReply k r e
        | (s, .more r) => State.accessLoop n s k r
        | (s, .reply v d w t b) => (s, ⟨r, none, v, d, w, t, false, b⟩)

/-- The job and page of the first page that a write to n bytes touches and that a recording or replay has not yet captured (26
R394). -/
def State.captureNeeded (s : State) (a n : Nat) : Option (Nat × Nat) :=
  ((s.ownerPages a n).find? fun p =>
    let j := s.job (s.pageOwner p).toNat
    j.live && !j.wsDone && j.rr != 0 && (j.captured.find p).isNone).map fun p => ((s.pageOwner p).toNat, p)

/-- The capture area has room for a page. -/
def Job.captRoom (j : Job) : Bool := j.captured.length < j.pkg.cappages

/-- Copy a page to the capture area of its job, as accesses find it (26 R394). -/
def State.capture (s : State) (job page : Nat) : State :=
  let bs := s.coherentBytes (65536 * page) 65536
  s.onJob job fun j => { j with captured := j.captured.set page bs, capWait := j.capWait.filter (· != page) }

/-- The capture area of a job is full: the write is not applied, and the job ends. -/
def State.captureFull (s : State) (job : Nat) : State := s.onJob job fun j => { j with captOff := true }

/-- Apply a request to memory at its slice in one step; the pages that must be captured first are captured in the same step. -/
def State.accessMem : Nat → State → Nat → Req → State × Reply
  | 0, s, k, r => s.accessLoop 5 k r
  | n + 1, s, k, r =>
    match (if r.op.writes then s.captureNeeded r.addr r.n else none) with
    | none => s.accessLoop 5 k r
    | some (j, p) =>
      if (s.job j).captRoom then State.accessMem n (s.capture j p) k r
      else (s.captureFull j, ⟨r, none, 0, false, 0, 0, false, 0⟩)

/-! ## Executive space (02 R18, R21 to R23, R27, R28; 04 R62 to R64) -/

/-- An address-range entry lies wholly in device memory. -/
def ArtEntry.inDevice (e : ArtEntry) : Bool := e.limit.toNat < 2 ^ 34
/-- An address-range entry lies wholly in view space. -/
def ArtEntry.inView (e : ArtEntry) : Bool := 2 ^ 39 ≤ e.base.toNat

/-- Two ranges of lines meet. -/
def ArtEntry.meets (x y : ArtEntry) : Bool := x.base.toNat ≤ y.limit.toNat && y.base.toNat ≤ x.limit.toNat

/-- FAIL of an attempt to enable an entry (02 R22): 0 accepted. -/
def artFail (art : Map ArtEntry) (k : Nat) (e : ArtEntry) : Nat :=
  let whole := 512 * 2 ^ e.stride.toNat
  if e.stride.toNat < 6 || 21 < e.stride.toNat || e.limit.toNat < e.base.toNat then 1
  else if art.any fun x => x.1 != k && x.2.en && x.2.meets e then 2
  else if e.mask == 0 || !(e.inDevice || e.inView) ||
      (e.inDevice && (e.mask != BitVec.allOnes 64 || e.base.toNat * 64 % whole != 0 || (e.limit.toNat + 1) * 64 % whole != 0))
    then 3
  else 0

/-- A write to word 3 of an address-range entry (02 R22, R23). -/
def ArtEntry.control (art : Map ArtEntry) (k : Nat) (e : ArtEntry) (en : Bool) (stride : BitVec 5) : ArtEntry :=
  if e.en then { e with en := en }
  else
    let e := { e with stride := stride }
    if !en then e
    else
      let n := artFail art k e
      { e with en := n == 0, fail := BitVec.ofNat 2 n }

/-- Entry k of the address-range table. -/
def State.artAt (s : State) (k : Nat) : ArtEntry := Map.get ArtEntry.blank s.art k

/-- Word i of an address-range entry (02 Table 2-2). -/
def ArtEntry.word (e : ArtEntry) (i : Nat) : W64 :=
  match i with
  | 0 => e.base.setWidth 64
  | 1 => e.limit.setWidth 64
  | 2 => e.mask
  | _ => packFields 64 [(6, 2, e.fail.toNat), (1, 5, e.stride.toNat), (0, 1, b2n e.en)]

/-- A write to word i of an address-range entry. -/
def State.artWrite (s : State) (k i : Nat) (v : W64) : State :=
  let e := s.artAt k
  let e' := match i with
    | 0 => if e.en then e else { e with base := v.setWidth 40 }
    | 1 => if e.en then e else { e with limit := v.setWidth 40 }
    | 2 => if e.en then e else { e with mask := v }
    | _ => e.control s.art k (bitAt v 0) (BitVec.ofNat 5 (bits v 5 1))
  { s with art := s.art.set k e' }

/-- Two ranges of bytes meet. -/
def bytesMeet (a n b m : Nat) : Bool := a < b + m && b < a + n

/-- FAIL of an attempt to enable a window (04 R64): 0 accepted. -/
def windowFail (ws : Map Window) (k : Nat) (w : Window) : Nat :=
  let others := ws.filter fun e => e.1 != k && e.2.en
  let scn := w.view / 256
  if bits w.vbase 11 0 != 0 || bits w.vlimit 11 0 != 0xFFF || bits w.sbase 5 0 != 0 then 1
  else if !(inView w.vbase.toNat && inView w.vlimit.toNat && w.vbase.toNat ≤ w.vlimit.toNat) ||
      2 ^ 40 < w.sbase.toNat + w.storage || (w.sc && 2 ^ 40 < w.scbase.toNat + scn) then 2
  else if others.any (fun e => bytesMeet w.vbase.toNat w.view e.2.vbase.toNat e.2.view ||
        bytesMeet w.sbase.toNat w.storage e.2.sbase.toNat e.2.storage ||
        (w.sc && bytesMeet w.scbase.toNat scn e.2.sbase.toNat e.2.storage)) ||
      (w.sc && bytesMeet w.scbase.toNat scn w.sbase.toNat w.storage) then 3
  else if w.fmt == 0 && w.sc then 4
  else 0

/-- Format window k. -/
def State.windowK (s : State) (k : Nat) : Window := Map.get Window.blank s.windows k

/-- Word i of a window (04 Table 4-3). -/
def Window.word (w : Window) (i : Nat) : W64 :=
  match i with
  | 0 => w.vbase.setWidth 64
  | 1 => w.vlimit.setWidth 64
  | 2 => w.sbase.setWidth 64
  | _ => packFields 64 [(63, 1, b2n w.en), (61, 2, w.fmt.toNat), (60, 1, b2n w.sc), (57, 3, w.fail.toNat),
      (0, 46, w.scbase.toNat)]

/-- Write back and invalidate the lines of a slice that satisfy a test. -/
def State.flushSlice (s : State) (k : Nat) (q : Nat → Bool) : State :=
  ((s.slice k).lines.keys.filter q).foldl (fun s l => s.evictLine k l) s

/-- Write back the lines of a slice that satisfy a test. -/
def State.cleanSlice (s : State) (k : Nat) (q : Nat → Bool) : State :=
  ((s.slice k).lines.keys.filter q).foldl (fun s l => s.cleanLine k l) s

/-- A line meets a range of bytes; an empty range meets none. -/
def lineMeets (a n line : Nat) : Bool := n != 0 && bytesMeet (64 * line) 64 a n

/-- A write to word 3 of a window: enabling is checked, and disabling first writes back and invalidates the view
(04 R63, R64, R69). An enable that is refused stores FMT, SC and SCBASE of its word all the same. Log entry 97 (DESIGN CHOICE). -/
def State.windowControl (s : State) (k : Nat) (v : W64) : State :=
  let w := s.windowK k
  if w.en then
    (if bitAt v 63 then s
     else
      let s := s.slices.keys.foldl (fun s n => s.flushSlice n (lineMeets w.vbase.toNat w.view)) s
      { s with windows := s.windows.set k { w with en := false } })
  else
    let w := { w with fmt := BitVec.ofNat 2 (bits v 62 61), sc := bitAt v 60, scbase := v.setWidth 46 }
    if bitAt v 63 then
      let n := windowFail s.windows k w
      { s with windows := s.windows.set k { w with en := n == 0, fail := BitVec.ofNat 3 n } }
    else { s with windows := s.windows.set k w }

/-- A write to word i of a window. -/
def State.windowWrite (s : State) (k i : Nat) (v : W64) : State :=
  let w := s.windowK k
  match i with
  | 3 => s.windowControl k v
  | _ =>
    if w.en then s
    else { s with windows := s.windows.set k (match i with
      | 0 => { w with vbase := v.setWidth 46 }
      | 1 => { w with vlimit := v.setWidth 46 }
      | _ => { w with sbase := v.setWidth 46 }) }

/-- MCTL (04 Table 4-2). -/
def Maint.word (m : Maint) : W64 :=
  packFields 64 [(63, 1, b2n m.busy), (62, 1, b2n m.err), (61, 1, b2n m.leasehi), (0, 3, m.mop.toNat)]

/-- Some slice holds a valid line. -/
def State.anyLine (s : State) : Bool := s.slices.any fun k => k.2.lines.any fun l => l.2.valid

/-- A write to MCTL (04 R62): the command starts; a reserved one, and a REBASE over valid lines, is refused. -/
def State.maintStart (s : State) (mop : Nat) : State :=
  let m := s.maint
  if m.busy then s
  else
    let m := { m with mop := BitVec.ofNat 3 mop }
    if mop = 0 then { s with maint := m }
    else if 4 < mop || (mop = 4 && s.anyLine) then { s with maint := { m with err := true } }
    else { s with maint := { m with err := false, busy := true } }

/-- An error-log entry as two words (02 Table 2-5). -/
def ErrEntry.word (e : ErrEntry) (i : Nat) : W64 :=
  if i = 0 then packFields 64 [(63, 1, b2n e.v), (56, 4, e.code.toNat), (53, 3, e.cls.toNat), (0, 46, e.addr.toNat)]
  else packFields 64 [(48, 16, e.job.toNat), (46, 2, e.rkind.toNat), (0, 32, e.rid.toNat)]

/-- An error-log entry of a slice. -/
def Slice.entryAt (c : Slice) (i : Nat) : ErrEntry := c.errlog.toList.getD i ⟨false, 0, 0, 0, 0, 0, 0⟩

/-- V of an error-log entry is written (02 R28). -/
def State.logWrite (s : State) (k i : Nat) (v : Bool) : State :=
  { s with signals := s.signals.filter (· != Signal.errorLog k i) }.onSlice k fun c => { c with errlog := c.errlog.set! i { c.entryAt i with v := v } }

/-- LOST is cleared (02 R28). -/
def State.lostClear (s : State) (k : Nat) : State := s.onSlice k fun c => { c with lost := 0 }

/-- A word of the control block of a slice; an offset that no table names reads as zero. Log entry 92 (DESIGN CHOICE). -/
def State.ctlRead (s : State) (k o : Nat) : W64 :=
  let c := s.slice k
  if o < 0x100 then (c.entryAt (o / 16)).word (o / 8 % 2)
  else if o = 0x100 then BitVec.ofNat 64 c.lost
  else if o = 0x108 then BitVec.ofNat 64 c.corrHbm
  else if o = 0x110 then BitVec.ofNat 64 c.corrSram
  else if inRange o 0x200 0x400 then (s.windowK ((o - 0x200) / 32)).word (o / 8 % 4)
  else if o = 0x800 then s.maint.maddr.setWidth 64
  else if o = 0x808 then s.maint.mlen
  else if o = 0x810 then s.maint.word
  else 0

/-- A write to a word of the control block of a slice; at an offset that no table names it has no effect (log entry 92 (DESIGN
CHOICE)). A write to MADDR or MLEN while a command runs changes the range that the command ends with. Log entry 98 (DESIGN CHOICE). -/
def State.ctlWrite (s : State) (k o : Nat) (v : W64) : State :=
  if o < 0x100 then (if o / 8 % 2 = 0 then s.logWrite k (o / 16) (bitAt v 63) else s)
  else if o = 0x100 then (if v == 0 then s.lostClear k else s)
  else if inRange o 0x200 0x400 then s.windowWrite ((o - 0x200) / 32) (o / 8 % 4) v
  else if o = 0x800 then { s with maint := { s.maint with maddr := v.setWidth 46 } }
  else if o = 0x808 then { s with maint := { s.maint with mlen := v } }
  else if o = 0x810 then s.maintStart (bits v 2 0)
  else s

/-- Set the owner tag of a page (02 R27). -/
def State.ownerWrite (s : State) (page : Nat) (tag : BitVec 16) : State :=
  { s with owner := if tag == 0 then s.owner.drop page else s.owner.set page tag }

/-- The eight bytes of executive space at a multiple of 8, as an executive agent reads them (02 Table 2-1). -/
def State.execRead (s : State) (a : Nat) : W64 :=
  if inRom a then BitVec.ofNat 64 (leNat ((List.range 8).map fun i => Config.bootRom (a % 0x10000 + i)))
  else if inArt a then (s.artAt ((a - 0x100010000000) / 32)).word (a / 8 % 4)
  else if inCtl a then s.ctlRead ((a - 0x100100000000) / 0x10000) (a % 0x10000)
  else if inOwner a then
    let p := (a - 0x100200000000) / 2
    packFields 64 ((List.range 4).map fun i => (16 * i, 16, (Map.get 0 s.owner (p + i)).toNat))
  else 0

/-- A write of eight bytes of executive space. Log entry 7 (DESIGN CHOICE). -/
def State.execWord (s : State) (a : Nat) (v : W64) : State :=
  if inArt a then s.artWrite ((a - 0x100010000000) / 32) (a / 8 % 4) v
  else if inCtl a then s.ctlWrite ((a - 0x100100000000) / 0x10000) (a % 0x10000) v
  else if inOwner a then
    let p := (a - 0x100200000000) / 2
    (List.range 4).foldl (fun s i => s.ownerWrite (p + i) (BitVec.ofNat 16 (bits v (16 * i + 15) (16 * i)))) s
  else s

/-- A write of n bytes of executive space within one line, word by word: a narrow one writes its word with the other bytes as they
read, so that one to MCTL starts the command that MOP then names. Log entry 98 (DESIGN CHOICE). -/
def State.execWrite (s : State) (a n : Nat) (d : W512) : State :=
  if n < 8 then
    let o := a % 8
    s.execWord (a - o) (insertBits (s.execRead (a - o)) (8 * o) (8 * n) (lowBytes d n))
  else (List.range (n / 8)).foldl (fun s i => s.execWord (a + 8 * i) (BitVec.ofNat 64 (bytesAt d (8 * i) 8))) s

/-- A read of n bytes of executive space within one line. -/
def State.execBytes (s : State) (a n : Nat) : W512 :=
  if n < 8 then BitVec.ofNat 512 ((s.execRead (a - a % 8)).toNat / 2 ^ (8 * (a % 8)) % 2 ^ (8 * n))
  else ofLanes 64 ((List.range (n / 8)).map fun i => (s.execRead (a + 8 * i)).toNat)

/-- A request to executive space: it holds no leases, so the reply leaves the pts as it is. -/
def State.accessExec (s : State) (r : Req) : State × Reply :=
  let old := s.execBytes r.addr r.n
  let s := match r.op with
    | .load | .loadV => s
    | .store | .storeV => s.execWrite r.addr r.n r.data
    | .atom op => s.execWrite r.addr r.n (BitVec.ofNat 512 (atomNew op r.n (lowBytes old r.n) (lowBytes r.data r.n)))
    | .cas => if lowBytes old r.n = lowBytes r.data r.n then s.execWrite r.addr r.n r.data2 else s
  (s, ⟨r, none, old, false, 0, 0, false, 0⟩)

/-- Apply a request at its slice in one step. Log entry 16 (DEDUCED). -/
def State.access (s : State) (r : Req) : State × Reply :=
  let k := s.homeOf r.addr
  match s.accessError r.job r.addr r.n r.op.writes with
  | some e => s.errReply k r e
  | none => if inExec r.addr then s.accessExec r else s.accessMem 8 k r

/-- The lease length that a request carries (04 R56). -/
def leaseLength : Nat := 64

/-- A request with nothing in it. -/
def Req.blank : Req :=
  { rid := 0, port := 0, op := .load, addr := 0, n := 0, data := 0, data2 := 0, pts := 0, renew := false, job := 0, cls := 0,
    pe := 0, from_ := hubRequester, origin := .load 0 .x64, gran := 0, acc := 0, regs := [], lease := leaseLength, via := [] }

/-- Read up to 64 bytes that lie in one line, in one step. Log entry 16 (DEDUCED). -/
def State.readNow (s : State) (job : BitVec 16) (cls : Nat) (w : Requester) (pts a n : Nat) : State × Reply :=
  s.access { Req.blank with op := .load, addr := a, n := n, job := job, cls := cls, from_ := w, pts := pts }

/-- Write up to 64 bytes that lie in one line, in one step. Log entry 16 (DEDUCED). -/
def State.writeNow (s : State) (job : BitVec 16) (cls : Nat) (w : Requester) (pts a n : Nat) (v : W512) : State × Reply :=
  s.access { Req.blank with op := .store, addr := a, n := n, data := v, job := job, cls := cls, from_ := w, pts := pts }

/-- A soft error strikes a part of a line that a slice holds (04 R70). -/
def State.strikeLine (s : State) (k line part : Nat) (e : SoftError) : State :=
  match (s.slice k).lines.find line with
  | some l => if e == .clean then s else s.setLine k line { l with errs := (part, e) :: l.errs }
  | none => s

/-- A soft error strikes a line of HBM (02 R29). -/
def State.strikeHbm (s : State) (line : Nat) (e : SoftError) : State :=
  if e == .clean then s else { s with hbmErr := s.hbmErr.set line e }

end Sys2Proof.Machine
end

