-- ==== Sys2Proof/Machine/Translate.lean ====
section
/-! DEFINITION. Translate: the walk of the translation tables (05 R73 to R78), the caches of the translators (05 R79),
withheld translations (05 R80, R85), and XLATE, PAADD and PAOFF (05 R77, R84). -/

namespace Sys2Proof.Machine

/-- The fault codes of a translation (05 Table 5-3). -/
inductive XlCode where
  | notmapped
  | nowrite
  | noncanon
  | badpte
  | walkerr
  | refused
  | noread
  deriving DecidableEq, Repr

/-- The number of a code. -/
def XlCode.num : XlCode → Nat
  | .notmapped => 1
  | .nowrite => 2
  | .noncanon => 3
  | .badpte => 4
  | .walkerr => 5
  | .refused => 6
  | .noread => 7

/-- The permission that the request for a serviceable fault names (05 R80). -/
def XlCode.need : XlCode → Option Need
  | .notmapped => some .none
  | .nowrite => some .write
  | .noread => some .read
  | _ => none

/-- A valid entry is malformed at a level (05 R75). -/
def malformed (lvl : Nat) (e : W64) : Bool :=
  let l := bitAt e 2
  bits e 62 46 != 0 || bits e 15 3 != 0 || (l && lvl == 1) || (!l && lvl == 3) ||
  (l && lvl == 2 && bits e 28 16 != 0) || (l && bitAt e 1 && !bitAt e 0)

/-- A walk read of a requester: 8 bytes in line order, with a lease of 0, which leaves the tags of the line as they are; an error
response, or an address outside device memory, fails it (05 R76). -/
def State.walkRead (s : State) (w : Requester) (a : Nat) : State × Option W64 :=
  if !inDevice a then (s, none)
  else
    let r := s.access { Req.blank with op := .load, addr := a, n := 8, job := execTag, cls := 5, from_ := w, lease := 0 }
    (r.1, if r.2.err.isSome then none else some (BitVec.ofNat 64 r.2.val.toNat))

/-- What a walk finds: a leaf, with the size of its page, or a code. -/
inductive Walk where
  | leaf (e : W64) (big : Bool)
  | fail (c : XlCode)
  deriving DecidableEq, Repr

/-- Walk the levels from `lvl` on, under the table at page `t` (05 R78). -/
def State.walkFrom : Nat → State → Requester → Nat → Nat → W64 → State × Walk
  | 0, s, _, _, _, _ => (s, .fail .badpte)
  | n + 1, s, w, lvl, t, va =>
    let idx := bits va (67 - 13 * lvl) (55 - 13 * lvl)
    match s.walkRead w (t * 65536 + 8 * idx) with
    | (s, none) => (s, .fail .walkerr)
    | (s, some e) =>
      if !bitAt e 63 then (s, .fail .notmapped)
      else if malformed lvl e then (s, .fail .badpte)
      else if bitAt e 2 then (s, .leaf e (lvl == 2))
      else State.walkFrom n s w (lvl + 1) (bits e 45 16) va

/-- A walk from the first level (05 R78). -/
def State.walk (s : State) (w : Requester) (xroot va : W64) : State × Walk :=
  if !canonical va then (s, .fail .noncanon)
  else if !bitAt xroot 63 then (s, .fail .notmapped)
  else s.walkFrom 3 w 1 (bits xroot 45 16) va

/-- The virtual page of an address: bits [54:16]. -/
def vpageOf (va : W64) : Nat := bits va 54 16

/-- A translation that a translator has kept covers a page (05 R79). -/
def TlbEntry.covers (e : TlbEntry) (who : Translator) (job vpage : Nat) : Bool :=
  e.who == who && e.job == job && (if e.big then e.vpage / 8192 == vpage / 8192 else e.vpage == vpage)

/-- The bay whose counters count the work of a translator (26 R398); the units and the hub belong to none. -/
def translatorBay : Translator → Option Nat
  | .pe a => some (if agBase ≤ a && a < agBase + 256 then a - agBase else if a < agBase then bayOf a else bayOf (a - 256))
  | .engine b => some b
  | .unit _ _ _ => none
  | .hub => none

/-- A walk is counted (26 Table 26-7). -/
def State.tallyWalk (s : State) (who : Translator) : State :=
  match translatorBay who with
  | some b => s.tally b 0x1A 1
  | none => s

/-- The number of a coprocessor unit in the error log: its die, the code of its type, and its number among the units of the type
on the die. Log entry 96 (DESIGN CHOICE). -/
def unitNumber (die code n : Nat) : Nat := 256 * die + 16 * code + n

/-- The requester of the walk reads of a translator (02 R28). -/
def State.walker (s : State) : Translator → Requester
  | .pe a => if agBase ≤ a && a < agBase + 256 then ⟨0, (s.region (a - agBase)).rect.home⟩
    else peRequester (if a < agBase then a else a - 256)
  | .engine b => engineRequester b
  | .unit d c n => ⟨1, unitNumber d c n⟩
  | .hub => hubRequester

/-- The code with which a demand of a permission fails at a leaf (05 R78, R85). -/
def demand (read write : Bool) (e : W64) : Option XlCode :=
  if write && !bitAt e 1 then some .nowrite
  else if read && !bitAt e 0 then some .noread
  else none

/-- Keep a completed translation, where `tlbKeep` says so (05 R79). -/
def State.keepLeaf (s : State) (who : Translator) (job vpage : Nat) (big : Bool) (e : W64) : State :=
  if s.tlbKeep then { s with tlb := ⟨who, job, vpage, big, e⟩ :: s.tlb.filter fun x => !x.covers who job vpage } else s

/-- Translate at a translator with a demand of permissions: by a translation it has kept, or by a walk, which it keeps; after the
executive has resumed the page (`fresh`) it walks from the first level (05 R80). A failed walk, one that lacks the permission
included, is never kept (05 R79). -/
def State.translate (s : State) (who : Translator) (job : Nat) (xroot va : W64) (fresh read write : Bool) : State × Walk :=
  if !canonical va then (s, .fail .noncanon)
  else
    match (if fresh then none else s.tlb.find? fun e => e.covers who job (vpageOf va)) with
    | some x => (s, match demand read write x.entry with
      | some c => .fail c
      | none => .leaf x.entry x.big)
    | none =>
      match (s.tallyWalk who).walk (s.walker who) xroot va with
      | (s, .leaf e big) =>
        (match demand read write e with
          | some c => (s, .fail c)
          | none => (s.keepLeaf who job (vpageOf va) big e, .leaf e big))
      | r => r

/-- The physical address that a leaf gives (05 R78). -/
def leafAddress (e : W64) (big : Bool) (va : W64) : Nat :=
  if big then bits e 45 29 * 2 ^ 29 + bits va 28 0 else bits e 45 16 * 2 ^ 16 + bits va 15 0

/-- A built-in translator demands the permission of the access that it serves (05 R85). -/
def State.builtin (s : State) (who : Translator) (job : Nat) (xroot va : W64) (fresh write : Bool) : State × Except XlCode Nat :=
  match s.translate who job xroot va fresh (!write) write with
  | (s, .fail c) => (s, .error c)
  | (s, .leaf e big) => (s, .ok (leafAddress e big va))

/-! ## Withheld translations (05 R80) -/

/-- The withheld translation of a waiter for a page. -/
def State.withheldOf (s : State) (w : Waiter) (vpage : Nat) : Option Withheld :=
  s.withheld.find? fun x => x.waiter == w && x.vpage == vpage

/-- Forget the withheld translation of a waiter for a page. -/
def State.unwithhold (s : State) (w : Waiter) (vpage : Nat) : State :=
  { s with withheld := s.withheld.filter fun x => !(x.waiter == w && x.vpage == vpage) }

/-- The bay of a waiter (26 R398). -/
def waiterBay (region : Nat) : Waiter → Nat
  | .slot a _ => agentBay a
  | .stream b _ => b
  | .matrix p => bayOf p
  | .fetch r => r
  | .hubEntry _ | .unit _ _ _ => region

/-- Withhold a translation and send one request to the executive (05 R80). -/
def State.withhold (s : State) (w : Waiter) (region job vpage : Nat) (need : Need) : State :=
  let s := s.unwithhold w vpage
  let s : State := { s with withheld := s.withheld ++ [⟨w, region, job, vpage, need, s.cycle, none⟩] }
  if region == hubRegion then s else s.tally (waiterBay region w) 0x1B 1

/-- Where a translation of a waiter stands: free to walk, resumed by the executive, waiting for it, or refused. -/
inductive Hold where
  | free
  | resumed
  | waiting
  | refused
  deriving DecidableEq, Repr

/-- The hold of a waiter on a page. -/
def State.holdOf (s : State) (w : Waiter) (vpage : Nat) : Hold :=
  match s.withheldOf w vpage with
  | none => .free
  | some x =>
    match x.answer with
    | none => .waiting
    | some true => .resumed
    | some false => .refused

/-- A built-in translation on behalf of a waiter: an address; a code that cannot be serviced; or nothing while the
executive has not answered (05 R80, R85). -/
def State.fetchAddr (s : State) (w : Waiter) (who : Translator) (region job : Nat) (xroot va : W64) (write : Bool) :
    State × Option (Except XlCode Nat) :=
  match s.holdOf w (vpageOf va) with
  | .waiting => (s, none)
  | .refused => (s.unwithhold w (vpageOf va), some (.error .refused))
  | h =>
    match (s.unwithhold w (vpageOf va)).builtin who job xroot va (h == .resumed) write with
    | (s, .ok a) => (s, some (.ok a))
    | (s, .error c) =>
      match c.need with
      | some n => (s.withhold w region job (vpageOf va) n, none)
      | none => (s, some (.error c))

/-! ## Instructions -/

/-- The payload of a page capability (05 R77). -/
def capPayload (e : W64) (big : Bool) (va : W64) : W64 :=
  packFields 64 [(48, 1, b2n big), (47, 1, b2n (bitAt e 1)), (46, 1, b2n (bitAt e 0)), (0, 46, leafAddress e big va)]

/-- A page capability. -/
def capToken (w : W64) : Value := ⟨.data, false, true, w.setWidth 512⟩

/-- A fault token (05 R77). -/
def faultToken (c : XlCode) (va : W64) : W64 :=
  packFields 64 [(63, 1, 1), (55, 8, c.num), (0, 55, bits va 54 0)]

/-- The fault of a translation at an instruction: its code and the address. -/
def xlTrap (c : XlCode) (va : W64) : Trap := ⟨.xlate, BitVec.ofNat 64 c.num, va⟩

/-- A translation of XLATE that fails: a fault token with NF, a withheld result, or a fault (05 R78). -/
def xlateFail (s : State) (ts : List Tgt) (w : Waiter) (nf : Bool) (va : W64) (c : XlCode) : Res :=
  if nf then .done s (toEach ts (.data (faultToken c va)))
  else
    match c.need with
    | some n => .wait (s.withhold w s.cur.region s.cur.job (vpageOf va) n)
    | none => .trapIn s (xlTrap c va)

/-- XLATE (05 R78). -/
def execXlate (p : Pm) (t u : Tgt) (wr nf : Bool) (s : State) : Host.Outcome State Fault Refusal :=
  issue p 1 [t, u] s fun
    | [a] =>
      let w := Waiter.slot s.cur.agent s.cur.turn
      match s.holdOf w (vpageOf a.lo) with
      | .waiting => .wait s
      | .refused => .trap (xlTrap .refused a.lo)
      | h =>
        match (s.unwithhold w (vpageOf a.lo)).translate (.pe (agentNumber s.cur.agent)) s.cur.job (s.region s.cur.region).xroot
            a.lo (h == .resumed) false wr with
        | (s, .fail c) => xlateFail s [t, u] w nf a.lo c
        | (s, .leaf e big) => .done s (toEach [t, u] (capToken (capPayload e big a.lo)))
    | _ => .done s []

/-- Step a capability by an exact offset (05 R84). -/
def capStep (v : Value) (off : Int) : Value :=
  let c := v.lo
  if !v.cap && bitAt c 63 then .data c
  else
    let base : Int := bits c 45 0
    let n := base + off
    let inpage := 0 ≤ n && n / capPage c == base / capPage c
    ⟨.data, false, v.cap && inpage,
      ((place 64 46 18 (bits c 63 46) : W64) ||| (BitVec.ofInt 46 n).setWidth 64).setWidth 512⟩

/-- PAADD (05 R84): the offset is op1, signed. -/
def execPaadd (p : Pm) (t u : Tgt) (s : State) : Host.Outcome State Fault Refusal :=
  issue p 2 [t, u] s fun
    | [a, b] => .done s (toEach [t, u] (capStep a b.lo.toInt))
    | _ => .done s []

/-- PAOFF (05 R84): the offset is the immediate. -/
def execPaoff (p : Pm) (t : Tgt) (imm : BitVec 14) (s : State) : Host.Outcome State Fault Refusal :=
  issue p 1 [t] s fun
    | [a] => .done s [(t, capStep a imm.toInt)]
    | _ => .done s []

end Sys2Proof.Machine
end

