-- ==== Sys2Proof/Machine/Ports.lean ====
section
/-! DEFINITION. Ports: the memory side of an agent: requests in program order, the packets that carry them, and what a
reply does (11 R178 to R184; 09 R141; 16 R249 to R254). -/

namespace Sys2Proof.Machine

/-! ## Sending requests -/

/-- The requester that an agent of a region is: the PE on which it runs (02 Table 2-5). Log entry 96 (DESIGN CHOICE). -/
def State.requesterOf (s : State) (a : Agent) : Requester :=
  match agentKey a, a with
  | some k, _ => peRequester k
  | none, .ctl r => peRequester (s.region r).rect.home
  | none, _ => hubRequester

/-- Send a request toward its slice. -/
def State.sendReq (s : State) (r : Req) : State := s.sendTo (s.homeOf r.addr) { r with via := [] }

/-- Take a request into a port: it gets the next number, and waits for its turn. -/
def Port.push (p : Port) (r : Req) : Port := { p with outbox := p.outbox ++ [r] }

/-- Send from a port while it may have another request in flight; a request carries the port's pts (11 R178). A write
waits for an access of its port to the same line, so that writes to one byte take effect in order (06 R99). -/
def State.pump : Nat → State → Port → State × Port
  | 0, s, p => (s, p)
  | n + 1, s, p =>
    match p.outbox with
    | [] => (s, p)
    | r :: rs =>
      if r.op.writes && p.flight.any fun q => q.addr / 64 == r.addr / 64 then (s, p)
      else
      let r := { r with pts := p.pts, port := p.pid }
      State.pump n (s.sendReq r) { p with outbox := rs, flight := p.flight ++ [r] }

/-- How many requests a port may still send: one at a time for a block, whose accesses each carry the pts that the
access before it left (11 R178), and eight for a copy stream (08 R124; `State.streamFull` bounds the ports of a node). -/
def Port.room (p : Port) : Nat :=
  match p.who with
  | .blk _ => 1 - p.flight.length
  | .copy _ _ => 8 - p.flight.length

/-- Send what a port may send. -/
def State.pumpPort (s : State) (p : Port) : State × Port := s.pump p.room p

/-- Send what the port of the block whose turn it is may send. -/
def State.pumpCur (s : State) : State :=
  let r := s.pumpPort s.cur.port
  { r.1 with cur := { r.1.cur with port := r.2 } }

/-- A request of the block whose turn it is enters its port. -/
def State.request (s : State) (r : Req) : State :=
  let r := { r with rid := s.nextId }
  ({ s with nextId := s.nextId + 1, cur := { s.cur with port := s.cur.port.push r } }).pumpCur

/-! ## Finding a port -/

/-- Where a port is. -/
inductive PortAt where
  | cur
  | tail
  | stream (bay n : Nat)
  deriving DecidableEq, Repr

/-- Give a block the turn: the block whose turn it was goes behind the others. -/
def State.focus (s : State) (q : Frame → Bool) : State :=
  if q s.cur then s
  else
    match s.parked.find? q with
    | some f => { s with cur := f, parked := (s.parked.filter fun g => !q g) ++ (if s.cur.live then [s.cur] else []) }
    | none => s

/-- The stream whose port has a number. -/
def State.streamOfPort (s : State) (pid : Nat) : Option (Nat × Nat × Stream) :=
  s.bays.findSome? fun b =>
    (b.2.streams.find? fun e => e.2.live && e.2.port.pid == pid).map fun e => (b.1, e.1, e.2)

/-- The port with a number, and where it is, with its block given the turn. -/
def State.findPort (s : State) (pid : Nat) : State × Option (PortAt × Port) :=
  let s := s.focus fun f => f.live && f.port.pid == pid
  if s.cur.live && s.cur.port.pid == pid then (s, some (.cur, s.cur.port))
  else
    match s.tails.find? fun p => p.pid == pid with
    | some p => (s, some (.tail, p))
    | none =>
      match s.streamOfPort pid with
      | some (b, n, st) => (s, some (.stream b n, st.port))
      | none => (s, none)

/-- Put a port back. A port of a committed block with nothing outstanding is forgotten. -/
def State.putPort (s : State) (at_ : PortAt) (p : Port) : State :=
  match at_ with
  | .cur => { s with cur := { s.cur with port := p } }
  | .tail =>
    if p.outbox.isEmpty && p.flight.isEmpty then { s with tails := s.tails.filter fun x => x.pid != p.pid }
    else { s with tails := s.tails.map fun x => if x.pid == p.pid then p else x }
  | .stream b n => s.onStream b n fun st => { st with port := p }

/-- The port of a committed block, or of a stream that is gone, stays until everything has returned. -/
def State.keepPort (s : State) (p : Port) : State :=
  if p.outbox.isEmpty && p.flight.isEmpty then s else { s with tails := s.tails ++ [p] }

/-! ## What stays outstanding (11 R188) -/

/-- The ports of the machine. -/
def State.ports (s : State) : List Port :=
  (if s.cur.live then [s.cur.port] else []) ++ (s.parked.map (·.port)) ++ s.tails ++
  s.bays.flatMap fun b => (b.2.streams.filter fun e => e.2.live).map fun e => e.2.port

/-- A port still has a write that entered it before a number. -/
def Port.writesBefore (p : Port) (upto : Nat) : Bool :=
  (p.outbox ++ p.flight).any fun r => r.op.writes && r.rid < upto

/-- Every access that a port took before a number has returned its tags: what an agent forked at that number waits for (06 R99;
16 R251, R254). -/
def State.portQuiet (s : State) (pid upto : Nat) : Bool :=
  s.ports.all fun p => p.pid != pid || (p.outbox ++ p.flight).all fun r => upto ≤ r.rid

/-- Two agents are firings of one node, or one control thread. -/
def sameAgent (a b : Agent) : Bool :=
  match agentKey a, agentKey b with
  | some x, some y => x == y
  | none, none => a == b
  | _, _ => false

/-! ## Replies -/

/-- The information of MEMERR (11 Table 11-2): the slice's error code, and the address. -/
def memTrap (e : ErrCode) (r : Req) : Trap := ⟨.memerr, BitVec.ofNat 64 e.num, BitVec.ofNat 64 r.addr⟩

/-- The pts of an agent after a reply (11 Table 11-3): the wts of a write is at least the pts that it carried, and an agent
whose pts has risen since keeps the greater. -/
def ptsAfter (pts : Nat) (r : Reply) : Nat := max pts r.wts

/-- The value of a load: the bytes read, with the bytes of the block's own lower stores over them (11 R182). -/
def Req.overlay (r : Req) (v : W512) : W512 := (v &&& ~~~r.data2) ||| r.data

/-- The size that a request's slot names. -/
def Origin.sz : Origin → Sz
  | .load _ z => z
  | .store _ z => z
  | .copy _ _ => .x64

/-- The slot of a request. -/
def Origin.slot : Origin → Nat
  | .load k _ => k
  | .store k _ => k
  | .copy _ _ => 0

/-! ## Remote-load streams (08 R124) -/

/-- A request of a stream of a node: a load, atomic or compare-and-swap of one slot; the loads of an AG node form its gather stream. -/
def Req.remoteLoad (a : Agent) (slot : Nat) (r : Req) : Bool :=
  match a with
  | .ag _ _ => !r.op.writes
  | _ => r.origin.slot == slot && r.op != .store && r.op != .storeV

/-- Eight other ports of a node hold requests of one stream. A port of a block has one request outstanding at a time, so with these the
stream has eight. A control thread has one port for its whole life. -/
def State.streamFull (s : State) (a : Agent) (pid : Nat) (q : Req → Bool) : Bool :=
  (agentKey a).isSome &&
  decide (8 ≤ (s.ports.filter fun p => p.pid != pid && (match p.who with
    | .blk b => sameAgent b a
    | .copy _ _ => false) && (p.outbox ++ p.flight).any q).length)

/-- The value that an access returns to registers or targets (11 R176, R179, R184). -/
def Req.value (r : Req) (v : W512) : Value :=
  match r.op with
  | .loadV => .wideData (r.overlay v)
  | .load => szExtend r.origin.sz (r.overlay v)
  | _ => szExtend r.origin.sz v

/-- The kind of block of an agent, for the width of its registers. -/
def agentKind : Agent → BlockKind
  | .ctl _ => .control
  | .rule _ => .rule
  | _ => .node

/-- Fill registers with the value of a deferred write that has returned (09 R141). -/
def State.fillRegs (a : Agent) (v : Value) (ts : Nat) : State → List Nat → State
  | s, [] => s
  | s, i :: is => State.fillRegs a v ts (s.putReg a i (Reg.ofValue (v.forReg (agentKind a) i) ts)) is

/-- Registers of a deferred write that failed record its fault (09 R141). -/
def State.failRegs (a : Agent) (t : Trap) : State → List Nat → State
  | s, [] => s
  | s, i :: is => State.failRegs a t (s.putReg a i ⟨.failed t, 0, false, 0, false⟩) is

/-- The agent begins no further firing or block (11 R181). A control thread is stopped by the record itself. -/
def State.stopAgent (s : State) (a : Agent) : State :=
  match agentKey a with
  | some k => s.onPe k fun p => { p with stopped := true }
  | none => s

/-- The record of a fault of an access of an agent (09 R141; 11 R181). -/
def State.portRecord (s : State) (p : Port) (a : Agent) (t : Trap) (sev slot : Nat) : TrapRecord :=
  s.record { Frame.blank with agent := a, job := p.job, time := p.time, addr := p.addr, port := p } t sev slot

/-- The number of an agent in a replay log: its region's entry and its place, which every pass shares (26 R393). -/
def State.whoIs (s : State) (rid : Nat) (a : Agent) : Nat :=
  let r := s.region rid
  32768 * r.entry + match agentKey a with
    | none => 32767
    | some k => r.placeOf k

/-- An entry joins the log, numbered among those of its kind and maker (26 R393). -/
def Job.record (j : Job) (kind who : Nat) (t : LTime) (data : List Byte) : Job :=
  { j with log := j.log ++ [⟨kind, who, (j.log.filter fun e => e.kind == kind && e.who == who).length, t, data⟩] }

/-- A replay pass takes the next entry of a kind and maker from the log; without one, the pass has taken another path
(26 Table 26-4). -/
def Job.draw (j : Job) (entry : Nat) (q : LogEntry → Bool) : Job × Option LogEntry :=
  match findIdx q j.left 0 with
  | some (i, e) => ({ j with left := j.left.eraseIdx i }, some e)
  | none => ({ j with pathDiv := entry :: j.pathDiv }, none)

/-- The old value of an atomic is logged in pass 0 and compared in a replay pass, where the submission asked for it
(26 R393, R397). -/
def State.logAtomic (s : State) (p : Port) (a : Agent) (r : Req) (v : W512) : State :=
  let j := s.job p.job
  let isAtom := match r.op with
    | .atom _ | .cas => true
    | _ => false
  if !isAtom || !j.logAtom then s
  else
    let who := s.whoIs p.region a
    let data := leBytes r.n (lowBytes v r.n)
    if j.rr = 1 then s.onJob p.job fun j => j.record 2 who p.time data
    else if j.rr = 2 then
      s.onJob p.job fun j =>
        match j.draw (who / 32768) fun e => e.kind == 2 && e.who == who with
        | (j, some e) => if e.data != data then { j with atomDiv := who / 32768 :: j.atomDiv } else j
        | (j, none) => j
    else s

/-- Replace the deferred write of a register in a block that has not committed by what its load has returned. -/
def Frame.land (f : Frame) (i : Nat) (a : Act) : Frame :=
  { f with acts := f.acts.map fun x => if x.2 == .defer i then (x.1, a) else x }

/-- Land the deferred registers of a block that still runs. -/
def Frame.landAll (f : Frame) (mk : Nat → Act) : List Nat → Frame
  | [] => f
  | i :: is => (f.land i (mk i)).landAll mk is

end Sys2Proof.Machine
end

