-- ==== Sys2Proof/Machine/LocalMem.lean ====
section
/-! DEFINITION. LocalMem: local pages and their backing (07 R105 to R107), full/empty bits (07 R108, R109), the
forwarding table (07 R111) and uncorrectable granules (07 R112). -/

namespace Sys2Proof.Machine

/-- The local page of an address. -/
def pageOf (a : Nat) : Nat := a / 4096
/-- The granule of an address. -/
def granOf (a : Nat) : Nat := a / 16
/-- The granules of [a, a + n). -/
def gransOf (a n : Nat) : List Nat := (List.range ((a + n + 15) / 16 - a / 16)).map (· + a / 16)

/-- A frame that holds nothing. -/
def LptEntry.blank : LptEntry := ⟨0, 0, 0, false, false, false, false⟩
/-- Entry n of the local page table. -/
def Pe.lptAt (p : Pe) (n : Nat) : LptEntry := Map.get LptEntry.blank p.lpt n
/-- PPN of SYS_LBACK. -/
def lbackPpn (w : W64) : Nat := bits w 45 16
/-- GEN of SYS_LBACK. -/
def lbackGen (w : W64) : Nat := bits w 15 8

/-- The frame holds the running context's content (07 R107). -/
def Pe.present (p : Pe) (job n : Nat) : Bool :=
  let e := p.lptAt n
  e.p && e.job.toNat == job && e.gen.toNat == lbackGen p.lback && e.bppn.toNat == lbackPpn p.lback

/-- Pin a frame that an access finds present. -/
def Pe.pin (p : Pe) (n : Nat) : Pe := { p with lpt := p.lpt.set n { p.lptAt n with pin := true } }
/-- A write sets D. -/
def Pe.dirty (p : Pe) (n : Nat) : Pe := { p with lpt := p.lpt.set n { p.lptAt n with pin := true, d := true } }
/-- A user joins those who wait for a page; the first starts its refill. -/
def addUser (page : Nat) (us : List PageUser) : List Refill → List Refill
  | [] => [⟨page, us⟩]
  | r :: rs => if r.page = page then { r with users := (r.users ++ us).eraseDups } :: rs else r :: addUser page us rs

/-- Claim the frame of a page for some users: its refill starts, unless it is under way (07 R107). A store that enters the
forwarding table waits for nothing. -/
def Pe.claim (us : List PageUser) (p : Pe) (page : Nat) : Pe := { p with refills := addUser page us p.refills }

/-- A claim of every page that is not there. -/
def Pe.claimAll (p : Pe) (job : Nat) (us : List PageUser) (pages : List Nat) : Pe :=
  (pages.filter fun n => !p.present job n).foldl (Pe.claim us) p

/-- The failure of a refill that a user has waited for and not yet met: the slice's error code (07 R107). -/
def Pe.refillBad (p : Pe) (u : PageUser) (pages : List Nat) : Option Nat :=
  (p.refillErr.find? fun e => pages.contains e.page && e.users.contains u).map (·.code)

/-- The pages of [a, a + n). -/
def pagesOf (a n : Nat) : List Nat := (List.range ((a + n + 4095) / 4096 - a / 4096)).map (· + a / 4096)

/-- LMREFILL, with the slice's error code and the address (11 Table 11-2). -/
def refillTrap (code a : Nat) : Trap := ⟨.lmrefill, BitVec.ofNat 64 code, BitVec.ofNat 64 a⟩

/-- What a user finds of the pages of [a, a + n): they are there, and pinned; a refill that it has waited for has failed; or they are
claimed (07 R107). -/
inductive Pages where
  | here (p : Pe)
  | failed (code : Nat)
  | later (p : Pe)

/-- Look for pages on behalf of a user (07 R107). -/
def Pe.seek (p : Pe) (job : Nat) (u : PageUser) (pages : List Nat) : Pages :=
  match p.refillBad u pages with
  | some c => .failed c
  | none => if pages.all (p.present job) then .here (pages.foldl Pe.pin p) else .later (p.claimAll job [u] pages)

/-- A granule is full. -/
def Pe.isFull (p : Pe) (g : Nat) : Bool := p.full.contains g
/-- Insert into a list that rises strictly. -/
def insertNat (x : Nat) : List Nat → List Nat
  | [] => [x]
  | y :: ys => if x < y then x :: y :: ys else if x = y then y :: ys else y :: insertNat x ys
/-- Set a granule's full/empty bit. -/
def Pe.setFull (p : Pe) (g : Nat) (b : Bool) : Pe :=
  { p with full := if b then insertNat g p.full else p.full.filter (· != g) }

/-- The first uncorrectable granule that [a, a + n) touches (07 R112). -/
def Pe.badGran (p : Pe) (a n : Nat) : Option Nat := (gransOf a n).find? fun g => p.softBad.contains g

/-- LMUNCORR, with the local address of the granule (11 Table 11-2). -/
def uncorrTrap (g : Nat) : Trap := ⟨.lmuncorr, BitVec.ofNat 64 (16 * g), 0⟩

/-- Write bytes of local memory: the page is dirty, and a granule written whole is no longer bad (07 R107, R112). -/
def Pe.lwrite (p : Pe) (a : Nat) (bs : List Byte) : Pe :=
  let n := bs.length
  let part := fun g => !(a ≤ 16 * g && 16 * g + 16 ≤ a + n)
  let p := { p with lmem := p.lmem.writeBytes a bs, softBad := p.softBad.filter part, softCorr := p.softCorr.filter part }
  (pagesOf a n).foldl Pe.dirty p

/-- An engine write: the granules become full (07 Table 7-3). -/
def Pe.engineWrite (p : Pe) (a : Nat) (bs : List Byte) : Pe :=
  (gransOf a bs.length).foldl (fun p g => p.setFull g true) (p.lwrite a bs)

/-- The bytes of [a, a + n) from the forwarding table, when one entry's mask covers all of them (07 R111). -/
def Pe.fromTable (p : Pe) (a n : Nat) : Option Nat :=
  match p.fwd.find? fun e => e.gran == granOf a && a % 16 + n ≤ 16 &&
      (List.range n).all fun i => bitAt e.mask (a % 16 + i) with
  | some e => some ((e.data.toNat / 2 ^ (8 * (a % 16))) % 2 ^ (8 * n))
  | none => none

/-- Put bytes of one granule into the forwarding table, merging into the entry already held (07 R111). -/
def mergeFwd (g o : Nat) (bs : List Byte) (fill : Bool) : List FwdEntry → List FwdEntry
  | [] => [⟨g, insertBits (0 : BitVec 128) (8 * o) (8 * bs.length) (leNat bs),
      insertBits (0 : BitVec 16) o bs.length (2 ^ bs.length - 1), fill⟩]
  | e :: es =>
    if e.gran = g then
      ⟨g, insertBits e.data (8 * o) (8 * bs.length) (leNat bs), insertBits e.mask o bs.length (2 ^ bs.length - 1),
        e.fill || fill⟩ :: es
    else e :: mergeFwd g o bs fill es

/-- Put bytes into the forwarding table, granule by granule. -/
def Pe.defer : Nat → Pe → Nat → List Byte → Bool → Pe
  | 0, p, _, _, _ => p
  | n + 1, p, a, bs, fill =>
    if bs.isEmpty then p
    else
      let k := 16 - a % 16
      Pe.defer n { p with fwd := mergeFwd (granOf a) (a % 16) (bs.take k) fill p.fwd } (a + k) (bs.drop k) fill

/-- What a local load finds. -/
inductive LocalRead where
  /-- a page is not there yet; the PE as the claim leaves it -/
  | later (p : Pe)
  | bad (t : Trap)
  | got (v : Nat) (p : Pe)

/-- Read [a, a + n) of local memory for a context, on behalf of an access (07 R107, R111, R112). -/
def Pe.lread (p : Pe) (job : Nat) (u : PageUser) (a n : Nat) (plain : Bool) : LocalRead :=
  match p.seek job u (pagesOf a n) with
  | .here q =>
    match p.badGran a n with
    | some g => .bad (uncorrTrap g)
    | none => .got (p.lmem.readNat a n) q
  | .failed c => .bad (refillTrap c a)
  | .later q =>
    match (if plain then p.fromTable a n else none) with
    | some v => .got v p
    | none => .later q

/-- An access finds the errors of [a, a + n) that can be corrected: each is counted and gone (07 R112; 26 Table 26-7). -/
def State.correct (s : State) (key a n : Nat) : State :=
  let gs := (gransOf a n).filter (s.pe key).softCorr.contains
  if gs.isEmpty then s
  else (s.onPe key fun p => { p with softCorr := p.softCorr.filter fun g => !gs.contains g }).tally (bayOf key) 0x1C gs.length

/-- Look for the pages of a range of a PE on behalf of a user (07 R107). -/
def State.seekPages (s : State) (job key : Nat) (u : PageUser) (pages : List Nat) : State × Except Nat Bool :=
  match (s.pe key).seek job u pages with
  | .here p => (s.onPe key fun _ => p, .ok true)
  | .later p => (s.onPe key fun _ => p, .ok false)
  | .failed c => (s.onPe key (·.dropUsers (· == u)), .error c)

end Sys2Proof.Machine
end

