-- ==== Sys2Proof/Machine/MemInstr.lean ====
section
/-! DEFINITION. MemInstr: the memory instructions of chapter 11 (11 R175 to R187) at their issue. Stores and atomics act
at the commit, in LSID order (09 R148). -/

namespace Sys2Proof.Machine

/-! ## LSIDs and the counts -/

/-- The LSID of a store-class instruction of format M (09 R146). -/
def storeLsid : Instr → Option Nat
  | .st _ l _ _ => some l.toNat
  | .stv _ l _ => some l.toNat
  | .stl _ l _ _ => some l.toNat
  | .stlf _ l _ _ _ => some l.toNat
  | .stlv _ l _ => some l.toNat
  | .atom _ _ l _ _ _ => some l.toNat
  | .cas _ _ l _ _ => some l.toNat
  | .atoml _ _ l _ _ _ => some l.toNat
  | _ => none

/-- Count a store-class instruction toward NST; one beyond it is OUTCOUNT (09 R146, R147). -/
def Frame.countStore (f : Frame) : Except Trap Frame :=
  if f.stores < f.nst then .ok { f with stores := f.stores + 1 } else .error (trap .outcount)

/-- A format-M instruction issues: a second use of its LSID is LSIDDUP (09 R149), and a store-class one counts. One that
has issued and waits has done both. -/
def Frame.enterMem (f : Frame) (lsid : Nat) (store : Bool) : Except Trap Frame :=
  if f.slot.phase == .blocked then .ok f
  else if f.lsids.contains lsid then .error (trap .lsiddup)
  else
    let f := { f with lsids := f.lsids ++ [lsid] }
    if store then f.countStore else .ok f

/-- Issue a format-M instruction (09 R145, R146, R149). -/
def issueMem (p : Pm) (n lsid : Nat) (store : Bool) (ts : List Tgt) (s : State) (k : List Value → State → Res) :
    Host.Outcome State Fault Refusal :=
  issueAny p n s fun vs =>
    match s.cur.enterMem lsid store with
    | .error t => .trap t
    | .ok f =>
      match nonData vs with
      | some kd => .done { s with cur := f } (toEach ts (.ofKind kd))
      | none => k vs { s with cur := f }

/-- Every store-class instruction with a lower LSID has issued, never will, or is ruled out (11 R182). -/
def Frame.storesClear (f : Frame) (lsid : Nat) : Bool :=
  f.stores == f.nst ||
  (List.range f.words.length).all fun k =>
    match f.instr k with
    | some i =>
      match storeLsid i with
      | some l => !(l < lsid) || (f.slotAt k).phase != .idle ||
          (match predMode i with
            | some p => (f.slotAt k).predicate p == some false
            | none => true)
      | none => true
    | none => true

/-! ## Program order among the loads of a block (16 R249) -/

/-- The LSID of a load, and whether it is local. -/
def loadLsid : Instr → Option (Nat × Bool)
  | .ld _ _ l _ _ => some (l.toNat, false)
  | .ldv _ _ l _ => some (l.toNat, false)
  | .ldl _ _ l _ _ => some (l.toNat, true)
  | .ldlw _ _ l _ _ _ => some (l.toNat, true)
  | .ldlv _ _ l _ => some (l.toNat, true)
  | _ => none

/-- Some slots deliver to an operand or a predicate. -/
def Frame.fed (f : Frame) (from_ : List Nat) (t : Tgt) : Bool :=
  from_.any fun i => match f.instr i with
    | some x => (targetsOf x).contains t
    | none => false

/-- What a slot waits for at one of its inputs has come, or can come from some slots. -/
def Frame.inputOk (f : Frame) (from_ : List Nat) (held : Option Value) (t : Tgt) : Bool := held.isSome || f.fed from_ t

/-- The store-class slots below an LSID that have still to issue, or to be skipped. -/
def Frame.storesOpen (f : Frame) (lsid : Nat) : List Nat :=
  if f.stores == f.nst then []
  else (List.range f.words.length).filter fun k => match f.instr k with
    | some i => (match storeLsid i with
        | some l => l < lsid
        | none => false) && (f.slotAt k).phase == .idle && (match predMode i with
        | some p => (f.slotAt k).predicate p != some false
        | none => false)
    | none => false

/-- A slot can finish once some others have: its operands and predicate have come or can come from them, and a load has no other
store to wait for (09 R144; 11 R182). -/
def Frame.canFinish (f : Frame) (from_ : List Nat) (k : Nat) : Bool :=
  let sl := f.slotAt k
  let key := BitVec.ofNat 6 k
  match sl.phase, f.instr k with
  | .issued, _ | .skipped, _ | _, none => false
  | .inflight, _ => true
  | _, some i =>
    (operandCount i < 1 || f.inputOk from_ sl.op0 (.opL key)) && (operandCount i < 2 || f.inputOk from_ sl.op1 (.opR key)) &&
    (operandCount i < 3 || f.inputOk from_ sl.op2 (.opX key)) &&
    (match predMode i with
      | some .always => true
      | some p => sl.predicate p == some true || (sl.pred.isNone && f.fed from_ (.pred key))
      | none => false) &&
    (match loadLsid i with
      | some l => (f.storesOpen l.1).all from_.contains
      | none => true)

/-- The slots of a block that can still finish while one of them waits, grown from those that need nothing more. -/
def Frame.canFinishAll (f : Frame) (but : Nat) : Nat → List Nat → List Nat
  | 0, got => got
  | n + 1, got =>
    let more := (List.range f.words.length).filter fun k => k != but && !got.contains k && f.canFinish got k
    if more.isEmpty then got else f.canFinishAll but n (got ++ more)

/-- The loads of the same memory with a lower LSID that have not acted: a local one until it has delivered, a device one until it has
entered the port. -/
def Frame.loadsOpen (f : Frame) (lsid : Nat) (loc : Bool) : List Nat :=
  (List.range f.words.length).filter fun k => match f.instr k with
    | some i => (match loadLsid i with
        | some l => decide (l.1 < lsid) && l.2 == loc
        | none => false) && ((f.slotAt k).phase == .idle || (f.slotAt k).phase == .blocked) && (match predMode i with
        | some p => (f.slotAt k).predicate p != some false
        | none => false)
    | none => false

/-- The loads of a block act in LSID order, device and local loads each among themselves (16 R249; 07 R110): a load waits for those
below it that can still act while it waits. Log entry 101 (DEDUCED). -/
def Frame.loadTurn (f : Frame) (lsid : Nat) (loc : Bool) : Bool :=
  let open_ := (f.loadsOpen lsid loc).filter (· != f.turn)
  open_.isEmpty || (let got := f.canFinishAll f.turn 64 []; open_.all fun k => !got.contains k)

/-! ## Forwarding inside a block (11 R182) -/

/-- A store of the block: LSID, address, bytes and data. -/
structure OwnStore where
  lsid : Nat
  addr : Nat
  n    : Nat
  data : W512

/-- Insert by LSID. -/
def insertStore (x : OwnStore) : List OwnStore → List OwnStore
  | [] => [x]
  | y :: ys => if x.lsid < y.lsid then x :: y :: ys else y :: insertStore x ys

/-- The device stores of the block below an LSID, in LSID order. -/
def Frame.deviceStores (f : Frame) (lsid : Nat) : List OwnStore :=
  (f.acts.filterMap fun a => match a.2 with
    | .store l r =>
      if l < lsid then
        match r.op with
        | .store => some ⟨l, r.addr, r.n, r.data⟩
        | .storeV => some ⟨l, r.addr, 64, r.data⟩
        | _ => none
      else none
    | _ => none).foldr insertStore []

/-- The local stores of the block below an LSID, in LSID order. -/
def Frame.localStores (f : Frame) (lsid : Nat) : List OwnStore :=
  (f.acts.filterMap fun a => match a.2 with
    | .lstore l ad n d _ => if l < lsid then some ⟨l, ad, n, d⟩ else none
    | _ => none).foldr insertStore []

/-- The bytes that the block's own stores put over [a, a + n), and the mask of their bits. -/
def overlayOf (a n : Nat) : List OwnStore → W512 × W512 → W512 × W512
  | [], r => r
  | st :: sts, r =>
    overlayOf a n sts ((List.range n).foldl (fun r i =>
      if inRange (a + i) st.addr st.n then
        (insertBits r.1 (8 * i) 8 (bytesAt st.data (a + i - st.addr) 1), insertBits r.2 (8 * i) 8 255)
      else r) r)

/-- Put them over a value. -/
def overlaid (v : W512) (o : W512 × W512) : W512 := (v &&& ~~~o.2) ||| o.1

/-! ## Device memory -/

/-- The job tag that the requests of an agent carry: executive agents carry 0xFFFF (02 R25). -/
def State.reqJob (s : State) : BitVec 16 :=
  if statusExe (s.statusOf s.cur.agent) then execTag else BitVec.ofNat 16 s.cur.job

/-- A request of the block whose turn it is. -/
def State.mkReq (s : State) (op : ReqOp) (a n : Nat) (d d2 : W512) (o : Origin) (regs : List Nat) : Req :=
  { Req.blank with op := op, addr := a, n := n, data := d, data2 := d2, job := s.reqJob, cls := 1,
                   pe := agentNumber s.cur.agent, from_ := s.requesterOf s.cur.agent, origin := o, regs := regs }

/-- The register targets of an access become deferred writes (09 R141). -/
def Frame.deferAll (f : Frame) : List Nat → Except Trap Frame
  | [] => .ok f
  | i :: is =>
    match f.toReg i (.defer i) with
    | .ok g => g.deferAll is
    | .error t => .error t

/-- A signed offset times its scale. -/
def offsetOf {w : Nat} (imm : BitVec w) (k : Nat) : Int := imm.toInt * k

/-- The eight requests of a load's stream are outstanding (08 R124). -/
def State.loadsFull (s : State) : Bool := s.streamFull s.cur.agent s.cur.port.pid fun r => r.remoteLoad s.cur.agent s.cur.turn

/-- A load of device memory makes its access (11 R179), once its stream has room (08 R124): with register targets it is deferred and
the slot has issued. `cnt` of it is counted as device loads: LD and LDV only (27 R407). -/
def deviceLoad (s : State) (ts : List Tgt) (op : ReqOp) (a n : Nat) (sz : Sz) (ov : W512 × W512) (cnt : Nat) : Res :=
  let regs := regsOf ts
  if s.loadsFull then .wait s else
  let r := s.mkReq op a n ov.1 ov.2 (.load s.cur.turn sz) regs
  if regs.isEmpty then .fly ((s.request r).tallyCur 0x07 cnt)
  else
    match s.cur.deferAll regs with
    | .ok f => .done (({ s with cur := f }.request r).tallyCur 0x07 cnt) []
    | .error t => .trap t

/-- LD (11 R177 to R182). -/
def execLd (p : Pm) (t : Tgt) (lsid : BitVec 4) (sz : Sz) (imm : BitVec 7) (s : State) :
    Host.Outcome State Fault Refusal :=
  issueMem p 1 lsid.toNat false [t] s fun vs s =>
    match vs with
    | [c] =>
      match capAddress c .load (offsetOf imm (szBytes sz)) (szBytes sz) with
      | .error e => .trap e
      | .ok a =>
        if s.cur.storesClear lsid.toNat && s.cur.loadTurn lsid.toNat false then
          deviceLoad s [t] .load a (szBytes sz) sz
            (overlayOf a (szBytes sz) (s.cur.deviceStores lsid.toNat) (0, 0)) 1
        else .wait s
    | _ => .done s []

/-- LDV (11 R179, R183): 64 bytes as four granule accesses. -/
def execLdv (p : Pm) (t : Tgt) (lsid : BitVec 4) (imm : BitVec 7) (s : State) : Host.Outcome State Fault Refusal :=
  issueMem p 1 lsid.toNat false [t] s fun vs s =>
    match vs with
    | [c] =>
      match capAddress c .load (offsetOf imm 64) 64 with
      | .error e => .trap e
      | .ok a =>
        if s.cur.storesClear lsid.toNat && s.cur.loadTurn lsid.toNat false then
          deviceLoad s [t] .loadV a 64 .x128 (overlayOf a 64 (s.cur.deviceStores lsid.toNat) (0, 0)) 1
        else .wait s
    | _ => .done s []

/-- A store-class access of device memory joins the commit (11 R180, R184). -/
def deviceStore (s : State) (lsid : Nat) (kind : AccessKind) (c : Value) (off : Int) (k : Nat) (op : ReqOp)
    (d d2 : W512) (sz : Sz) (regs : List Nat) : Res :=
  match capAddress c kind off k with
  | .error e => .trap e
  | .ok a =>
    match s.cur.deferAll regs with
    | .error t => .trap t
    | .ok f =>
      .done { s with cur := f.act (.store lsid (s.mkReq op a k d d2 (.store s.cur.turn sz) regs)) } []

/-- ST (11 R180). -/
def execSt (p : Pm) (lsid : BitVec 4) (sz : Sz) (imm : BitVec 7) (s : State) : Host.Outcome State Fault Refusal :=
  issueMem p 2 lsid.toNat true [] s fun vs s =>
    match vs with
    | [c, d] =>
      deviceStore s lsid.toNat .store c (offsetOf imm (szBytes sz)) (szBytes sz) .store d.bits 0 sz []
    | _ => .done s []

/-- STV (11 R180, R183). -/
def execStv (p : Pm) (lsid : BitVec 4) (imm : BitVec 7) (s : State) : Host.Outcome State Fault Refusal :=
  issueMem p 2 lsid.toNat true [] s fun vs s =>
    match vs with
    | [c, d] => deviceStore s lsid.toNat .store c (offsetOf imm 64) 64 .storeV d.bits 0 .x128 []
    | _ => .done s []

/-- ATOM (11 R184): the old value goes to the deferred register. -/
def execAtom (p : Pm) (t : Tgt) (lsid : BitVec 4) (sz : Sz) (sub : AtomSub) (off : BitVec 3) (s : State) :
    Host.Outcome State Fault Refusal :=
  issueMem p 2 lsid.toNat true [t] s fun vs s =>
    match vs with
    | [c, d] =>
      deviceStore s lsid.toNat .rmw c (offsetOf off (szBytes sz)) (szBytes sz) (.atom sub) d.bits 0 sz (regsOf [t])
    | _ => .done s []

/-- CAS (11 R184). -/
def execCas (p : Pm) (t : Tgt) (lsid : BitVec 4) (sz : Sz) (imm : BitVec 7) (s : State) :
    Host.Outcome State Fault Refusal :=
  issueMem p 3 lsid.toNat true [t] s fun vs s =>
    match vs with
    | [c, e, d] =>
      deviceStore s lsid.toNat .rmw c (offsetOf imm (szBytes sz)) (szBytes sz) .cas e.bits d.bits sz (regsOf [t])
    | _ => .done s []

/-! ## Local memory -/

/-- Change the PE whose local memory the block uses. -/
def State.onMyPe (s : State) (g : Pe → Pe) : State := s.onPe s.cur.pe g

/-- Read local memory for the slot whose turn it is. -/
def State.myRead (s : State) (a n : Nat) (plain : Bool) : LocalRead :=
  (s.pe s.cur.pe).lread s.cur.job (.slot s.cur.agent s.cur.turn) a n plain

/-- A plain local load (11 R186), which is counted (27 R407). The operation is one whole step (95), so the four granule
accesses of LDLV (11 R183) are applied with nothing between them. Log entry 60 (DEDUCED). -/
def localLoad (s : State) (t : Tgt) (lsid a n : Nat) (mk : W512 → Value) : Res :=
  if !(s.cur.storesClear lsid && s.cur.loadTurn lsid true) then .wait s
  else
    match s.myRead a n true with
    | .bad e => .trap e
    | .later p => .wait (s.onMyPe fun _ => p)
    | .got v p =>
      .done (((s.onMyPe fun _ => p).correct s.cur.pe a n).tallyCur 0x05 1)
        [(t, mk (overlaid (BitVec.ofNat 512 v) (overlayOf a n (s.cur.localStores lsid) (0, 0))))]

/-- LDL (11 R186). -/
def execLdl (p : Pm) (t : Tgt) (lsid : BitVec 4) (sz : Sz) (imm : BitVec 7) (s : State) :
    Host.Outcome State Fault Refusal :=
  issueMem p 1 lsid.toNat false [t] s fun vs s =>
    match vs with
    | [b] =>
      match localAddress b (offsetOf imm (szBytes sz)) (szBytes sz) with
      | .error e => .trap e
      | .ok a => localLoad s t lsid.toNat a (szBytes sz) (szExtend sz)
    | _ => .done s []

/-- LDLV (11 R186): 64 bytes. -/
def execLdlv (p : Pm) (t : Tgt) (lsid : BitVec 4) (imm : BitVec 7) (s : State) : Host.Outcome State Fault Refusal :=
  issueMem p 1 lsid.toNat false [t] s fun vs s =>
    match vs with
    | [b] =>
      match localAddress b (offsetOf imm 64) 64 with
      | .error e => .trap e
      | .ok a => localLoad s t lsid.toNat a 64 .wideData
    | _ => .done s []

/-- A store to local memory joins the commit (11 R186). -/
def localStore (s : State) (lsid : Nat) (b : Value) (off : Int) (k : Nat) (d : W512) (fe : FeAct) : Res :=
  match localAddress b off k with
  | .error e => .trap e
  | .ok a => .done (s.onCur (·.act (.lstore lsid a k d fe))) []

/-- STL (11 R186). -/
def execStl (p : Pm) (lsid : BitVec 4) (sz : Sz) (imm : BitVec 7) (s : State) : Host.Outcome State Fault Refusal :=
  issueMem p 2 lsid.toNat true [] s fun vs s =>
    match vs with
    | [b, d] => localStore s lsid.toNat b (offsetOf imm (szBytes sz)) (szBytes sz) d.bits .keep
    | _ => .done s []

/-- STLV (11 R186). -/
def execStlv (p : Pm) (lsid : BitVec 4) (imm : BitVec 7) (s : State) : Host.Outcome State Fault Refusal :=
  issueMem p 2 lsid.toNat true [] s fun vs s =>
    match vs with
    | [b, d] => localStore s lsid.toNat b (offsetOf imm 64) 64 d.bits .keep
    | _ => .done s []

/-- STLF (11 R186, R187): the granule becomes full; with Q the commit waits until it is empty. -/
def execStlf (p : Pm) (lsid : BitVec 4) (sz : Sz) (q : Bool) (off : BitVec 6) (s : State) :
    Host.Outcome State Fault Refusal :=
  issueMem p 2 lsid.toNat true [] s fun vs s =>
    match vs with
    | [b, d] =>
      localStore s lsid.toNat b (offsetOf off (szBytes sz)) (szBytes sz) d.bits (if q then .waitFill else .fill)
    | _ => .done s []

/-- Stand behind the waiters for a granule (07 R109). -/
def Pe.await (p : Pe) (g : Nat) (a : Agent) (slot : Nat) (full : Bool) : Pe :=
  if p.waiters.any fun w => w.gran == g && w.agent == a && w.slot == slot && w.full == full then p
  else { p with waiters := p.waiters ++ [⟨g, a, slot, full⟩] }

/-- Another access waits for the granule in the same state, and began before (07 R109). -/
def Pe.queuedBefore (p : Pe) (g : Nat) (a : Agent) (slot : Nat) (full : Bool) : Bool :=
  match p.waiters.find? fun w => w.gran == g && w.full == full with
  | some w => !(w.agent == a && w.slot == slot)
  | none => false

/-- Leave the waiters. -/
def Pe.served (p : Pe) (g : Nat) (a : Agent) (slot : Nat) : Pe :=
  { p with waiters := p.waiters.filter fun w => !(w.gran == g && w.agent == a && w.slot == slot) }

/-- LDLW at its granule (07 R109): it reads once the granule is full and no access waits before it; with Q the granule
becomes empty. -/
def fullLoad (s : State) (t : Tgt) (lsid a n : Nat) (sz : Sz) (q : Bool) : Res :=
  let g := granOf a
  if !(s.cur.storesClear lsid && s.cur.loadTurn lsid true) then .wait s
  else
    match s.myRead a n false with
    | .bad e => .trap e
    | .later p => .wait (s.onMyPe fun _ => p)
    | .got v p =>
      if p.isFull g && !p.queuedBefore g s.cur.agent s.cur.turn true then
        let p := p.served g s.cur.agent s.cur.turn
        let p := if q then (p.setFull g false).dirty (pageOf a) else p
        .done (((s.onMyPe fun _ => p).correct s.cur.pe a n).tallyCur 0x05 1)
          [(t, szExtend sz (overlaid (BitVec.ofNat 512 v) (overlayOf a n (s.cur.localStores lsid) (0, 0))))]
      else .wait (s.onMyPe fun _ => p.await g s.cur.agent s.cur.turn true)

/-- LDLW (07 R109; 11 R186). -/
def execLdlw (p : Pm) (t : Tgt) (lsid : BitVec 4) (sz : Sz) (q : Bool) (off : BitVec 6) (s : State) :
    Host.Outcome State Fault Refusal :=
  issueMem p 1 lsid.toNat false [t] s fun vs s =>
    match vs with
    | [b] =>
      match localAddress b (offsetOf off (szBytes sz)) (szBytes sz) with
      | .error e => .trap e
      | .ok a => fullLoad s t lsid.toNat a (szBytes sz) sz q
    | _ => .done s []

/-- ATOML (11 R185): it acts at the commit, and its register is full at once. -/
def execAtoml (p : Pm) (t : Tgt) (lsid : BitVec 4) (sz : Sz) (sub : AtomSub) (off : BitVec 3) (s : State) :
    Host.Outcome State Fault Refusal :=
  issueMem p 2 lsid.toNat true [t] s fun vs s =>
    match vs with
    | [b, d] =>
      match localAddress b (offsetOf off (szBytes sz)) (szBytes sz) with
      | .error e => .trap e
      | .ok a =>
        let act := Act.latom lsid.toNat a (szBytes sz) sub d.bits sz (Tgt.regIdx t)
        match Tgt.regIdx t with
        | none => .done (s.onCur (·.act act)) []
        | some i =>
          match s.cur.toReg i act with
          | .ok f => .done { s with cur := f } []
          | .error e => .trap e
    | _ => .done s []

end Sys2Proof.Machine
end

