-- ==== Sys2Proof/Machine/Moves.lean ====
section
/-! DEFINITION. Moves: READ, MOV, MOVI, MOVIS and NULL (09 R140; 10 R163, R164). -/

namespace Sys2Proof.Machine

/-- Raise the pts of the block whose turn it is (16 R250). -/
def State.raisePts (s : State) (t : Nat) : State :=
  s.onCur fun f => { f with port := { f.port with pts := max f.port.pts t } }

/-- READ (09 R140, 10 R163): a full register is delivered, and one that a load filled raises the pts to its timestamp
(16 R250); an empty one waits, or is REGEMPTY with FE; a failed one raises the fault that it records. -/
def execRead (reg : BitVec 6) (fe : Bool) (t u : Tgt) (s : State) : Host.Outcome State Fault Refusal :=
  issue .always 0 [t, u] s fun _ =>
    let r := s.getReg s.cur.agent reg.toNat
    match r.st with
    | .full => .done (s.raisePts r.ts) (toEach [t, u] (r.value s.cur.kind reg.toNat))
    | .empty => if fe then .trap (trap .regempty) else .wait s
    | .failed e => .trap e

/-- MOV (10 R164): op0 unchanged, with its kind, payload, CAP and width. -/
def execMov (p : Pm) (t u : Tgt) (s : State) : Host.Outcome State Fault Refusal :=
  issueAny p 1 s fun
    | [a] => .done s (toEach [t, u] a)
    | _ => .done s []

/-- MOVI (10 R164): the sign-extended immediate. -/
def execMovi (p : Pm) (t : Tgt) (imm : BitVec 14) (s : State) : Host.Outcome State Fault Refusal :=
  issue p 0 [t] s fun _ => .done s [(t, .data (imm.signExtend 64))]

/-- MOVIS (10 R164): op0 shifted left by 14 bits, with the immediate below it. -/
def execMovis (p : Pm) (t : Tgt) (imm : BitVec 14) (s : State) : Host.Outcome State Fault Refusal :=
  issue1 p [t] s fun a => (a <<< 14) ||| imm.setWidth 64

/-- NULL (10 R164; 09 R146): NULL to each target. -/
def execNull (p : Pm) (t u : Tgt) (s : State) : Host.Outcome State Fault Refusal :=
  issue p 0 [t, u] s fun _ => .done s (toEach [t, u] (.ofKind .null))

end Sys2Proof.Machine
end

