-- ==== Sys2Proof/Machine/Stream.lean ====
section
/-! DEFINITION. Stream: the buffer and copy commands, GATHER and SCATTER, LMSTREAM and the endpoint instructions at their
issue (06 R86 to R100; 12 R193 to R200). What they do at the commit is in Commit.lean. -/

namespace Sys2Proof.Machine

/-! ## Handles (06 Table 6-2) -/

/-- The handle status word. -/
def Handle.status (h : Handle) : W64 :=
  packFields 64 [(63, 1, b2n h.psn), (56, 7, h.fcode.toNat), (54, 2, h.dir.toNat), (53, 1, b2n h.isOpen),
    (52, 1, b2n h.eos), (42, 6, h.rd), (36, 6, h.wr), (30, 6, h.nsl), (0, 20, h.slotb)]

/-- A handle of the PE whose buffer table the block uses. -/
def State.myHandle (s : State) (h : Nat) : Handle := Map.get Handle.blank (s.pe s.cur.pe).handles h

/-- An inbound handle. -/
def Handle.inbound (h : Handle) : Bool := h.dir == 1#2
/-- The state of a slot. -/
def Handle.slotAt (h : Handle) (k : Nat) : SlotState := h.slots.getD k .free
/-- The local address of a slot. -/
def Handle.slotAddr (h : Handle) (k : Nat) : Nat := h.base + k * h.slotb
/-- The state of slot RD that a BUFGET takes (06 Table 6-3). -/
def Handle.takes (h : Handle) : SlotState := if h.inbound then .full else .free
/-- The state that a BUFPUT moves on. -/
def Handle.puts (h : Handle) : SlotState := if h.inbound then .draining else .filling
/-- A BUFPUT has a slot to move. -/
def Handle.canPut (h : Handle) : Bool := h.slots.any (· == h.puts)
/-- Every tile of the stream has been taken (06 R93). -/
def Handle.exhausted (h : Handle) : Bool := h.opened && h.total ≤ h.taken

/-- The information of a handle fault (12 Table 12-7): the handle and its status word. -/
def handleTrap (c : FaultCode) (n : Nat) (h : Handle) : Trap := ⟨c, BitVec.ofNat 64 n, h.status⟩

/-- COPY at a join (06 R100): the code of Table 6-4, the handle and its PE. -/
def copyTrap (pe n : Nat) (h : Handle) : Trap :=
  ⟨.copy, packFields 64 [(0, 8, h.fcode.toNat), (8, 5, n), (16, 15, pe)], 0⟩

/-- The stream, open or stopped, that names a handle: CPYCLOSE of a handle of a stopped stream takes the handle out of it, so that there
is one at most (06 R96). -/
def State.streamFor (s : State) (pe n : Nat) : Option (Nat × Nat × Stream) :=
  s.bays.findSome? fun b => (b.2.streams.find? fun e => e.2.live && e.2.handles.contains (pe, n)).map fun e => (b.1, e.1, e.2)

/-- Take the deferred copy record of a stream out of the fault queue (24 R353). -/
def State.joinRecord (s : State) (pe n : Nat) : State :=
  match s.streamFor pe n with
  | none => s
  | some (_, _, st) =>
    s.onRegion st.region fun r =>
      { r with faultq := r.faultq.filter fun x =>
          !(recDeferred x && bits x.info0 30 16 == st.head.1 && bits x.info0 12 8 == st.head.2) }

/-- Raise COPY at a join: its record leaves the queue (06 R100; 24 R353). -/
def joinCopy (s : State) (n : Nat) (h : Handle) : Res :=
  .trapIn (s.joinRecord s.cur.pe n) (copyTrap s.cur.pe n h)

/-- A command names a handle: a second one of the five in one block is BUFDUP (12 R194). A command that has issued and
waits has been counted. -/
def Frame.useHandle (f : Frame) (n : Nat) (h : Handle) : Except Trap Frame :=
  if f.slot.phase == .blocked then .ok f
  else if f.bufs.any fun b => b.1 == n then .error (handleTrap .bufdup n h)
  else .ok { f with bufs := f.bufs ++ [(n, f.turn)] }

/-- Run a command on a handle after the check of BUFDUP. -/
def withHandle (s : State) (n : Nat) (k : Handle → State → Res) : Res :=
  let h := s.myHandle n
  match s.cur.useHandle n h with
  | .error t => .trap t
  | .ok f => k h { s with cur := f }

/-! ## BUFDEF -/

/-- A definition word breaks Table 12-3. -/
def badDefinition (w : W64) : Bool :=
  let dir := bits w 63 62
  let nsl := bits w 61 56
  let slotb := bits w 51 32
  let base := bits w 18 0
  bits w 55 52 != 0 || bits w 31 19 != 0 || dir == 3 ||
  (if dir == 0 then bits w 61 0 != 0
   else slotb % 16 != 0 || slotb < 16 || base % 16 != 0 || lmSize < base + (nsl + 1) * slotb)

/-- The handle that a definition word binds (12 Table 12-2). -/
def bindHandle (w : W64) : Handle :=
  { Handle.blank with
    dir := BitVec.ofNat 2 (bits w 63 62), nsl := bits w 61 56, slotb := bits w 51 32, base := bits w 18 0,
    slots := if bits w 63 62 == 0 then [] else List.replicate (bits w 61 56 + 1) .free }

/-- BUFDEF (12 R193, R194). -/
def execBufdef (p : Pm) (h : BitVec 5) (s : State) : Host.Outcome State Fault Refusal :=
  issue p 1 [] s fun
    | [a] => withHandle s h.toNat fun hd s =>
        if badDefinition a.lo then .trap (handleTrap .badbuf h.toNat hd)
        else if hd.isOpen then .trap (handleTrap .bufbusy h.toNat hd)
        else .done (s.onCur (·.act (.bufdef h.toNat a.lo))) []
    | _ => .done s []

/-- BUFGET (06 R93; 12 R194): it waits for slot RD in the state it takes and delivers its address, or EOS once every tile
has been taken; the slot moves at the commit (12 R195). -/
def execBufget (p : Pm) (t u : Tgt) (h : BitVec 5) (s : State) : Host.Outcome State Fault Refusal :=
  issue p 0 [t, u] s fun _ => withHandle s h.toNat fun hd s =>
    if hd.psn && !(hd.inbound && hd.slotAt hd.rd == .full) then joinCopy s h.toNat hd
    else if hd.exhausted then
      .done (s.onCur (·.act (.bufget h.toNat hd.rd hd.taken true))) (toEach [t, u] (.ofKind .eos))
    else if hd.dir != 0 && hd.slotAt hd.rd == hd.takes then
      .done ((s.raisePts (hd.slotPts.getD hd.rd 0)).onCur (·.act (.bufget h.toNat hd.rd hd.taken false)))
        (toEach [t, u] (.data (BitVec.ofNat 64 (hd.slotAddr hd.rd))))
    else .wait s

/-- BUFPUT (06 R93; 12 R194). -/
def execBufput (p : Pm) (h : BitVec 5) (s : State) : Host.Outcome State Fault Refusal :=
  issue p 0 [] s fun _ => withHandle s h.toNat fun hd s =>
    if hd.psn && !(hd.inbound && hd.canPut) then joinCopy s h.toNat hd
    else if !hd.canPut then .trap (handleTrap .bufstate h.toNat hd)
    else .done (s.onCur (·.act (.bufput h.toNat))) []

/-- BUFSTAT (12 R193): the status word as it stands. -/
def execBufstat (p : Pm) (t u : Tgt) (h : BitVec 5) (s : State) : Host.Outcome State Fault Refusal :=
  issue p 0 [t, u] s fun _ => .done s (toEach [t, u] (.data (s.myHandle h.toNat).status))

/-! ## CPYOPEN -/

/-- Word k of a descriptor. -/
def descWord (ws : List W64) (k : Nat) : W64 := ws.getD k 0
/-- A 32-bit half: k counts halves from word `w` on. -/
def descHalf (ws : List W64) (w k : Nat) : Nat :=
  if k % 2 = 0 then bits (descWord ws (w + k / 2)) 31 0 else bits (descWord ws (w + k / 2)) 63 32

/-- A tensor descriptor from its sixteen words (06 Table 6-1). Dimensions at and above NDIM have one element and one tile
(06 R87). -/
def unpackDesc (ws : List W64) : Desc :=
  let w1 := descWord ws 1
  let nd := bits w1 42 40
  let dims := List.range 5
  { base := descWord ws 0, epidx := bits w1 55 48, ep := bitAt w1 47, esz := bits w1 46 44, ndim := nd,
    box := dims.map fun k => if k < nd then bits w1 (8 * k + 7) (8 * k) + 1 else 1,
    pad := descWord ws 2,
    stride := dims.map fun k => if k < nd then (descWord ws (3 + k)).toInt else 0,
    start := dims.map fun k => if k < nd then (BitVec.ofNat 32 (descHalf ws 8 k)).toInt else 0,
    extent := dims.map fun k => if k < nd then descHalf ws 11 k else 1,
    tiles := dims.map fun k =>
      if k < nd then (if k = 4 then bits (descWord ws 15) 15 0 else bits (descWord ws 14) (16 * k + 15) (16 * k)) + 1
      else 1 }

/-- The product of a list. -/
def prodNat (l : List Nat) : Nat := l.foldl (· * ·) 1

/-- The bytes of a tile. -/
def Desc.tileBytes (d : Desc) : Nat := prodNat d.box * 2 ^ d.esz
/-- The tiles of a stream. -/
def Desc.tileCount (d : Desc) : Nat := prodNat d.tiles

/-- The first condition of R87 that a descriptor breaks, numbered from 1. -/
def descFault (ws : List W64) (slotb : Nat) (attached : Nat → Bool) : Option Nat :=
  let w1 := descWord ws 1
  let d := unpackDesc ws
  if bits w1 63 56 != 0 || bitAt w1 43 || bits (descWord ws 10) 63 32 != 0 || bits (descWord ws 13) 63 32 != 0 ||
      bits (descWord ws 15) 63 16 != 0 then some 1
  else if d.ndim == 0 || 5 < d.ndim then some 2
  else if 4 < d.esz then some 3
  else if slotb < d.tileBytes then some 4
  else if d.ep && !attached d.epidx then some 5
  else none

/-- The branches of a stream: the handle itself, and the NEXT branches of the branch word (12 Table 12-4). -/
def branchesOf (pe h : Nat) (w : W64) : List (Nat × Nat) :=
  (pe, h) :: (List.range (bits w 61 60)).map fun k =>
    (peOf (peDie pe) (bits w (20 * k + 10) (20 * k + 5)) (bits w (20 * k + 16) (20 * k + 11)),
     bits w (20 * k + 4) (20 * k))

/-- A reserved bit of a branch word is set. -/
def branchReserved (w : W64) : Bool :=
  bits w 63 62 != 0 || (List.range 3).any fun k => bits w (20 * k + 19) (20 * k + 17) != 0

/-- BADDESC, with the descriptor's address and the number of the condition. -/
def descTrap (a cond : Nat) : Trap := ⟨.baddesc, BitVec.ofNat 64 a, BitVec.ofNat 64 cond⟩

/-- A list names something twice. -/
def hasDup : List (Nat × Nat) → Bool
  | [] => false
  | x :: xs => xs.contains x || hasDup xs

/-- A handle that a stream of one direction cannot be attached to (06 R95). -/
def Handle.unfit (h : Handle) (dir : BitVec 2) : Bool := h.dir == 0 || h.psn || h.isOpen || h.dir != dir

/-- The first branch whose handle cannot be attached: its number and the handle. -/
def State.unfitBranch (s : State) (dir : BitVec 2) (brs : List (Nat × Nat)) : Option (Nat × Handle) :=
  (brs.map fun b => (b.2, Map.get Handle.blank (s.pe b.1).handles b.2)).find? fun x => x.2.unfit dir

/-- The checks of a CPYOPEN on its handles and descriptor (06 R87, R95; 12 R194). The manual does not order the two faults: the branch
word is looked at first, then the state of the handles that it names, then their sizes and the descriptor. Log entry 102 (DESIGN
CHOICE). -/
def openFault (s : State) (h a : Nat) (ws : List W64) (bw : W64) : Option Trap :=
  let hd := s.myHandle h
  let brs := branchesOf s.cur.pe h bw
  let hs := brs.map fun b => Map.get Handle.blank (s.pe b.1).handles b.2
  if branchReserved bw then some (descTrap a 6)
  else if brs.any fun b => b.1 < agBase && !s.myRegion.rect.has b.1 then some (descTrap a 7)
  else if hasDup brs then some (descTrap a 8)
  else
    match s.unfitBranch hd.dir brs with
    | some x => some (handleTrap .bufstate x.1 x.2)
    | none =>
      if bits bw 61 60 != 0 && !hd.inbound then some (descTrap a 9)
      else if hs.any fun x => x.slotb != hd.slotb then some (descTrap a 10)
      else (descFault ws hd.slotb fun i => ((s.job s.cur.job).endpts.find i).isSome).map (descTrap a)

/-- CPYOPEN (06 R86, R95; 12 R193): the descriptor is copied at issue, and the stream opens at the commit. -/
def execCpyopen (p : Pm) (h : BitVec 5) (s : State) : Host.Outcome State Fault Refusal :=
  issue p 2 [] s fun
    | [a, b] => withHandle s h.toNat fun _ s =>
        match localAddress a 0 1 with
        | .error e => .trap e
        | .ok d =>
          if lmSize < d + 128 then .trap ⟨.lmrange, a.lo, 0⟩
          else if d % 16 != 0 then .trap ⟨.align, a.lo, 0⟩
          else
            match s.myRead d 128 false with
            | .bad e => .trap e
            | .later q => .wait (s.onMyPe fun _ => q)
            | .got v q =>
              let s := (s.onMyPe fun _ => q).correct s.cur.pe d 128
              let ws := (List.range 16).map fun k => BitVec.ofNat 64 (v / 2 ^ (64 * k))
              match openFault s h.toNat d ws b.lo with
              | some e => .trap e
              | none => .done (s.onCur (·.act (.cpyopen h.toNat (unpackDesc ws) (branchesOf s.cur.pe h.toNat b.lo)))) []
    | _ => .done s []

/-- CPYCLOSE (06 R96): it acts at the commit. -/
def execCpyclose (p : Pm) (h : BitVec 5) (s : State) : Host.Outcome State Fault Refusal :=
  issue p 0 [] s fun _ => withHandle s h.toNat fun _ s => .done (s.onCur (·.act (.cpyclose h.toNat))) []

/-- CPYWAIT (06 R96, R99): it waits for the stream to close and delivers the status word; a join edge. -/
def execCpywait (p : Pm) (t u : Tgt) (h : BitVec 5) (s : State) : Host.Outcome State Fault Refusal :=
  issue p 0 [t, u] s fun _ =>
    let hd := s.myHandle h.toNat
    if hd.psn then joinCopy s h.toNat hd
    else if !hd.opened then .trap (handleTrap .bufstate h.toNat hd)
    else if hd.isOpen then .wait s
    else .done (s.raisePts hd.joinPts) (toEach [t, u] (.data hd.status))

/-! ## GATHER and SCATTER (12 R196) -/

/-- GATHER: as LD, with no LSID and offset 0; loads of a block without an LSID go in the order in which they issue. Log entry 87 (DEDUCED). -/
def execGather (p : Pm) (t u : Tgt) (sz : Sz) (s : State) : Host.Outcome State Fault Refusal :=
  issue p 1 [t, u] s fun
    | [c] =>
      match capAddress c .load 0 (szBytes sz) with
      | .error e => .trap e
      | .ok a => deviceLoad s [t, u] .load a (szBytes sz) sz (0, 0) 0
    | _ => .done s []

/-- SCATTER: as ST, and it counts toward nothing. -/
def execScatter (p : Pm) (sz : Sz) (s : State) : Host.Outcome State Fault Refusal :=
  issue p 2 [] s fun
    | [c, d] =>
      match capAddress c .store 0 (szBytes sz) with
      | .error e => .trap e
      | .ok a =>
        .done (s.onCur (·.act (.scatter (s.mkReq .store a (szBytes sz) d.bits 0 (.store s.cur.turn sz) [])))) []
    | _ => .done s []

/-! ## LMSTREAM (12 R198) -/

/-- The stream word breaks Table 12-5: ALIGN for a reserved bit, a bad LEN or START, and LMRANGE beyond local memory. -/
def streamWordFault (w : W64) : Option Trap :=
  let len := bits w 51 32
  let start := bits w 18 0
  if bits w 62 58 != 0 || bits w 31 19 != 0 || len == 0 || len % 64 != 0 || start % 64 != 0 ||
      (!bitAt w 63 && bits w 57 52 != 0) then some ⟨.align, w, 0⟩
  else if lmSize < start + len then some ⟨.lmrange, w, 0⟩
  else none

/-- LMSTREAM: SNK must match the written form; it waits while its engine is busy, and starts it at the commit. -/
def execLmstream (p : Pm) (t : Tgt) (s : State) : Host.Outcome State Fault Refusal :=
  issue p 1 [t] s fun
    | [a] =>
      let w := a.lo
      let snk := t == .none
      let pe := s.pe s.cur.pe
      if bitAt w 63 != snk then .trap (trap .illinsn)
      else
        match streamWordFault w with
        | some e => .trap e
        | none =>
          if (if snk then pe.snk.busy else pe.src.busy) then .wait s
          else
            let port := match t with
              | .port k => k.toNat
              | _ => bits w 57 52
            .done (s.onCur (·.act (if snk then .lmSink port (bits w 18 0) (bits w 51 32)
              else .lmSource port (bits w 18 0) (bits w 51 32)))) []
    | _ => .done s []

/-! ## Endpoints (12 R199, R200) -/

/-- EPATOM: the endpoint and the offset are checked at issue; the operation leaves after the commit. -/
def execEpatom (p : Pm) (t u : Tgt) (sub : AtomSub) (s : State) : Host.Outcome State Fault Refusal :=
  issueAny p 2 s fun vs =>
    match s.cur.countStore with
    | .error e => .trap e
    | .ok f =>
      let s := { s with cur := f }
      match nonData vs, vs with
      | some kd, _ => .done s (toEach [t, u] (.ofKind kd))
      | none, [a, b] =>
        let idx := bits a.lo 63 56
        let off := bits a.lo 55 0
        let bad := match (s.job s.cur.job).endpts.find idx with
          | some ext => off % 8 != 0 || ext < off + 8
          | none => true
        if bad then .trap ⟨.eprange, a.lo, 0⟩
        else
          match s.cur.deferAll (regsOf [t, u]) with
          | .error e => .trap e
          | .ok f => .done { s with cur := f.act (.epatom idx off sub b.lo (regsOf [t, u])) } []
      | none, _ => .done s []

/-- EPFENCE: it acts at the commit. -/
def execEpfence (p : Pm) (s : State) : Host.Outcome State Fault Refusal :=
  issue p 0 [] s fun _ => .done (s.onCur (·.act .epfence)) []

end Sys2Proof.Machine
end

