-- ==== Sys2Proof/Machine/Buffers.lean ====
section
/-! DEFINITION. Buffers: what the buffer and copy commands do at the commit (06 R92 to R100; 12 R193, R195), and how a
stream opens and closes. -/

namespace Sys2Proof.Machine

/-- Change a handle. -/
def State.onHandle (s : State) (pe n : Nat) (g : Handle → Handle) : State :=
  s.onPe pe fun p => { p with handles := Map.modify Handle.blank p.handles n g }

/-- Change every handle of a list of PEs and handle numbers. -/
def State.onHandles (s : State) (hs : List (Nat × Nat)) (g : Handle → Handle) : State :=
  hs.foldl (fun s h => s.onHandle h.1 h.2 g) s

/-- A handle of a PE. -/
def State.handle (s : State) (pe n : Nat) : Handle := Map.get Handle.blank (s.pe pe).handles n

/-- The slot after a slot in ring order (06 R92). -/
def Handle.after (h : Handle) (k : Nat) : Nat := if h.nsl ≤ k then 0 else k + 1

/-- A handle with a slot in a state. -/
def Handle.setSlot (h : Handle) (k : Nat) (x : SlotState) : Handle := { h with slots := h.slots.set k x }

/-- Every slot is free. -/
def Handle.allFree (h : Handle) : Bool := h.slots.all (· == .free)

/-- BUFGET at the commit (06 Table 6-3, R93): slot RD moves and RD advances, or END is set. -/
def Handle.get (h : Handle) (eos : Bool) : Handle :=
  if eos then { h with eos := true }
  else
    { h.setSlot h.rd (if h.inbound then .draining else .filling) with
      order := h.order ++ [h.rd], rd := h.after h.rd, taken := h.taken + 1 }

/-- BUFPUT at the commit: the oldest slot that the PE holds moves on. -/
def Handle.put (h : Handle) : Handle :=
  match h.order with
  | [] => h
  | k :: ks => { h.setSlot k (if h.inbound then .free else .full) with order := ks }

/-- A handle with no stream: every slot is free (06 R96), and the PE and the engine go on at one slot of the ring, so that the next
stream is taken in order (06 R92). Log entry 75 (DESIGN CHOICE). -/
def Handle.freed (h : Handle) : Handle :=
  { h with isOpen := false, slots := h.slots.map fun _ => .free, order := [], rd := h.wr }

/-- The filling slots of an outbound handle are discarded, and RD goes back to the first of them (06 R96). Log entry 75 (DESIGN
CHOICE). -/
def Handle.discard (h : Handle) : Handle :=
  { h with slots := h.slots.map fun x => if x == .filling then .free else x, rd := h.order.headD h.rd, order := [] }

/-- Forget a stream; its port stays until everything has returned. -/
def State.dropStream (s : State) (bay n : Nat) : State :=
  let s1 := s.onBay bay fun b => { b with streams := b.streams.drop n }
  match (s.bay bay).streams.find n with
  | some st => (s1.keepPort { st.port with outbox := [] }).unwithholdAll (.stream bay n)
  | none => s1

/-- Close a stream: OPEN clears on every handle, and the copy's pts stays for CPYWAIT (06 R96, R99). -/
def State.closeStream (s : State) (bay n : Nat) : State :=
  match (s.bay bay).streams.find n with
  | none => s
  | some st =>
    (s.onHandles st.handles fun h => { h.freed with joinPts := max h.joinPts (max st.port.pts st.port.wHi) }).dropStream bay n

/-- An inbound stream has ended: every tile has been taken and every slot of every branch is free (06 R96). -/
def State.inboundDone (s : State) (st : Stream) : Bool :=
  st.handles.all fun b => let h := s.handle b.1 b.2; h.exhausted && h.allFree

/-- An outbound stream has ended: every tile has been written, or it is closing and holds no full slot (06 R96). -/
def State.outboundDone (s : State) (st : Stream) : Bool :=
  st.tiles.isEmpty && st.handles.all fun b =>
    let h := s.handle b.1 b.2
    !(h.slots.any fun x => x == .full || x == .draining) && (st.closing || st.desc.tileCount ≤ st.next)

/-- Close a stream when it has ended; a stopped one waits for CPYCLOSE (06 R96, R100). -/
def State.settleStream (s : State) (bay n : Nat) : State :=
  match (s.bay bay).streams.find n with
  | none => s
  | some st =>
    if st.stopped then s
    else if st.inbound then
      (if (st.closing && st.tiles.isEmpty && st.again.isEmpty) || s.inboundDone st then s.closeStream bay n else s)
    else if s.outboundDone st then s.closeStream bay n else s

/-- The place of a handle among the branches of a stream. -/
def Stream.branch (st : Stream) (pe n : Nat) : Nat :=
  match findIdx (· == (pe, n)) st.handles 0 with
  | some (i, _) => i
  | none => 0

/-- BUFPUT at the commit, with its notice to the engine (06 R93, Table 6-3); a poisoned handle sends none (06 R100). -/
def State.bufPut (s : State) (pe n : Nat) : State :=
  let h := s.handle pe n
  let s1 := s.onHandle pe n Handle.put
  match s.streamFor pe n with
  | none => s1
  | some (b, k, st) =>
    if h.psn || st.stopped then s1
    else
      let note := if h.inbound then st.branch pe n else h.order.headD 0
      (s1.onStream b k fun x => { x with notices := x.notices ++ [note] }).settleStream b k

/-- The numbers of the streams that an engine can still hold (06 R95). -/
def freeStream (b : Bay) : Option Nat := (List.range 32).find? fun n => (b.streams.find n).isNone

/-- CPYOPEN at the commit (06 R95, R99): the stream is attached to its handles, with a credit for each slot of each inbound branch (06
R94), and a notice for each slot of an outbound handle that the PE has made full before; the engine starts it once the accesses of
the commit have returned. -/
def State.openStream (s : State) (f : Frame) (h : Nat) (d : Desc) (brs : List (Nat × Nat)) : State :=
  let bay := bayOf f.pe
  match freeStream (s.bay bay) with
  | none => s
  | some n =>
    let hd := s.handle f.pe h
    let full := (List.range (hd.nsl + 1)).filter fun k => hd.slotAt k == .full
    let st : Stream :=
      { live := true, issuer := f.agent, region := f.region, job := f.job, desc := d, inbound := hd.inbound,
        handles := brs, head := (f.pe, h), next := 0, credits := brs.map fun b => (s.handle b.1 b.2).nsl + 1,
        notices := if hd.inbound then [] else full, tiles := [], stopped := false, closing := false, after := f.port.pid,
        upto := s.nextId, started := false, bad := none, again := [], pair := none,
        port := { Port.blank with pid := s.nextId, who := .copy bay n, region := f.region, job := f.job, pts := f.port.pts } }
    ({ s with nextId := s.nextId + 1 }.onBay bay fun b => { b with streams := b.streams.set n st }).onHandles brs fun x =>
      { x with isOpen := true, opened := true, taken := 0, total := d.tileCount, joinPts := 0 }

/-- CPYCLOSE at the commit (06 R96, R100); on a poisoned handle its deferred record leaves the queue (24 R353). Log entry 75 (DESIGN CHOICE). -/
def State.cpyClose (s : State) (pe n : Nat) : State :=
  let h := s.handle pe n
  if h.psn then
    let s1 := (s.joinRecord pe n).onHandle pe n fun h => { h.freed with psn := false, fcode := 0 }
    match s1.streamFor pe n with
    | none => s1
    | some (b, k, st) =>
      let left := st.handles.filter (· != (pe, n))
      if left.isEmpty then s1.dropStream b k else s1.onStream b k fun x => { x with handles := left }
  else
    match s.streamFor pe n with
    | none => s
    | some (b, k, _) =>
      let s1 := s.onStream b k fun x => { x with closing := true }
      (if h.inbound then s1 else s1.onHandle pe n Handle.discard).settleStream b k

/-- A buffer or copy command at the commit. -/
def State.applyBuffer (s : State) (f : Frame) : Act → State
  | .bufdef h w => s.onHandle f.pe h fun _ => bindHandle w
  | .bufget h _ _ eos => s.onHandle f.pe h (·.get eos)
  | .bufput h => s.bufPut f.pe h
  | .cpyopen h d brs => s.openStream f h d brs
  | .cpyclose h => s.cpyClose f.pe h
  | _ => s

end Sys2Proof.Machine
end

