-- ==== Sys2Proof/Machine/BlockCheck.lean ====
section
/-! DEFINITION. BlockCheck: the checks of a whole block, made at fetch, at CFGLOAD and at restore (09 R133, R134, R137,
R140, R159, R160; 10 R163; 13 R201; 12 R191, R196; 09 R154; 14 R228; 17 R270; 15 R241). -/

namespace Sys2Proof.Machine

/-! ## Widths (13 R201) -/

/-- A size of 16 bytes. -/
def Sz.is128 (z : Sz) : Bool := szBytes z == 16

/-- The type has 512-bit operands and results. -/
def vecType (t : FType) : Bool := !t.scalar

/-- The result is 512 bits wide by the encoding. -/
def wideResult : Instr → Bool
  | .ldv _ _ _ _ | .ldlv _ _ _ _ => true
  | .ld _ _ _ z _ | .ldl _ _ _ z _ | .ldlw _ _ _ z _ _ | .gather _ _ _ z => Sz.is128 z
  | .atom _ _ _ z _ _ | .cas _ _ _ z _ | .atoml _ _ _ z _ _ => Sz.is128 z
  | .join _ _ m _ => m == .isect || m == .union
  | .fadd _ _ _ ty _ | .fsub _ _ _ ty _ | .fmul _ _ _ ty _ | .fma _ _ _ ty _ | .fdiv _ _ _ ty _
  | .fsqrt _ _ _ ty _ | .frsq _ _ _ ty _ | .fminmax _ _ _ ty _ | .fclass _ _ _ ty | .fsign _ _ _ ty _
  | .frnd _ _ _ ty _ | .fexp2 _ _ _ ty _ | .flog2 _ _ _ ty _ => vecType ty
  | .cvt _ _ dty _ _ _ _ => vecType dty
  | .gxpack _ _ _ _ | .gxunp _ _ _ _ _ => true
  | .vshuf _ _ _ _ _ | .vbcast _ _ _ _ => true
  | .vlane _ _ _ _ put => put
  | .site _ _ _ sel => sel != .count
  | _ => false

/-- READ of a v register in a node block is 512 bits wide (10 R163). -/
def wideIn (kind : BlockKind) : Instr → Bool
  | .read reg _ _ _ => kind == .node && 16 ≤ reg.toNat
  | i => wideResult i

/-- Operand k takes a 512-bit value. -/
def wideOperand (i : Instr) (k : Nat) : Bool :=
  match i with
  | .mov _ _ _ => true
  | .sel _ _ _ _ => k != 0
  | .st _ _ z _ | .stl _ _ z _ | .stlf _ _ z _ _ | .scatter _ z => k == 1 && Sz.is128 z
  | .stv _ _ _ | .stlv _ _ _ => k == 1
  | .atom _ _ _ z _ _ | .atoml _ _ _ z _ _ => k == 1 && Sz.is128 z
  | .cas _ _ _ z _ => k != 0 && Sz.is128 z
  | .fadd _ _ _ ty _ | .fsub _ _ _ ty _ | .fmul _ _ _ ty _ | .fma _ _ _ ty _ | .fdiv _ _ _ ty _
  | .fsqrt _ _ _ ty _ | .frsq _ _ _ ty _ | .fminmax _ _ _ ty _ | .fcmp _ _ _ ty _ | .fclass _ _ _ ty
  | .fsign _ _ _ ty _ | .frnd _ _ _ ty _ | .fexp2 _ _ _ ty _ | .flog2 _ _ _ ty _ => vecType ty
  | .cvt _ _ _ _ _ ty _ => vecType ty
  | .gxpack _ _ _ _ | .gxunp _ _ _ _ _ | .vred _ _ _ _ _ => true
  | .vshuf _ _ _ _ rot => k == 0 || !rot
  | .vlane _ _ _ _ _ | .vbcast _ _ _ _ => true
  | .vdot _ _ _ _ _ => k != 2
  | .lmarch _ _ _ _ | .callq _ _ _ => true
  | _ => false

/-! ## One slot -/

/-- The kind of block may hold an instruction. -/
def kindAllows (kind : BlockKind) : Legal → Bool
  | .any => true
  | .controlNode => kind != .rule
  | .control => kind == .control
  | .node => kind == .node
  | .rule => kind == .rule
  | .nowhere => false

/-- A target that names an operand or the predicate of a slot: the consumer stands forward, inside the block, and takes it, a
wide value with its full width (09 R137; 13 R201). A word that is no instruction is its own slot's fault. Log entry 47
(DEDUCED). -/
def slotTarget (is : List (Option Instr)) (own k opnd : Nat) (wide : Bool) : Bool :=
  own < k &&
  match is[k]? with
  | some (some c) => opnd < operandCount c && (!wide || wideOperand c opnd)
  | some none => true
  | none => false

/-- A target is legal at its place (09 R137). Log entry 87 (DEDUCED). -/
def targetOk (kind : BlockKind) (is : List (Option Instr)) (own : Nat) (wide : Bool) : Tgt → Bool
  | .none => true
  | .opL k => slotTarget is own k.toNat 0 wide
  | .opR k => slotTarget is own k.toNat 1 wide
  | .opX k => slotTarget is own k.toNat 2 wide
  | .pred k => own < k.toNat && !wide &&
      match is[k.toNat]? with
      | some (some c) => match predMode c with
        | some .always => false
        | some _ => true
        | none => false
      | some none => true
      | none => false
  | .reg r =>
    match kind with
    | .control => !wide
    | .node => r.toNat < 24 && (!wide || 16 ≤ r.toNat)
    | .rule => false
  | .port _ => kind != .control

/-- READ names a register of the block's own file (09 R140). -/
def readOk (kind : BlockKind) : Instr → Bool
  | .read reg _ _ _ => kind == .control || reg.toNat < 24
  | _ => true

/-- A FENCE names no group in a control block (11 R188). -/
def fenceOk (kind : BlockKind) : Instr → Bool
  | .fence _ _ scope => scope != .group || kind != .control
  | _ => true

/-- A slot of a block is a legal instruction (09 R159, Table 9-20). -/
def slotOk (header : Word) (kind : BlockKind) (is : List (Option Instr)) (own : Nat) : Bool :=
  match is.getD own none with
  | none => false
  | some i =>
    kindAllows kind (legalIn i) && readOk kind i && fenceOk kind i &&
    (match featureOf i with
      | some b => bitAt header b
      | none => true) &&
    (targetsOf i).all (targetOk kind is own (wideIn kind i))

/-! ## The block -/

/-- KIND of a header. -/
def headerKind (h : Word) : Option BlockKind :=
  match bits h 31 30 with
  | 0 => some .control
  | 1 => some .node
  | 2 => some .rule
  | _ => none

/-- A header breaks R133 where it stands. Log entry 72 (DEDUCED). -/
def badHeader (h : Word) (kind : BlockKind) : Bool :=
  headerKind h != some kind || bits h 15 14 != 0 || bits h 7 0 != 0

/-- What the check of a block finds: a fault and its slot. -/
structure BlockFault where
  code : FaultCode
  slot : Nat
  deriving DecidableEq, Repr

/-- The first slot that is no legal instruction. Log entry 47 (DEDUCED). -/
def firstBad (h : Word) (kind : BlockKind) (ws : List Word) : Option Nat :=
  let is := ws.map instrOf
  (List.range ws.length).find? fun k => !slotOk h kind is k

/-- The check of a block (09 R160): its header, then its slots. Every die has every feature (01 R10), so FEATURE never arises
on this module. A rule block makes no store-class access (15 R241). Log entry 47 (DEDUCED). -/
def blockFault (kind : BlockKind) (h : Word) (ws : List Word) : Option BlockFault :=
  if badHeader h kind || (kind == .rule && bits h 19 16 != 0) then some ⟨.blockfmt, 0⟩
  else (firstBad h kind ws).map fun k => ⟨.illinsn, k⟩

/-! ## Node blocks as the configuration reads them -/

/-- The instructions of a block. -/
def instrsOf (ws : List Word) : List Instr := ws.filterMap instrOf

/-- The ports read by RECV. -/
def recvPorts (is : List Instr) : List Nat :=
  is.filterMap fun i => match i with
    | .recv p _ _ => some p.toNat
    | _ => none
/-- The ports read by RECVK. -/
def keptPorts (is : List Instr) : List Nat :=
  is.filterMap fun i => match i with
    | .recvk p _ _ => some p.toNat
    | _ => none
/-- The ports read by RECVO. -/
def optPorts (is : List Instr) : List Nat :=
  is.filterMap fun i => match i with
    | .recvo p _ _ => some p.toNat
    | _ => none
/-- The ports read by JOIN. -/
def joinPorts (is : List Instr) : List Nat :=
  is.flatMap fun i => match i with
    | .join a b _ _ => [a.toNat, b.toNat]
    | _ => []
/-- The block reads port 63 through CTR (14 R228). Log entry 44 (DEDUCED). -/
def readsBound (is : List Instr) : Bool :=
  is.any fun i => match i with
    | .ctr _ _ _ bp _ => bp
    | _ => false
/-- How many CTR with BP the block holds. -/
def boundReaders (is : List Instr) : Nat :=
  (is.filter fun i => match i with
    | .ctr _ _ _ bp _ => bp
    | _ => false).length
/-- The block runs on an AG node only (12 R196). -/
def needsAg (is : List Instr) : Bool :=
  is.any fun i => match i with
    | .gather _ _ _ _ => true
    | .scatter _ _ => true
    | _ => false

/-- The mandatory ports of a node block (09 R151). -/
def mandatoryPorts (is : List Instr) : List Nat := recvPorts is ++ joinPorts is
/-- The ports whose frontier the configuration subscribes (09 R151; 14 R228). -/
def frontierPorts (is : List Instr) : List Nat :=
  keptPorts is ++ optPorts is ++ (if readsBound is then [63] else [])
/-- Every port that the block reads. -/
def readPorts (is : List Instr) : List Nat := mandatoryPorts is ++ keptPorts is ++ optPorts is
/-- A source block (09 R154). -/
def isSource (is : List Instr) : Bool := (readPorts is).isEmpty

/-- A list names a number twice. -/
def dupNat : List Nat → Bool
  | [] => false
  | x :: xs => xs.contains x || dupNat xs

/-- A node block breaks a rule about the ports that it reads: one reader a port, JOIN alone (12 R191); a kept or optional
port needs a mandatory one (09 R154); port 63 belongs to one CTR, which does not read it as RECV does (14 R228); a coalescing port is
read by RECV and is the only mandatory port (17 R270); GATHER and SCATTER run on AG nodes (12 R196). -/
def badNode (is : List Instr) (coal : W64) (onAg : Bool) : Bool :=
  let joins := joinPorts is
  let others := recvPorts is ++ keptPorts is ++ optPorts is
  dupNat (readPorts is) || 2 < joins.length || (!joins.isEmpty && !others.isEmpty) ||
  ((mandatoryPorts is).isEmpty && !(readPorts is).isEmpty) ||
  (readsBound is && ((readPorts is).contains 63 || 1 < boundReaders is || bitAt coal 63)) ||
  (List.range 64).any (fun p => bitAt coal p && (readPorts is).contains p && recvPorts is != [p]) ||
  (List.range 64).any (fun p => bitAt coal p && (readPorts is).contains p && !joins.isEmpty) ||
  (needsAg is && !onAg)

end Sys2Proof.Machine
end

