-- ==== Sys2Proof/Machine/Calls.lean ====
section
/-! DEFINITION. Calls: call records and CALLQ at its issue (22 R327 to R332). The queues and units are in CoproEv.lean, the
default microcode in Micro.lean. -/

namespace Sys2Proof.Machine

/-- Word k of a record. -/
def recWord (r : W512) (k : Nat) : W64 := BitVec.ofNat 64 (bits r (64 * k + 63) (64 * k))
/-- SEQ of a call header (22 Table 22-1). -/
def callSeq (r : W512) : Nat := bits r 63 32
/-- DOM. -/
def callDom (r : W512) : Nat := bits r 31 24
/-- NR: no return record is sent. -/
def callNr (r : W512) : Bool := bitAt r 23
/-- RCIRC. -/
def callCirc (r : W512) : Nat := bits r 21 10
/-- FUNC. -/
def callFunc (r : W512) : Nat := bits r 7 0

/-- The code of a queue (22 Table 22-13). -/
def queueCode : Queue → Nat
  | .rast => 0
  | .zb => 1
  | .tess => 2
  | .tfil => 3
  | .rtrav => 4
  | .asb => 5

/-- The queue of a code. -/
def queueOf : Nat → Option Queue
  | 0 => some .rast
  | 1 => some .zb
  | 2 => some .tess
  | 3 => some .tfil
  | 4 => some .rtrav
  | 5 => some .asb
  | _ => none

/-- The key of a return circuit in the region's table: a tag and the queue that feeds it (22 R332). -/
def retKey (tag : Nat) (q : Queue) : Nat := 8 * tag + queueCode q

/-- A record's header breaks R329. -/
def badCall (retTable : Map (Queue × Nat)) (q : Queue) (r : W512) : Bool :=
  bitAt r 22 || bits r 9 8 != 0 || (callNr r && callCirc r != 0) ||
  (!callNr r && (retTable.find (retKey (callCirc r) q)).isNone)

/-- CALLQ (22 R329): the header is checked at issue, and the record enters the queue at the commit. -/
def execCallq (p : Pm) (queue : Queue) (ord : Bool) (s : State) : Host.Outcome State Fault Refusal :=
  issue p 1 [] s fun
    | [a] =>
      if badCall s.myRegion.retTable queue a.bits then .trap ⟨.callfmt, recWord a.bits 0, 0⟩
      else .done (s.onCur (·.act (.callq queue ord a.bits))) []
    | _ => .done s []

end Sys2Proof.Machine
end

