-- ==== Sys2Proof/Machine/Image.lean ====
section
/-! DEFINITION. Image: reading through a translator as a fetch does (18 R275), section images (29 R420), CONF records
(17 R263 to R266, R270), and the checks that CFGLOAD makes of an image (18 R281, R423; 08 R118; 20 R293; 24 R366). -/

namespace Sys2Proof.Machine

/-! ## Reading as a fetch (18 R275) -/

/-- What a read finds: `error none` while a translation is withheld, a fault, or the bytes. -/
abbrev Fetched (α : Type) := State × Except (Option Trap) α

/-- FETCH with the address and a code of Table 5-3, or, with bit 8 set, of Table 2-4 (log entry 15 (DESIGN CHOICE)). -/
def fetchTrap (va : W64) (code : Nat) : Trap := ⟨.fetch, va, BitVec.ofNat 64 code⟩

/-- A line of 64 bytes at a virtual address, in the executive class with the job's tag. -/
def State.fetchLine (s : State) (w : Waiter) (rid : Nat) (va : W64) : Fetched W512 :=
  let r := s.region rid
  match s.fetchAddr w (.pe (16384 + rid)) rid r.job r.xroot va false with
  | (s, none) => (s, .error none)
  | (s, some (.error c)) => (s, .error (some (fetchTrap va c.num)))
  | (s, some (.ok a)) =>
    match s.readNow (BitVec.ofNat 16 r.job) 5 ⟨0, r.rect.home⟩ r.pts (a / 64 * 64) 64 with
    | (s, rep) =>
      match rep.err with
      | some e => (s, .error (some (fetchTrap va (256 + e.num))))
      | none => (s, .ok rep.val)

/-- Lines one after another, as bytes. -/
def State.fetchLines : Nat → State → Waiter → Nat → W64 → Fetched (List Byte)
  | 0, s, _, _, _ => (s, .ok [])
  | n + 1, s, w, rid, va =>
    match s.fetchLine w rid va with
    | (s, .error e) => (s, .error e)
    | (s, .ok v) =>
      match State.fetchLines n s w rid (va + 64) with
      | (s, .error e) => (s, .error e)
      | (s, .ok bs) => (s, .ok (leBytes 64 v.toNat ++ bs))

/-- The n bytes of a list from an offset, as a number. -/
def bytesFrom (bs : List Byte) (o n : Nat) : Nat := leNat ((bs.drop o).take n)

/-- A 16-bit entry of a list of bytes. -/
def half (bs : List Byte) (o : Nat) : BitVec 16 := BitVec.ofNat 16 (bytesFrom bs o 2)

/-! ## CONF records (17 Table 17-5) -/

/-- TYPE of a record. -/
def confType (w : W512) : Nat := bits w 7 0
/-- INDEX of a record. -/
def confIndex (w : W512) : Nat := bits w 15 8
/-- Word k of DATA. -/
def confWord (w : W512) (k : Nat) : Word := BitVec.ofNat 32 (bits w (64 + 32 * k + 31) (64 + 32 * k))
/-- A threshold of PORTS (17 R270). -/
def confTh (w : W512) (p : Nat) : Nat := bits w (64 + 66 + 3 * p) (64 + 64 + 3 * p)

/-- A record with a reserved TYPE, a nonzero reserved bit, or a coalescing port without threshold (17 R264, R270). -/
def badConf (w : W512) : Bool :=
  let t := confType w
  let x := confIndex w
  bits w 63 16 != 0 || t == 0 || 7 < t ||
  (t == 1 && 4 < x) || (t == 2 && (bits w 12 11 != 0 || 4 < x % 8)) || (t == 3 && 15 < x) || (t == 4 && 15 < x) ||
  (t == 6 && (List.range 64).any fun p => bitAt w (64 + p) && confTh w p == 0)

/-- The words that a block image may hold: five segments of fourteen. -/
def blankImage : List Word := List.replicate 70 0

/-- A block image with a segment replaced. -/
def putSegment (ws : List Word) (seg : Nat) (w : W512) : List Word :=
  ws.take (14 * seg) ++ (List.range 14).map (confWord w) ++ ws.drop (14 * seg + 14)

/-- A configuration with a record applied (17 R264). -/
def PeConfig.record (c : PeConfig) (w : W512) : PeConfig :=
  let x := confIndex w
  match confType w with
  | 1 => { c with node := some (putSegment (c.node.getD blankImage) x w) }
  | 2 => { c with rules := c.rules.set (x / 32) (putSegment (Map.get blankImage c.rules (x / 32)) (x % 8) w) }
  | 3 => { c with nregs := c.nregs.set x (BitVec.ofNat 64 (bits w 127 64)) }
  | 4 =>
    let half := BitVec.ofNat 256 (bits w 319 64)
    { c with vregs := c.vregs.set x half }
  | 5 => { c with groups := BitVec.ofNat 36 (bits w 99 64) }
  | 6 => { c with coalMask := BitVec.ofNat 64 (bits w 127 64),
                  coalTh := (List.range 64).foldl (fun m p =>
                    if bitAt w (64 + p) then Map.set m p (confTh w p) else m) [] }
  | 7 => { c with ended := true }
  | _ => c

/-- The header of a block image. -/
def imageHeader (ws : List Word) : Word := ws.headD 0
/-- The slots of a block image. -/
def imageSlots (ws : List Word) : List Word := (ws.drop 1).take (bits (imageHeader ws) 29 24 + 1)

/-- The groups of a configuration's slots. -/
def groupList (groups : BitVec 36) : List Nat := (List.range 4).filterMap (groupIn groups)

/-! ## Section images (29 R420) -/

/-- The PE record of an image at an address: its lines, whose number its first word gives. -/
def State.fetchRecord (s : State) (w : Waiter) (rid : Nat) (va : W64) : Fetched (List Byte) :=
  match s.fetchLines 1 w rid va with
  | (s, .error e) => (s, .error e)
  | (s, .ok bs) =>
    let n := ceilDiv (8 + 64 * bytesFrom bs 2 2 + 2 * bytesFrom bs 4 2) 64
    match s.fetchLines (n - 1) w rid (va + 64) with
    | (s, .error e) => (s, .error e)
    | (s, .ok more) => (s, .ok (bs ++ more))

/-- Records one after another. -/
def State.fetchRecords : Nat → State → Waiter → Nat → W64 → Fetched (List (List Byte))
  | 0, s, _, _, _ => (s, .ok [])
  | n + 1, s, w, rid, va =>
    match s.fetchRecord w rid va with
    | (s, .error e) => (s, .error e)
    | (s, .ok bs) =>
      match State.fetchRecords n s w rid (va + BitVec.ofNat 64 bs.length) with
      | (s, .error e) => (s, .error e)
      | (s, .ok rs) => (s, .ok (bs :: rs))

/-- A map from pairs. -/
def mapOf {α : Type} (l : List (Nat × α)) : Map α := l.foldl (fun m e => Map.set m e.1 e.2) []

/-- A PE record parsed; none where its tables are too short. -/
def peImageOf (bs : List Byte) : Option PeImage :=
  let c := bytesFrom bs 2 2
  let t := bytesFrom bs 4 2
  let o := 8 + 64 * c
  if t < 194 then none
  else
    let n := (t - 194) / 2
    let lo := o + 128 + 4 * n
    some
      { place := bytesFrom bs 0 2, confs := (List.range c).map fun k => BitVec.ofNat 512 (bytesFrom bs (8 + 64 * k) 64),
        outp := mapOf ((List.range 64).filterMap fun p =>
          let e := half bs (o + 2 * p)
          if e == 0 then none else some (p, e)),
        sw := mapOf ((List.range n).map fun k => (bytesFrom bs (o + 128 + 4 * k) 2, half bs (o + 130 + 4 * k))),
        locs := mapOf ((List.range 65).filterMap fun i =>
          let e : BitVec 32 := BitVec.ofNat 32 (bytesFrom bs (lo + 4 * i) 4)
          if e == 0 then none else some (i, e)),
        base := 0 }

/-- An image as it is read: words of its first 64 bytes, the return list and the PE records. -/
structure RawImage where
  head : List Byte
  rets : List Byte
  pes  : List (List Byte)

/-- Word k of an image's first 64 bytes. -/
def RawImage.word (r : RawImage) (k : Nat) : W64 := BitVec.ofNat 64 (bytesFrom r.head (8 * k) 8)

/-- Read an image (18 R281). -/
def State.fetchImage (s : State) (w : Waiter) (rid : Nat) (va : W64) : Fetched RawImage :=
  match s.fetchLines 1 w rid va with
  | (s, .error e) => (s, .error e)
  | (s, .ok head) =>
    let nret := bytesFrom head 32 2
    let lines := ceilDiv (2 * nret) 64
    match s.fetchLines lines w rid (va + 64) with
    | (s, .error e) => (s, .error e)
    | (s, .ok rets) =>
      match s.fetchRecords (bytesFrom head 8 8) w rid (va + 64 + BitVec.ofNat 64 (64 * lines)) with
      | (s, .error e) => (s, .error e)
      | (s, .ok pes) => (s, .ok ⟨head, rets, pes⟩)

/-- The configuration that a PE's records make, with its tables. -/
def PeImage.config (p : PeImage) : PeConfig :=
  p.confs.foldl PeConfig.record { PeConfig.blank with outp := p.outp, locs := p.locs }

/-- The instructions of a configuration's node block. -/
def PeConfig.instrs (c : PeConfig) : List Instr :=
  match c.node with
  | some ws => instrsOf (imageSlots ws)
  | none => []

/-- What the section commands know of a configured node. -/
def PeImage.info (p : PeImage) : Option NodeInfo :=
  let c := p.config
  if c.node.isSome then
    some ⟨p.place, if isSource c.instrs then c.sloc else none, readsBound c.instrs, c.iloc 63, groupList c.groups⟩
  else none

/-- The locations of a PE's tables. -/
def PeImage.locations (p : PeImage) : List Nat :=
  let c := p.config
  ((List.range 64).filterMap c.iloc) ++ c.sloc.toList

/-- What the graph of a job says of the section at an address. Log entry 20 (DEDUCED). -/
def sectionAt (k : LaunchPackage) (va : W64) : SectionMeta :=
  (k.sections.find? fun m => m.image == va).getD ⟨va, [], [], [], [], 0, 0⟩

/-- The control location that word 3 names. -/
def controlOf (w : W64) : Option (Nat × Nat) := if bitAt w 63 then some (bits w 9 0, bits w 20 18) else none

/-- The return circuits of an image, with their queue codes. -/
def RawImage.retList (r : RawImage) : List (BitVec 16) := (List.range (bytesFrom r.head 32 2)).map fun k => half r.rets (2 * k)

/-- The records of an image, each with the byte offset at which it stands. -/
def recordsAt : Nat → List (List Byte) → List (Option PeImage)
  | _, [] => []
  | o, bs :: rs => (peImageOf bs).map (fun p => { p with base := o }) :: recordsAt (o + bs.length) rs

/-- An image parsed; none where a record is malformed. -/
def RawImage.parse (r : RawImage) (va : W64) (m : SectionMeta) : Option SectImage :=
  let pes := recordsAt (64 + r.rets.length) r.pes
  if pes.any Option.isNone then none
  else
    let pes := pes.filterMap id
    let ctl := controlOf (r.word 3)
    let qs := m.queues
    some
      { info :=
          { image := va, nodes := pes.filterMap PeImage.info,
            locs := (pes.flatMap PeImage.locations ++ (ctl.map Prod.fst).toList ++
              qs.flatMap fun q => [q.2.1, q.2.2]).eraseDups,
            sinks := m.sinks, ctl := ctl, queues := qs, mail := m.mail,
            sbb := if r.word 2 == 0 then [] else mapOf m.sbb, nthr := m.nthr, entry := m.entry },
        pes := pes,
        rets := r.retList.filterMap fun e => (queueOf (bits e 14 12)).map fun q => (bits e 11 0, q) }

/-! ## Checks (18 R281) -/

/-- The tables of an image stand in the boxes of a region: what the checks of its routes look at. -/
def State.withImage (s : State) (rid : Nat) (img : SectImage) : State :=
  let r := s.region rid
  let s := s.onRegion rid fun r => { r with info := img.info, nextInfo := SectInfo.blank }
  let s := { s with pes := r.nodes.foldl (fun m k =>
    Map.set m k { Pe.blank with region := some rid }) s.pes }
  img.pes.foldl (fun s p =>
    match r.keyAt p.place with
    | some k => s.onPe k fun q => { q with switch := p.sw, active := p.config }
    | none => s) s

/-- An entry breaks R118 by its own bits, or delivers to port 63 (18 R281). -/
def badEntry (tag : Nat) (e : BitVec 16) : Bool :=
  4095 < tag || !entryV e || bits e 3 0 != 0 || (!entryL e && entryPort e != 0) ||
  (!entryL e && (entrySides e).isEmpty) || (entryL e && entryPort e == 63)

/-- Two entries deliver to one port. -/
def portClash (sw : Map (BitVec 16)) : Bool := dupNat ((sw.filter fun e => entryL e.2).map fun e => entryPort e.2)

/-- An entry forwards where no entry of the tag stands. -/
def badForward (s : State) (r : Region) (key : Nat) (e : Nat × BitVec 16) : Bool :=
  (entrySides e.2).any fun side =>
    match r.hop key side e.1 with
    | none => true
    | some (.mail _ _ _) => false
    | some (.box k) => !entryV ((s.pe k).entry e.1)

/-- An edge action at a depth outside its row, and the depth that the row gives its destination (20 R293). -/
def actDepth (act depth : Nat) : Option Nat :=
  match act with
  | 0 => some depth
  | 1 => if depth ≤ 3 then some (depth + 1) else none
  | 2 => if 1 ≤ depth then some depth else none
  | _ => if 1 ≤ depth then some (depth - 1) else none

/-- An output port of a node breaks R293. -/
def badAction (s : State) (key port : Nat) : Bool :=
  let p := s.pe key
  match p.tagOf port with
  | none => false
  | some tag =>
    match actDepth (p.active.act port) p.active.depth with
    | none => true
    | some d => (s.ends key tag).any fun e => (s.pe e.1).region == p.region && (s.pe e.1).active.depth != d

/-- A location table has a reserved bit set, or a depth above 4. -/
def badLocs (m : Map (BitVec 32)) : Bool :=
  m.any fun e => if e.1 < 64 then bits e.2 20 19 != 0 || bits e.2 15 0 != 0 else bits e.2 17 0 != 0 || 4 < bits e.2 20 18

/-- The tokens that the circuits ending at a PE can hold (24 R366). -/
def channelRoom (s : State) (r : Region) (key : Nat) : Nat :=
  let p := s.pe key
  (p.switch.filter fun e => entryL e.2).foldl (fun n e =>
    let boxes := (r.nodes.filter fun k => entryV ((s.pe k).entry e.1)).length
    let mails := (r.mail.filter fun m => m.tag == e.1).length
    n + 4 + (Map.get 1 p.active.coalTh (entryPort e.2) - 1) + 2 * boxes + 16 * mails) 0

/-- How many of some mailbox edges have a queue in a slice. -/
def edgesIn (ms : List MailEdge) (slice : Nat) : Nat := (ms.filter fun m => m.slice == slice || m.second == some slice).length

/-- The queues of a mailbox slice over all regions but one, those of saved contexts with them (08 R126; 24 R362). -/
def State.mailCount (s : State) (rid slice : Nat) : Nat :=
  s.regions.foldl (fun n e => if e.1 = rid then n else n + edgesIn e.2.mail slice) 0 +
  s.saves.foldl (fun n e => n + edgesIn e.2.region.mail slice) 0

/-- A slice is in a bridge stack on the seam between two dies (01 Table 1-2). -/
def onSeam (slice a b : Nat) : Bool :=
  match seamOfSlice slice, seamBetween a b with
  | some n, some m => n == m
  | _, _ => false

/-- A mailbox edge of a region on die `d` crosses its seams by bridge stacks on them: one seam to a neighbouring die, two to a
diagonal one (01 R8; 08 R126). -/
def edgeCrosses (d : Nat) (m : MailEdge) : Bool :=
  let e := peDie m.toPe
  match m.second with
  | none => onSeam m.slice d e
  | some q => (List.range 4).any fun x => x != e && d != e && onSeam m.slice d x && onSeam q x e

/-- A mailbox edge of an image does not cross its seams, or would give a slice more than 480 queues (08 R126). -/
def badMail (s : State) (rid : Nat) (img : SectImage) (m : MailEdge) : Bool :=
  let r := s.region rid
  !edgeCrosses r.rect.d m ||
  (m.slice :: m.second.toList).any fun q =>
    480 < s.mailCount rid q + edgesIn img.info.mail q + (if s.sectView.st == .draining then edgesIn r.info.mail q else 0)

/-- The place of the PE at which the routes of an image break R118, R126, R281, R293, R366 or R423: 0 where the image as a
whole does (18 Table 18-5; log entry 15 (DESIGN CHOICE)). -/
def badRoutes (s : State) (rid : Nat) (raw : RawImage) (img : SectImage) : Option Nat :=
  let r := s.region rid
  let t := s.withImage rid img
  let tr := t.region rid
  if bits (raw.word 0) 7 2 != bits r.sysreg 7 2 || raw.retList.any (fun e => bitAt e 15 || (queueOf (bits e 14 12)).isNone) then some 0
  else
    match img.pes.find? fun p => match r.keyAt p.place with
      | none => true
      | some key =>
        p.sw.any (fun e => badEntry e.1 e.2 || badForward t tr key e) || portClash p.sw || 256 < p.sw.length ||
        p.outp.any (fun e => bits e.2 14 12 != 0) || badLocs p.locs ||
        (List.range 64).any (badAction t key) || 188 < channelRoom t tr key ||
        (s.sectView.st == .draining &&
          (p.sw.any (fun e => entryV ((s.pe key).entry e.1) && (s.pe key).entry e.1 != e.2) ||
            256 < ((s.pe key).switch.keys ++ p.sw.keys).eraseDups.length)) with
    | some p => some p.place
    | none => (img.info.mail.find? (badMail s rid img)).map (·.pe)

/-- Image address, PE and slot of a fault of CFGLOAD (18 Table 18-5; log entry 15 (DESIGN CHOICE)). -/
def imageTrap (c : FaultCode) (va : W64) (place slot : Nat) : Trap :=
  ⟨c, va, packFields 64 [(0, 16, place), (16, 6, slot)]⟩

/-- The first slot of a node block whose FENCE names a group slot that the node does not hold (11 R188). -/
def PeConfig.unheldFence (c : PeConfig) : Option Nat :=
  let is := (imageSlots (c.node.getD [])).map instrOf
  (List.range is.length).find? fun k => match is.getD k none with
    | some (.fence _ g .group) => (groupIn c.groups g.toNat).isNone
    | _ => false

/-- The first fault of the blocks of a configuration (09 R160; 12 R191). -/
def configFault (c : PeConfig) (confs : List W512) (onAg : Bool) : Option BlockFault :=
  if confs.any badConf then some ⟨.blockfmt, 0⟩
  else
    match (match c.node with
      | some ws => blockFault .node (imageHeader ws) (imageSlots ws)
      | none => none) with
    | some f => some f
    | none =>
      if badNode c.instrs c.coalMask onAg then some ⟨.illinsn, 0⟩
      else if let some k := c.unheldFence then some ⟨.illinsn, k⟩
      else c.rules.findSome? fun e => blockFault .rule (imageHeader e.2) (imageSlots e.2)

/-- A configuration names a group that is not defined, or one group twice (17 R266). -/
def badGroups (s : State) (job : Nat) (groups : BitVec 36) : Bool :=
  (groupList groups).any (fun g => !bitAt (Map.get 0 (s.job job).pkg.groups g) 63) || dupNat (groupList groups)

/-- The fault of an image that is found first (18 R281). Log entry 56 (DEDUCED). -/
def imageFault (s : State) (rid : Nat) (va : W64) (raw : RawImage) (img : SectImage) : Option Trap :=
  let r := s.region rid
  match badRoutes s rid raw img with
  | some place => some (imageTrap .badroute va place 0)
  | none =>
    match img.pes.findSome? fun p =>
      (configFault p.config p.confs (r.rect.w * r.rect.h ≤ p.place)).map fun f => imageTrap f.code va p.place f.slot with
    | some t => some t
    | none =>
      match img.info.sbb.findSome? fun e =>
        (configFault { PeConfig.blank with node := some e.2 } [] false).map fun f => imageTrap f.code va 0 f.slot with
      | some t => some t
      | none =>
        (img.pes.find? fun p => badGroups s r.job p.config.groups).map fun p =>
          sectTrap .badgroup s 0 (p.config.groups.setWidth 64)

end Sys2Proof.Machine
end

