-- ==== Sys2Proof/Machine/Fences.lean ====
section
/-! DEFINITION. Fences: the writes that a FENCE and an EPFENCE wait for, and the timestamps that they join (11 R188, R189; 12 R200;
14 R224, R226; 16 R252). -/

namespace Sys2Proof.Machine

/-- The FENCE scopes of a block that have issued. -/
def Frame.fences (f : Frame) : List (FenceScope × Nat) :=
  f.acts.filterMap fun a => match a.2 with
    | .fence sc g => some (sc, g)
    | _ => none

/-- The block holds an EPFENCE. -/
def Frame.epfences (f : Frame) : Bool := f.acts.any fun a => a.2 == .epfence

/-- The node of an agent holds a group. -/
def State.inGroup (s : State) (g : Option Nat) (a : Agent) : Bool :=
  match g, agentKey a with
  | some n, some k => (groupList (s.pe k).active.groups).contains n
  | _, _ => false

/-- The group that a block's node holds in a slot. -/
def State.groupOf (s : State) (f : Frame) (slot : Nat) : Option Nat :=
  (agentKey f.agent).bind fun k => groupIn (s.pe k).active.groups slot

/-- Writes of one issuer: the agent whose they are, or for which a copy or a coprocessor call makes them (`own` false); the port, the
region and the job. -/
structure Writer where
  agent  : Agent
  own    : Bool
  pid    : Nat
  region : Nat
  job    : Nat
  deriving DecidableEq, Repr

/-- A scope that takes in copies and coprocessor calls, which are agents of their own (11 Table 11-5; 16 R248). -/
def wideScope (scope : FenceScope) : Bool := scope == .region || scope == .device || scope == .system

/-- The writes of an issuer are in the scope of a FENCE of a block (11 Table 11-5). -/
def State.inScope (s : State) (f : Frame) (scope : FenceScope) (gslot : Nat) (w : Writer) : Bool :=
  (w.own || wideScope scope) &&
  match scope with
  | .firing => w.pid == f.port.pid
  | .node => sameAgent w.agent f.agent
  | .group => w.job == f.job && s.inGroup (s.groupOf f gslot) w.agent
  | .region => w.region == f.region
  | .device | .system => w.job == f.job

/-! ## What has been acknowledged (16 R252) -/

/-- The FENCEs of a block that waits take a timestamp, when its write entered before their commit and is in a scope. Log entry
57 (DEDUCED). -/
def State.fenceTakes (s : State) (w : Writer) (id wts : Nat) (f : Frame) : Frame :=
  match f.phase with
  | .fencing upto =>
    if f.live && id < upto && f.fences.any fun x => s.inScope f x.1 x.2 w then { f with fenceW := max f.fenceW wts } else f
  | _ => f

/-- Give each block in execution what it takes. -/
def State.onFrames (s : State) (g : Frame → Frame) : State := { s with cur := g s.cur, parked := s.parked.map g }

/-- A write with a request number has been acknowledged with a wts: the FENCEs that wait for it take it, and later ones find the
greatest of its agent, its region and its job. -/
def State.noteAck (s : State) (w : Writer) (id wts : Nat) : State :=
  let s := s.onFrames (s.fenceTakes w id wts)
  let s := if !w.own then s else match w.agent with
    | .ctl r => s.onRegion r fun g => { g with ctlWHi := max g.ctlWHi wts }
    | a => match agentKey a with
      | some k => s.onPe k fun q => { q with wHi := max q.wHi wts }
      | none => s
  let s := if w.region == hubRegion then s else s.onRegion w.region fun g => { g with wHi := max g.wHi wts }
  s.onJob w.job fun j => { j with wHi := max j.wHi wts }

/-- The issuer whose writes a port carries. -/
def State.portWriter (s : State) (p : Port) : Writer :=
  match p.who with
  | .blk a => ⟨a, true, p.pid, p.region, p.job⟩
  | .copy b n => ⟨match (s.bay b).streams.find n with
      | some st => st.issuer
      | none => .ctl hubRegion, false, p.pid, p.region, p.job⟩

/-! ## Commands of the matrix unit -/

/-- A command of the matrix unit writes memory (14 R226, R229). -/
def MatOp.writesMemory : MatOp → Bool
  | .mst _ _ _ _ _ false => true
  | .job _ _ _ => true
  | _ => false

/-- A command of the matrix unit is a device tile load. -/
def MatOp.loadsDevice : MatOp → Bool
  | .load l => !l.loc
  | _ => false

/-- A FENCE of a block joins a device tile load of its agent that entered the queue before the block began (14 R224). -/
def Frame.joinsLoad (f : Frame) (c : MatCmd) : Bool :=
  f.fences.any (fun x => x.1 != .firing) && c.op.loadsDevice && sameAgent c.agent f.agent && c.id < f.since

/-- The writer that a command of a unit is. -/
def MatCmd.writer (c : MatCmd) (p : Pe) : Writer := ⟨c.agent, true, c.after, p.region.getD hubRegion, c.job⟩

/-- A device tile load has completed with its greatest wts: the FENCEs that wait for it take it, and later ones find it (14 R224). -/
def State.joinLoad (s : State) (key : Nat) (c : MatCmd) : State :=
  let s := s.onFrames fun f => match f.phase with
    | .fencing _ => if f.live && f.joinsLoad c then { f with fenceW := max f.fenceW c.wHi } else f
    | _ => f
  s.onPe key fun p => { p with matrix := match c.agent with
    | .ctl _ => { p.matrix with joinCtl := max p.matrix.joinCtl c.wHi }
    | _ => { p.matrix with joinPts := max p.matrix.joinPts c.wHi } }

/-! ## Host endpoints (12 R200) -/

/-- A transfer writes the host: the tile of an inbound stream reads it (12 R200). -/
def State.hostWrite (s : State) (t : Endpoint) : Bool :=
  match t.what with
  | .tile b n _ => match (s.bay b).streams.find n with
    | some st => !st.inbound
    | none => true
  | _ => true

/-- How many tiles of an outbound stream the PE has made full. -/
def State.tilesPut (s : State) (st : Stream) : Nat :=
  let b := st.head
  st.next + ((s.handle b.1 b.2).slots.filter (· == .full)).length

/-- A running outbound stream to a host endpoint. -/
def Stream.toHost (st : Stream) : Bool := st.live && st.desc.ep && !st.inbound && !st.stopped

/-- The host streams of some issuers, each by its port and with the tiles that are full now (12 R200). -/
def State.hostStreams (s : State) (q : Stream → Bool) : List (Nat × Nat) :=
  s.bays.flatMap fun b => (b.2.streams.filter fun e => e.2.toHost && q e.2).map fun e => (e.2.port.pid, s.tilesPut e.2)

/-- A host stream has still to see acknowledged one of its first tiles. -/
def State.tilesOwed (s : State) (x : Nat × Nat) : Bool :=
  s.bays.any fun b => b.2.streams.any fun e =>
    e.2.toHost && e.2.port.pid == x.1 && (e.2.next < x.2 || e.2.tiles.any fun t => t.idx < x.2)

/-- The host streams that the EPFENCE and the FENCE.system of a block wait for. -/
def State.epStreams (s : State) (f : Frame) : List (Nat × Nat) :=
  let sys := f.fences.any fun x => x.1 == .system
  s.hostStreams fun st => (f.epfences && sameAgent st.issuer f.agent) || (sys && st.job == f.job)

/-- Endpoint writes that left before a number are still to be acknowledged (12 R200). -/
def State.endpointsOwed (s : State) (upto : Nat) (q : Endpoint → Bool) : Bool :=
  s.transfers.any fun t => s.hostWrite t && q t && t.id < upto

/-! ## Waiting -/

/-- A FENCE still waits for writes (11 R189; 14 R226). Log entry 57 (DEDUCED). -/
def State.fenceWaits (s : State) (f : Frame) (upto : Nat) (scope : FenceScope) (gslot : Nat) : Bool :=
  s.ports.any (fun p => s.inScope f scope gslot (s.portWriter p) && p.writesBefore upto) ||
  s.pes.any (fun e => e.2.matrix.queue.any fun c =>
    c.id < upto && c.op.writesMemory && s.inScope f scope gslot (c.writer e.2)) ||
  (scope == .system && s.endpointsOwed upto fun t => t.job == f.job)

/-- A FENCE still waits for a tile load (14 R224). Log entry 57 (DEDUCED). -/
def State.loadWaits (s : State) (f : Frame) : Bool := s.pes.any fun e => e.2.matrix.queue.any f.joinsLoad

/-- An EPFENCE still waits (12 R200). Log entry 57 (DEDUCED). -/
def State.epWaits (s : State) (f : Frame) (upto : Nat) : Bool :=
  f.epfences && s.endpointsOwed upto fun t => sameAgent t.agent f.agent

/-- The greatest wts that writes in a scope have been acknowledged with so far, all of them issued before this commit (16
R252); a scope of a node or wider also joins the agent's tile loads (14 R224). Log entry 57 (DEDUCED). -/
def State.fenceSoFar (s : State) (f : Frame) (x : FenceScope × Nat) : Nat :=
  let m := (s.pe f.pe).matrix
  let own := match f.agent with
    | .ctl r => ((s.region r).ctlWHi, m.joinCtl)
    | a => match agentKey a with
      | some k => ((s.pe k).wHi, m.joinPts)
      | none => (0, 0)
  match x.1 with
  | .firing => f.port.wHi
  | .node => max own.1 own.2
  | .group => (s.pes.filter fun e => (e.2.region.map fun r => (s.region r).job) == some f.job &&
      s.inGroup (s.groupOf f x.2) (.node e.1)).foldl (fun n e => max n e.2.wHi) own.2
  | .region => max own.2 (s.region f.region).wHi
  | .device | .system => max own.2 (s.job f.job).wHi

end Sys2Proof.Machine
end

