-- ==== Sys2Proof/Machine/FloatInstr.lean ====
section
/-! DEFINITION. FloatInstr: the floating-point and conversion instructions (13 R201 to R212). -/

namespace Sys2Proof.Machine

/-- A result of a type: 512 bits for a vector, else 64 (13 R201). -/
def ofType (t : FType) (v : W512) : Value := ⟨.data, !t.scalar, false, v⟩

/-- Issue an instruction that computes one result with flags and does nothing else; the flags take effect at the commit
(13 R202). `vec`: a vector instruction, which a counter may count (26 Table 26-7). -/
def issueFlag (p : Pm) (n : Nat) (ts : List Tgt) (vec : Bool) (s : State) (g : List Value → Value × Flags) :
    Host.Outcome State Fault Refusal :=
  issue p n ts s fun vs => .done ((s.onCur (·.flag (g vs).2)).tallyCur 0x04 (b2n vec)) (toEach ts (g vs).1)

/-- A unary lane operation. -/
def floatOp1 (t : FType) (g : Nat → Nat × Flags) : List Value → Value × Flags
  | [a] => let r := lanes1 t g a.bits; (ofType t r.1, r.2)
  | _ => (.data 0, Flags.none)

/-- A binary lane operation. -/
def floatOp2 (t : FType) (g : Nat → Nat → Nat × Flags) : List Value → Value × Flags
  | [a, b] => let r := lanes2 t g a.bits b.bits; (ofType t r.1, r.2)
  | _ => (.data 0, Flags.none)

/-- A ternary lane operation. -/
def floatOp3 (t : FType) (g : Nat → Nat → Nat → Nat × Flags) : List Value → Value × Flags
  | [a, b, c] => let r := lanes3 t g a.bits b.bits c.bits; (ofType t r.1, r.2)
  | _ => (.data 0, Flags.none)

/-! ## Arithmetic (13 Table 13-2) -/

/-- FADD (13 R203). -/
def execFadd (p : Pm) (t u : Tgt) (ty : FType) (rnd : Round) (s : State) : Host.Outcome State Fault Refusal :=
  issueFlag p 2 [t, u] (!ty.scalar) s (floatOp2 ty ((ftFmt ty).add rnd))

/-- FSUB (13 R203). -/
def execFsub (p : Pm) (t u : Tgt) (ty : FType) (rnd : Round) (s : State) : Host.Outcome State Fault Refusal :=
  issueFlag p 2 [t, u] (!ty.scalar) s (floatOp2 ty ((ftFmt ty).sub rnd))

/-- FMUL (13 R203). -/
def execFmul (p : Pm) (t u : Tgt) (ty : FType) (rnd : Round) (s : State) : Host.Outcome State Fault Refusal :=
  issueFlag p 2 [t, u] (!ty.scalar) s (floatOp2 ty ((ftFmt ty).mul rnd))

/-- FMA (13 R203): rounded once. -/
def execFma (p : Pm) (t u : Tgt) (ty : FType) (rnd : Round) (s : State) : Host.Outcome State Fault Refusal :=
  issueFlag p 3 [t, u] (!ty.scalar) s (floatOp3 ty ((ftFmt ty).fma rnd))

/-- FDIV (13 R203). -/
def execFdiv (p : Pm) (t u : Tgt) (ty : FType) (rnd : Round) (s : State) : Host.Outcome State Fault Refusal :=
  issueFlag p 2 [t, u] (!ty.scalar) s (floatOp2 ty ((ftFmt ty).div rnd))

/-- FSQRT (13 R203). -/
def execFsqrt (p : Pm) (t u : Tgt) (ty : FType) (rnd : Round) (s : State) : Host.Outcome State Fault Refusal :=
  issueFlag p 1 [t, u] (!ty.scalar) s (floatOp1 ty ((ftFmt ty).sqrt rnd))

/-- FRSQ (13 R203). -/
def execFrsq (p : Pm) (t u : Tgt) (ty : FType) (rnd : Round) (s : State) : Host.Outcome State Fault Refusal :=
  issueFlag p 1 [t, u] (!ty.scalar) s (floatOp1 ty ((ftFmt ty).rsq rnd))

/-- FRND (13 R203). -/
def execFrnd (p : Pm) (t u : Tgt) (ty : FType) (rnd : Round) (s : State) : Host.Outcome State Fault Refusal :=
  issueFlag p 1 [t, u] (!ty.scalar) s (floatOp1 ty ((ftFmt ty).rndInt rnd))

/-- FEXP2 (13 R203). -/
def execFexp2 (p : Pm) (t u : Tgt) (ty : FType) (rnd : Round) (s : State) : Host.Outcome State Fault Refusal :=
  issueFlag p 1 [t, u] (!ty.scalar) s (floatOp1 ty ((ftFmt ty).exp2 rnd))

/-- FLOG2 (13 R203). -/
def execFlog2 (p : Pm) (t u : Tgt) (ty : FType) (rnd : Round) (s : State) : Host.Outcome State Fault Refusal :=
  issueFlag p 1 [t, u] (!ty.scalar) s (floatOp1 ty ((ftFmt ty).log2 rnd))

/-! ## Minimum, maximum, comparison, class, sign -/

/-- FMINMAX (13 R204). -/
def execFminmax (p : Pm) (t u : Tgt) (ty : FType) (sub : MinMaxSub) (s : State) : Host.Outcome State Fault Refusal :=
  issueFlag p 2 [t, u] (!ty.scalar) s (floatOp2 ty ((ftFmt ty).minMax sub))

/-- The mask of a comparison: bit i for lane i (13 R205). -/
def cmpMask (ty : FType) (sub : FCmpSub) (a b : W512) : W64 × Flags :=
  let n := ftLanes ty
  let rs := List.zipWith ((ftFmt ty).cmp sub) (lanesOf a ty.bits n) (lanesOf b ty.bits n)
  (BitVec.ofNat 64 (lanesNat 1 (rs.map fun r => b2n r.1)), rs.foldl (fun f r => f.or r.2) Flags.none)

/-- FCMP (13 R205): a 64-bit mask. -/
def execFcmp (p : Pm) (t u : Tgt) (ty : FType) (sub : FCmpSub) (s : State) : Host.Outcome State Fault Refusal :=
  issueFlag p 2 [t, u] (!ty.scalar) s fun
    | [a, b] => (.data (cmpMask ty sub a.bits b.bits).1, (cmpMask ty sub a.bits b.bits).2)
    | _ => (.data 0, Flags.none)

/-- FCLASS (13 R206). -/
def execFclass (p : Pm) (t u : Tgt) (ty : FType) (s : State) : Host.Outcome State Fault Refusal :=
  issueFlag p 1 [t, u] (!ty.scalar) s (floatOp1 ty fun a => ((ftFmt ty).classOf a, Flags.none))

/-- FSIGN (13 R207). -/
def execFsign (p : Pm) (t u : Tgt) (ty : FType) (sub : FSignSub) (s : State) : Host.Outcome State Fault Refusal :=
  issueFlag p 2 [t, u] (!ty.scalar) s (floatOp2 ty fun a b => ((ftFmt ty).signOp sub a b, Flags.none))

/-! ## Conversions -/

/-- The random bits of one lane of an instruction with `.rsd` (03 R40, R41): the firing's time, P, the slot and the
source lane. -/
def Frame.random (f : Frame) (lane : Nat) : Nat := (mix32 f.time (agentNumber f.agent) f.turn lane).toNat

/-- The lanes of a source, converted (13 R208). -/
def cvtLanes (f : Frame) (ty dty : FType) (rsd : Bool) (rnd : Round) (a : W512) (lo n : Nat) : List (Nat × Flags) :=
  (List.range n).map fun i =>
    (ftFmt ty).convert (ftFmt dty) rnd (if rsd then some (f.random (lo + i)) else none) (lane a ty.bits (lo + i))

/-- The value of a CVT (13 R209). -/
def cvtValue (f : Frame) (ty dty : FType) (rsd : Bool) (part : Nat) (rnd : Round) (a : W512) : W512 × Flags :=
  let ns := ftLanes ty
  let nd := ftLanes dty
  if ty.bits < dty.bits then
    let rs := cvtLanes f ty dty rsd rnd a (part * nd) nd
    (ofLanes dty.bits (rs.map Prod.fst), flagsOf rs)
  else
    let rs := cvtLanes f ty dty rsd rnd a 0 ns
    (ofLanes dty.bits (List.replicate (part * ns) 0 ++ rs.map Prod.fst), flagsOf rs)

/-- CVT (13 R208, R209). -/
def execCvt (p : Pm) (t : Tgt) (dty : FType) (rsd : Bool) (part : BitVec 2) (ty : FType) (rnd : Round) (s : State) :
    Host.Outcome State Fault Refusal :=
  issueFlag p 1 [t] (!ty.scalar) s fun
    | [a] => (ofType dty (cvtValue s.cur ty dty rsd part.toNat rnd a.bits).1,
        (cvtValue s.cur ty dty rsd part.toNat rnd a.bits).2)
    | _ => (.data 0, Flags.none)

/-- The bits of an integer width. -/
def iwBits : IntWidth → Nat
  | .w8 => 8
  | .w16 => 16
  | .w32 => 32
  | .w64 => 64

/-- An integer of w bits as a 64-bit result (13 R210). -/
def extendInt (w : Nat) (sg : Bool) (v : Int) : W64 :=
  if sg then (BitVec.ofInt w v).signExtend 64 else (BitVec.ofInt w v).setWidth 64

/-- CVTI (13 R210). -/
def execCvti (p : Pm) (t : Tgt) (iw : IntWidth) (sg : Bool) (ty : FType) (rnd : Round) (s : State) :
    Host.Outcome State Fault Refusal :=
  issueFlag p 1 [t] (!ty.scalar) s fun
    | [a] =>
      let r := (ftFmt ty).toInt rnd (iwBits iw) sg (lane a.bits ty.bits 0)
      (.data (extendInt (iwBits iw) sg r.1), r.2)
    | _ => (.data 0, Flags.none)

/-- CVTF (13 R210). -/
def execCvtf (p : Pm) (t : Tgt) (iw : IntWidth) (sg : Bool) (ty : FType) (rnd : Round) (s : State) :
    Host.Outcome State Fault Refusal :=
  issueFlag p 1 [t] (!ty.scalar) s fun
    | [a] =>
      let v := BitVec.ofNat (iwBits iw) a.lo.toNat
      let r := (ftFmt ty).ofInt rnd (if sg then v.toInt else v.toNat)
      (ofType ty (BitVec.ofNat 512 r.1), r.2)
    | _ => (.data 0, Flags.none)

/-! ## GX packing -/

/-- GXPACK (13 R211). -/
def execGxpack (p : Pm) (t u : Tgt) (gw : GxWidth) (s : State) : Host.Outcome State Fault Refusal :=
  issueFlag p 1 [t, u] true s fun
    | [a] =>
      let r := gxEncode (gwWidth gw) ((lanesOf a.bits 32 16).map fp32.decode)
      (.wideData (BitVec.ofNat 512 (gxPack (gwWidth gw) r.1)), r.2)
    | _ => (.data 0, Flags.none)

/-- Round the elements of a block to a lane format, exactly for FP32 (13 R212). -/
def gxLanes (ty : FType) : Option (List FVal) → List (Nat × Flags)
  | none => List.replicate 16 ((ftFmt ty).nanCode, Flags.none)
  | some vs => vs.map fun v => match v with
    | .fin s m e =>
      let r := (ftFmt ty).round .rn s m e
      (r.1, if ty == .vf32 then Flags.none else r.2)
    | _ => ((ftFmt ty).nanCode, Flags.none)

/-- GXUNP (13 R212). -/
def execGxunp (p : Pm) (t u : Tgt) (ty : FType) (gw : GxWidth) (s : State) : Host.Outcome State Fault Refusal :=
  issueFlag p 1 [t, u] true s fun
    | [a] =>
      let rs := gxLanes ty (gxVals (gwWidth gw) (gxUnpack (gwWidth gw) (lowBytes a.bits (gxBlockSize (gwWidth gw)))))
      (.wideData (ofLanes ty.bits (rs.map Prod.fst)), flagsOf rs)
    | _ => (.data 0, Flags.none)

end Sys2Proof.Machine
end

