-- ==== Sys2Proof/Machine/Lattice.lean ====
section
/-! DEFINITION. Lattice: planes, bricks and the region lattice (07 R113; 15 R231 to R233), and the lattice instructions at
their issue (15 R234 to R246). What runs after the commit is in LatticeEv.lean. -/

namespace Sys2Proof.Machine

/-! ## Plane descriptors (15 Table 15-1) -/

/-- A descriptor, unpacked: DIM, EFMT, brick sides, sub-lattice sides and BASE. -/
structure Geo where
  dim  : Nat
  efmt : Nat
  b    : List Nat
  n    : List Nat
  base : Nat
  deriving DecidableEq, Repr

/-- Unpack a descriptor. -/
def geoOf (d : W64) : Geo :=
  ⟨bits d 63 62, bits d 61 59, [bits d 56 54 + 1, bits d 53 51 + 1, bits d 50 48 + 1],
   [bits d 47 42 + 1, bits d 41 36 + 1, bits d 35 30 + 1], bits d 18 0⟩

/-- Side a of a brick: axis 0 x, 1 y, 2 z. -/
def Geo.side (g : Geo) (a : Nat) : Nat := g.b.getD a 1
/-- Sites of the sub-lattice along an axis. -/
def Geo.len (g : Geo) (a : Nat) : Nat := g.n.getD a 1
/-- The element width in bits. -/
def Geo.width (g : Geo) : Nat :=
  match g.efmt with
  | 0 | 1 => 16
  | 2 => 32
  | 3 => 64
  | _ => 8
/-- Bricks along an axis. -/
def Geo.bricks (g : Geo) (a : Nat) : Nat := g.len a / g.side a
/-- The bricks of a PE. -/
def Geo.count (g : Geo) : Nat := g.bricks 0 * g.bricks 1 * g.bricks 2
/-- The sites of a brick. -/
def Geo.sites (g : Geo) : Nat := g.side 0 * g.side 1 * g.side 2
/-- The bytes of a brick's slot (07 R113). -/
def Geo.slot (g : Geo) : Nat := ceilDiv (g.sites * (g.width / 8)) 16 * 16
/-- The local address of a site. -/
def Geo.addr (g : Geo) (brick site : Nat) : Nat := g.base + brick * g.slot + site * (g.width / 8)

/-- Brick and site of local coordinates (07 R113). -/
def Geo.locate (g : Geo) (x y z : Nat) : Nat × Nat :=
  (((z / g.side 2) * g.bricks 1 + y / g.side 1) * g.bricks 0 + x / g.side 0,
   ((z % g.side 2) * g.side 1 + y % g.side 1) * g.side 0 + x % g.side 0)

/-- Local coordinates of a site of a brick. -/
def Geo.coords (g : Geo) (brick site : Nat) : Nat × Nat × Nat :=
  (brick % g.bricks 0 * g.side 0 + site % g.side 0,
   brick / g.bricks 0 % g.bricks 1 * g.side 1 + site / g.side 0 % g.side 1,
   brick / (g.bricks 0 * g.bricks 1) * g.side 2 + site / (g.side 0 * g.side 1))

/-- The format of an EFMT; U8 has none. -/
def efmtFmt : Nat → Option Fmt
  | 0 => some fp16
  | 1 => some bf16
  | 2 => some fp32
  | 3 => some fp64
  | _ => none

/-! ## Planes of a PE -/

/-- An entry that defines no plane. -/
def PlaneEntry.blank : PlaneEntry := ⟨0, 0, 0⟩
/-- An entry of a plane table. -/
def planeAt (t : Map PlaneEntry) (n : Nat) : PlaneEntry := Map.get PlaneEntry.blank t n
/-- An entry of a PE's plane table. -/
def Pe.plane (p : Pe) (n : Nat) : PlaneEntry := planeAt p.planes n
/-- The geometry of an entry. -/
def PlaneEntry.geo (e : PlaneEntry) : Geo := geoOf e.desc
/-- The entry defines a plane. -/
def PlaneEntry.defined (e : PlaneEntry) : Bool := e.geo.dim != 0
/-- A brick is active. -/
def PlaneEntry.active (e : PlaneEntry) (b : Nat) : Bool := bitAt e.act b
/-- The active bricks, in ascending order. -/
def PlaneEntry.actives (e : PlaneEntry) : List Nat := (List.range e.geo.count).filter e.active
/-- q in the element's width. -/
def PlaneEntry.quiet (e : PlaneEntry) : Nat := e.q.toNat % 2 ^ e.geo.width

/-- The value of a site (15 R233). -/
def Pe.siteVal (p : Pe) (e : PlaneEntry) (brick site : Nat) : Nat :=
  if e.active brick then p.lmem.readNat (e.geo.addr brick site) (e.geo.width / 8) else e.quiet

/-- The pages of bricks' slots. -/
def PlaneEntry.pages (e : PlaneEntry) (bricks : List Nat) : List Nat :=
  (bricks.flatMap fun b =>
    let a := e.geo.addr b 0
    (List.range ((a + e.geo.slot + 4095) / 4096 - a / 4096)).map (· + a / 4096)).eraseDups

/-- The first uncorrectable granule of bricks' slots (07 R112). -/
def Pe.badBrick (p : Pe) (e : PlaneEntry) (bricks : List Nat) : Option Nat :=
  bricks.findSome? fun b => p.badGran (e.geo.addr b 0) e.geo.slot

/-- The corrected errors of bricks' slots are counted (07 R112). -/
def State.correctBricks (s : State) (key : Nat) (e : PlaneEntry) (bricks : List Nat) : State :=
  bricks.foldl (fun s b => s.correct key (e.geo.addr b 0) e.geo.slot) s

/-- An operation at issue that reads pages of the PE (15 R234; 07 R107). -/
def withPages (s : State) (pages : List Nat) (k : State → Res) : Res :=
  match (s.pe s.cur.pe).seek s.cur.job (.slot s.cur.agent s.cur.turn) pages with
  | .failed c => .trap (refillTrap c (4096 * pages.headD 0))
  | .later p => .wait (s.onMyPe fun _ => p)
  | .here p => k (s.onMyPe fun _ => p)

/-- BADPLANE and its like, with the offending word (15 Table 15-7). -/
def wordTrap (c : FaultCode) (w : W64) : Trap := ⟨c, w, 0⟩

/-- A lattice operation joins the commit. -/
def latticeAct (s : State) (op : LatOp) : Res := .done (s.onCur (·.act (.lattice op))) []

/-! ## PLDEF (15 R236) -/

/-- A descriptor breaks R236. -/
def badDesc (d : W64) : Bool :=
  let g := geoOf d
  bits d 58 57 != 0 || bits d 29 19 != 0 || g.dim == 3 || 4 < g.efmt ||
  (g.dim == 1 && (g.side 2 != 1 || g.len 2 != 1)) ||
  [0, 1, 2].any (fun a => g.len a % g.side a != 0) || 256 < g.count || g.base % 16 != 0

/-- The word of PLDEF that breaks R236: the descriptor, or q above the plane's width. -/
def badPlane (d q : W64) : Option W64 :=
  if badDesc d then some d else if q.toNat / 2 ^ (geoOf d).width != 0 then some q else none

/-- PLDEF (15 R236). -/
def execPldef (p : Pm) (plane : BitVec 4) (s : State) : Host.Outcome State Fault Refusal :=
  issue p 2 [] s fun
    | [a, b] =>
      let g := geoOf a.lo
      match badPlane a.lo b.lo with
      | some w => .trap (wordTrap .badplane w)
      | none =>
        if lmSize < g.addr g.count 0 then .trap ⟨.lmrange, BitVec.ofNat 64 (g.addr (g.count - 1) 0), 0⟩
        else latticeAct s (.pldef plane.toNat a.lo b.lo)
    | _ => .done s []

/-! ## PSHIFT (15 R238) -/

/-- The signed shift along an axis of a control word (15 Table 15-4). -/
def shiftOf (w : W64) (a : Nat) : Int := (BitVec.ofNat 5 (bits w (8 + 5 * a + 4) (8 + 5 * a))).toInt
/-- The boundary mode along an axis. -/
def modeOf (w : W64) (a : Nat) : Nat := bits w (23 + 3 * a + 2) (23 + 3 * a)
/-- The destination plane. -/
def shiftDst (w : W64) : Nat := bits w 7 4
/-- The source plane. -/
def shiftSrc (w : W64) : Nat := bits w 3 0

/-- The conditions of R238 that depend on the control word and the region's stitch alone (15 R234; 08 R128). -/
def badShift (w : W64) (cst : Bool) (stitch : W64) : Bool :=
  bits w 63 32 != 0 ||
  [0, 1, 2].any fun a =>
    shiftOf w a < -8 || 8 < shiftOf w a || 4 < modeOf w a || (modeOf w a == 4 && !cst) ||
    (modeOf w a == 2 && ((a == 0 && !bitAt stitch 1) || (a == 1 && !bitAt stitch 0)))

/-- PSHIFT (15 R238). -/
def execPshift (p : Pm) (cst : Bool) (s : State) : Host.Outcome State Fault Refusal :=
  issue p (if cst then 2 else 1) [] s fun vs =>
    match vs with
    | a :: rest =>
      if badShift a.lo cst s.myRegion.stitch then .trap (wordTrap .badshift a.lo)
      else latticeAct s (.pshift a.lo (match rest with
        | c :: _ => c.lo
        | [] => 0))
    | [] => .done s []

/-! ## PSTEP (15 R240) -/

/-- The input planes of an input word. -/
def stepIns (w : W64) : List Nat := (List.range (bits w 6 4 + 1)).map fun k => bits w (4 * k + 11) (4 * k + 8)
/-- The output planes of an output word. -/
def stepOuts (w : W64) : List Nat := (List.range (bits w 2 0 + 1)).map fun k => bits w (4 * k + 7) (4 * k + 4)
/-- The rule-index plane. -/
def stepRip (w : W64) : Nat := bits w 3 0

/-- PSTEP (15 R240): the reserved bits are checked at issue, and the planes at the commit. -/
def execPstep (p : Pm) (s : State) : Host.Outcome State Fault Refusal :=
  issue p 2 [] s fun
    | [a, b] =>
      if bitAt a.lo 7 || bits a.lo 63 40 != 0 then .trap (wordTrap .badplane a.lo)
      else if bitAt b.lo 3 || bits b.lo 63 36 != 0 then .trap (wordTrap .badplane b.lo)
      else latticeAct s (.pstep a.lo b.lo)
    | _ => .done s []

/-! ## PACT (15 R237) -/

/-- A WORD of a plane's map lies beyond its bricks, or a mask bit does. -/
def badMask (g : Geo) (word : Nat) (mask : W64) : Bool :=
  g.count ≤ 64 * word || mask.toNat / 2 ^ (g.count - 64 * word) != 0

/-- A word of an activity map. -/
def mapWord (act : BitVec 256) (word : Nat) : W64 := BitVec.ofNat 64 (bits act (64 * word + 63) (64 * word))

/-- PACT (15 R237). -/
def execPact (p : Pm) (t u : Tgt) (sub : PactSub) (s : State) : Host.Outcome State Fault Refusal :=
  issue p (if sub == .get || sub == .tidy then 1 else 2) [t, u] s fun vs =>
    match vs with
    | a :: rest =>
      let n := bits a.lo 3 0
      let w := bits a.lo 5 4
      let mask := match rest with
        | m :: _ => m.lo
        | [] => 0
      if bits a.lo 63 6 != 0 then .trap (wordTrap .badplane a.lo)
      else if sub == .get then
        let e := (s.pe s.cur.pe).plane n
        if !e.defined || badMask e.geo w 0 then .trap (wordTrap .badplane a.lo)
        else .done s (toEach [t, u] (.data (mapWord e.act w)))
      else latticeAct s (.pact sub n w mask)
    | [] => .done s []

/-! ## PCOPY (15 R244) -/

/-- PCOPY (15 R244). -/
def execPcopy (p : Pm) (sub : PcopySub) (s : State) : Host.Outcome State Fault Refusal :=
  issue p 1 [] s fun
    | [a] =>
      if bits a.lo 63 8 != 0 then .trap (wordTrap .badplane a.lo)
      else latticeAct s (.pcopy sub (bits a.lo 3 0) (bits a.lo 7 4))
    | _ => .done s []

/-! ## PSUM (15 R243) -/

/-- The site values of a brick, in site order. -/
def Pe.brickVals (p : Pe) (e : PlaneEntry) (b : Nat) : List Nat := (List.range e.geo.sites).map (p.siteVal e b)

/-- A site's value: U8 sites are unsigned integers. -/
def siteFVal (efmt : Nat) (c : Nat) : FVal :=
  match efmtFmt efmt with
  | some f => f.decode c
  | none => .fin false c 0

/-- The first NaN of a list of site values, widened to FP64 and quieted (03 R42). -/
def firstNan (efmt : Nat) (cs : List Nat) : Option Nat :=
  match efmtFmt efmt with
  | none => none
  | some f => (cs.find? f.isNan).map fun c => fp64.quiet (Fmt.convNan f fp64 c)

/-- A signalling NaN among site values. -/
def anySnan (efmt : Nat) (cs : List Nat) : Bool :=
  match efmtFmt efmt with
  | none => false
  | some f => cs.any f.isSnan

/-- The sum of a brick's sites, rounded once to FP64; an exact zero is +0 (03 R39). A NaN site decides it, the first in site order, and a
signalling one is invalid (03 R42). -/
def brickSum (efmt : Nat) (cs : List Nat) : Nat × Flags :=
  match firstNan efmt cs with
  | some n => (n, if anySnan efmt cs then Flags.nvOnly else Flags.none)
  | none =>
    let vs := cs.map (siteFVal efmt)
    if bothInf vs then fp64.invalid
    else
      match infSign vs with
      | some s => (fp64.signed s fp64.infCode, Flags.none)
      | none => fp64.roundDy .rn false (Dy.sum (vs.map FVal.dy))

/-- Add neighbours pairwise. -/
def pairSums : List Nat → List Nat × Flags
  | a :: b :: l =>
    let r := fp64.add .rn a b
    let q := pairSums l
    (r.1 :: q.1, r.2.or q.2)
  | l => (l, Flags.none)

/-- The tree of R243, level by level. -/
def treeSum : Nat → List Nat → Flags → Nat × Flags
  | 0, l, f => (l.headD 0, f)
  | n + 1, l, f => let r := pairSums l; treeSum n r.1 (f.or r.2)

/-- The least k with 2^k at least n. -/
def treeDepth (n : Nat) : Nat := if n ≤ 1 then 0 else log2n (n - 1) + 1

/-- `.sum` over the bricks' site values: each brick's sum, then the tree (15 R243), every addition by R42, so that the first NaN of the
earliest brick that has or makes one is the result, and with the flags of every rounding (03 R43). Log entry 103 (DEDUCED). -/
def planeSum (efmt : Nat) (bricks : List (List Nat)) : Nat × Flags :=
  let rs := bricks.map (brickSum efmt)
  let k := treeDepth rs.length
  treeSum k (rs.map Prod.fst ++ List.replicate (2 ^ k - rs.length) 0) (flagsOf rs)

/-- A site value widened exactly to FP64. -/
def widenSite (efmt : Nat) (c : Nat) : Nat :=
  match siteFVal efmt c with
  | .fin s m e => (fp64.round .rn s m e).1
  | .inf s => fp64.signed s fp64.infCode
  | .nan _ => fp64.nanCode

/-- `.max` and `.min`: NaN sites are ignored. -/
def planeExtreme (wantMax : Bool) (efmt : Nat) (cs : List Nat) : Nat × Flags :=
  let live := match efmtFmt efmt with
    | some f => cs.filter fun c => !f.isNan c
    | none => cs
  let best := (live.map (widenSite efmt)).foldl (fun (b : Option Nat) c =>
    match b with
    | none => some c
    | some x => if (if wantMax then fp64.order x c < 0 else fp64.order c x < 0) then some c else some x) none
  (best.getD fp64.nanCode, if anySnan efmt cs then Flags.nvOnly else Flags.none)

/-- PSUM (15 R243). -/
def execPsum (p : Pm) (t u : Tgt) (sub : PsumSub) (s : State) : Host.Outcome State Fault Refusal :=
  issue p 1 [t, u] s fun
    | [a] =>
      let e := (s.pe s.cur.pe).plane (bits a.lo 3 0)
      if bits a.lo 63 4 != 0 || !e.defined then .trap (wordTrap .badplane a.lo)
      else withPages s (e.pages e.actives) fun s =>
        match (s.pe s.cur.pe).badBrick e e.actives with
        | some g => .trap (uncorrTrap g)
        | none =>
        let s := s.correctBricks s.cur.pe e e.actives
        let bs := (List.range e.geo.count).map ((s.pe s.cur.pe).brickVals e)
        let r := match sub with
          | .sum => planeSum e.geo.efmt bs
          | .max => planeExtreme true e.geo.efmt bs.flatten
          | .min => planeExtreme false e.geo.efmt bs.flatten
        .done (s.onCur (·.flag r.2)) (toEach [t, u] (.data (BitVec.ofNat 64 r.1)))
    | _ => .done s []

/-! ## The region lattice (15 R232) -/

/-- The extents of the region lattice along x, y and z. -/
def extents (rc : Rect) (g : Geo) : List Nat := [rc.w * g.len 0, rc.h * g.len 1, g.len 2]

/-- The PE that owns a site of the region lattice, and the site's local coordinates. -/
def ownerOfSite (rc : Rect) (g : Geo) (x y z : Nat) : Nat × Nat × Nat × Nat :=
  (peOf rc.d (rc.x0 + x / g.len 0) (rc.y0 + y / g.len 1), x % g.len 0, y % g.len 1, z)

/-- The coordinates in the region lattice of a PE's site. -/
def regionCoords (rc : Rect) (g : Geo) (key brick site : Nat) : Nat × Nat × Nat :=
  let c := g.coords brick site
  ((peX key - rc.x0) * g.len 0 + c.1, (peY key - rc.y0) * g.len 1 + c.2.1, c.2.2)

/-! ## LMARCH (15 R245, R246) -/

/-- Field k of a ray word, signed 16.16. -/
def rayField (w : W512) (k : Nat) : Int := (BitVec.ofNat 32 (bits w (32 * k + 31) (32 * k))).toInt

/-- A ray word breaks R245. -/
def badRay (w : W512) (dim : Nat) : Bool :=
  bits w 511 208 != 0 || bits w 207 192 == 0 ||
  (rayField w 3 == 0 && rayField w 4 == 0 && rayField w 5 == 0) ||
  (dim == 1 && (rayField w 2 != 0 || rayField w 5 != 0))

/-- The ray as it starts. -/
def startRay (w : W512) (a : Agent) (slot plane : Nat) : Ray :=
  let p := (List.range 3).map (rayField w)
  let d := (List.range 3).map fun k => rayField w (k + 3)
  let c := p.map fun x => x / 65536
  { agent := a, slot := slot, plane := plane, cell := c,
    num := (List.range 3).map fun k =>
      let x := p.getD k 0
      let i := c.getD k 0
      if 0 < d.getD k 0 then (i + 1) * 65536 - x else x - i * 65536,
    den := d.map fun x => (x.natAbs : Int), sgn := d.map Int.sign, last := none, n := 0, limit := bits w 207 192,
    result := none }

/-- The result word of a march. -/
def rayWord (status : Nat) (c : List Int) (n : Nat) : W64 :=
  packFields 64 [(62, 2, status), (48, 12, (c.getD 2 0).toNat), (36, 12, (c.getD 1 0).toNat), (24, 12, (c.getD 0 0).toNat),
    (0, 16, n)]

/-- The axis of the next crossing: the least num / den by cross-multiplication, ties to x, then y, then z. -/
def nextAxis (r : Ray) : Nat :=
  let better := fun a b => (r.den.getD a 0 != 0) &&
    (r.den.getD b 0 == 0 || r.num.getD a 0 * r.den.getD b 0 < r.num.getD b 0 * r.den.getD a 0)
  let b := if better 1 0 then 1 else 0
  if better 2 b then 2 else b

/-- Cross into the next cell. -/
def crossCell (r : Ray) : Ray :=
  let a := nextAxis r
  { r with cell := r.cell.set a (r.cell.getD a 0 + r.sgn.getD a 0), num := r.num.set a (r.num.getD a 0 + 65536) }

/-- Wrap a coordinate of a ring of an extent. -/
def wrapInt (on : Bool) (x : Int) (n : Nat) : Int := if on then x % n else x

/-- The cell of a ray after the wrap of stitched axes. -/
def wrapCell (stitch : W64) (ext : List Nat) (c : List Int) : List Int :=
  [wrapInt (bitAt stitch 1) (c.getD 0 0) (ext.getD 0 1), wrapInt (bitAt stitch 0) (c.getD 1 0) (ext.getD 1 1), c.getD 2 0]

/-- A cell lies inside the region lattice. -/
def insideCell (ext : List Nat) (c : List Int) : Bool :=
  (List.range 3).all fun a => 0 ≤ c.getD a 0 && c.getD a 0 < ext.getD a 1

/-- The march of a ray at one PE: until it ends, or crosses into another PE's sub-lattice (15 R245, R246). -/
def marchAt (rc : Rect) (stitch : W64) (g : Geo) (key : Nat) (p : Pe) : Nat → Ray → Ray
  | 0, r => r
  | k + 1, r =>
    let ext := extents rc g
    let r := { r with cell := wrapCell stitch ext r.cell }
    if !insideCell ext r.cell then { r with result := some (rayWord 2 (r.last.getD [0, 0, 0]) r.n) }
    else
      let o := ownerOfSite rc g (r.cell.getD 0 0).toNat (r.cell.getD 1 0).toNat (r.cell.getD 2 0).toNat
      if o.1 ≠ key then r
      else
        let e := p.plane r.plane
        let bs := g.locate o.2.1 o.2.2.1 o.2.2.2
        let r := { r with n := r.n + 1, last := some r.cell }
        if p.siteVal e bs.1 bs.2 != e.quiet then { r with result := some (rayWord 0 r.cell r.n) }
        else if r.n = r.limit then { r with result := some (rayWord 1 r.cell r.n) }
        else marchAt rc stitch g key p k (crossCell r)

/-- The PE at which a ray stands, when its cell lies inside the region lattice. -/
def rayPe (rc : Rect) (stitch : W64) (g : Geo) (r : Ray) : Option Nat :=
  let c := wrapCell stitch (extents rc g) r.cell
  if insideCell (extents rc g) c then
    some (ownerOfSite rc g (c.getD 0 0).toNat (c.getD 1 0).toNat (c.getD 2 0).toNat).1
  else none

/-- LMARCH (15 R245): the ray starts at the issuer's march engine, and the slot waits for its result. -/
def execLmarch (p : Pm) (t u : Tgt) (plane : BitVec 4) (s : State) : Host.Outcome State Fault Refusal :=
  issue p 1 [t, u] s fun
    | [a] =>
      let pe := s.pe s.cur.pe
      let e := pe.plane plane.toNat
      match pe.march.find? fun r => r.agent == s.cur.agent && r.slot == s.cur.turn with
      | some r =>
        match r.result with
        | some w =>
          .done (s.onMyPe fun q => { q with march := q.march.filter fun x => x != r }) (toEach [t, u] (.data w))
        | none => .wait s
      | none =>
        if !e.defined then .trap (wordTrap .badplane (BitVec.ofNat 64 plane.toNat))
        else if badRay a.bits e.geo.dim then .trap (wordTrap .marcharg (BitVec.ofNat 64 (bits a.bits 255 192)))
        else .wait (s.onMyPe fun q => { q with march := q.march ++ [startRay a.bits s.cur.agent s.cur.turn plane.toNat] })
    | _ => .done s []

/-! ## SITE (15 R242) -/

/-- The value of a form (15 Table 15-6). -/
def siteValue (g : RuleGroup) : SiteSel → Value
  | .inp k => .wideData (g.inputs.getD k.toNat 0)
  | .x => .wideData g.x
  | .y => .wideData g.y
  | .z => .wideData g.z
  | .rule => .wideData g.rules
  | .walls => .wideData g.walls
  | .count => .data (BitVec.ofNat 64 g.sites.length)

/-- SITE (15 R242). -/
def execSite (p : Pm) (t u : Tgt) (sel : SiteSel) (s : State) : Host.Outcome State Fault Refusal :=
  issue p 0 [t, u] s fun _ => .done s (toEach [t, u] (siteValue s.cur.group sel))

end Sys2Proof.Machine
end

