-- ==== Sys2Proof/Machine/Receive.lean ====
section
/-! DEFINITION. Receive: RECV, RECVK, RECVO and JOIN (09 R151 to R154; 12 R190 to R192). -/

namespace Sys2Proof.Machine

/-- The tokens of a port that earlier firings of the same AG node, still in flight, will consume (12 R197). -/
def State.takenBefore (s : State) (f : Frame) (port : Nat) : Nat :=
  match f.agent with
  | .ag a k =>
    ((s.cur :: s.parked).filter fun g => g.live && match g.agent with
      | .ag b j => a == b && j < k
      | _ => false).foldl (fun n g => g.takes.foldl (fun n t => if t.port == port then n + t.count else n) n) 0
  | _ => 0

/-- The key that a JOIN consumed last in its run, after some heads: only EOR ends a run (12 R192). -/
def keyAfter : Option Nat → List Token → Option Nat
  | k, [] => k
  | k, t :: ts =>
    keyAfter (if t.val.isData then some (bits t.val.bits 63 32) else if t.val.kind == .eor then none else k) ts

/-- An input port of the PE on which a block runs. -/
def State.portOf (s : State) (f : Frame) (port : Nat) : InPort :=
  match agentKey f.agent with
  | some k => Map.get InPort.blank (s.pe k).inports port
  | none => InPort.blank

/-- The tokens that a firing sees at a port, head first: MARK never reaches an instruction (09 R154). Log entry 44 (DEDUCED). -/
def State.heads (s : State) (f : Frame) (port : Nat) : List Token :=
  ((s.portOf f port).q.takeWhile fun t => t.val.kind != .mark).drop (s.takenBefore f port)

/-- The firing consumes `n` heads of a port at its commit (12 R190). -/
def Frame.take (f : Frame) (port n : Nat) : Frame := { f with takes := f.takes ++ [⟨port, n⟩] }

/-- What a port yields to a firing: a value with its stamp and how many heads it consumes, nothing yet, or a fault. -/
inductive Yield where
  | got (v : Value) (stamp count : Nat)
  | later
  | bad (t : Trap)

/-- A mandatory port at a time (09 R151). -/
def yieldRecv (t : LTime) : List Token → Yield
  | tok :: _ => if tok.time = t then .got tok.val tok.stamp 1 else .later
  | [] => .later

/-- A kept port at a time (09 R152): heads with a token behind them at a time of at most t are discarded. -/
def yieldKept (t frontier : LTime) : List Token → Nat → Yield
  | [], _ => if t < frontier then .bad (trap .recvorder) else .later
  | tok :: rest, n =>
    if t < tok.time then .bad (trap .recvorder)
    else
      match rest with
      | [] => if t < frontier then .got tok.val tok.stamp n else .later
      | nxt :: _ => if nxt.time ≤ t then yieldKept t frontier rest (n + 1) else .got tok.val tok.stamp n

/-- An optional port at a time (09 R153). ABSENT carries the stamp of the frontier that produced it (16 R250). -/
def yieldOpt (t frontier : LTime) (fstamp : Nat) : List Token → Yield
  | [] => if t < frontier then .got (.ofKind .absent) fstamp 0 else .later
  | tok :: _ =>
    if tok.time = t then .got tok.val tok.stamp 1
    else if t < tok.time then .got (.ofKind .absent) fstamp 0
    else .bad (trap .recvorder)

/-- Act on what a port yields: deliver it, raise the pts to its stamp, and consume the heads at the commit. -/
def receive (port : Nat) (ts : List Tgt) (s : State) : Yield → Res
  | .got v stamp n => .done ((s.raisePts stamp).onCur (·.take port n)) (toEach ts v)
  | .later => .wait s
  | .bad t => .trap t

/-- RECV (12 R190): the head of a mandatory port at the firing's time. -/
def execRecv (port : BitVec 6) (t u : Tgt) (s : State) : Host.Outcome State Fault Refusal :=
  issue .always 0 [t, u] s fun _ =>
    receive port.toNat [t, u] s (yieldRecv s.cur.time (s.heads s.cur port.toNat))

/-- RECVK (09 R152). -/
def execRecvk (port : BitVec 6) (t u : Tgt) (s : State) : Host.Outcome State Fault Refusal :=
  issue .always 0 [t, u] s fun _ =>
    receive port.toNat [t, u] s
      (yieldKept s.cur.time (s.portOf s.cur port.toNat).frontier (s.heads s.cur port.toNat) 0)

/-- RECVO (09 R153). -/
def execRecvo (port : BitVec 6) (t u : Tgt) (s : State) : Host.Outcome State Fault Refusal :=
  issue .always 0 [t, u] s fun _ =>
    let ip := s.portOf s.cur port.toNat
    receive port.toNat [t, u] s (yieldOpt s.cur.time ip.frontier ip.fstamp (s.heads s.cur port.toNat))

/-! ## JOIN (12 R192) -/

/-- A key: payload [63:32]. -/
def keyOf (v : Value) : Nat := bits v.bits 63 32
/-- The value of an entry: payload [31:0]. -/
def valOf (v : Value) : Nat := bits v.bits 31 0

/-- A pair of what JOIN finds of A and B (12 R192). -/
def pairOf (a b : Option Value) : Value :=
  let pay := fun (x : Option Value) => match x with
    | some v => v.lo.toNat
    | none => 0
  .wideData (packFields 512 [(0, 64, pay a), (64, 64, pay b), (128, 1, b2n a.isSome), (129, 1, b2n b.isSome)])

/-- A JOIN's answer: how many heads of A and of B it consumes, its delivery, and flags. -/
structure Joined where
  ta : Nat
  tb : Nat
  v  : Value
  fl : Flags
  deriving DecidableEq, Repr

/-- Compare two keys, none being above every key (EOR sorts last). -/
def keyLt : Option Nat → Option Nat → Bool
  | some a, some b => a < b
  | some _, none => true
  | none, _ => false

/-- Table 12-1. -/
def joinTable (mode : JoinMode) (a b : Value) (ka kb : Option Nat) : Joined :=
  let nul := Value.ofKind .null
  let none_ := Flags.none
  if keyLt ka kb then
    match mode with
    | .isect => ⟨1, 0, nul, none_⟩
    | .union => ⟨1, 0, pairOf (some a) none, none_⟩
    | .sub | .madd | .less => ⟨1, 0, .data a.lo, none_⟩
  else if keyLt kb ka then
    match mode with
    | .isect | .sub => ⟨0, 1, nul, none_⟩
    | .union => ⟨0, 1, pairOf none (some b), none_⟩
    | .madd | .less => ⟨0, 1, .data b.lo, none_⟩
  else
    match mode with
    | .isect | .union => ⟨1, 1, pairOf (some a) (some b), none_⟩
    | .sub => ⟨1, 1, nul, none_⟩
    | .madd =>
      let r := fp32.add .rn (valOf a) (valOf b)
      ⟨1, 1, .data (packFields 64 [(32, 32, keyOf a), (0, 32, r.1)]), r.2⟩
    | .less => ⟨1, 0, .data a.lo, none_⟩

/-- The information of JOINORDER: the ports and the kinds of both heads, and the time of A's head (log entry 15 (DESIGN
CHOICE)). -/
def joinTrap (pa pb : Nat) (a b : Token) : Trap :=
  ⟨.joinorder, packFields 64 [(0, 6, pa), (8, 6, pb), (16, 4, kindCode a.val.kind), (20, 4, kindCode b.val.kind)], a.time⟩

/-- A DATA head whose key is not above the key last consumed in the run breaks the order. Log entry 48 (DEDUCED). -/
def keyBad (last : Option Nat) (v : Value) : Bool :=
  v.isData && match last with
  | some k => keyOf v ≤ k
  | none => false

/-- What a JOIN does with two heads (12 R192). Log entry 48 (DEDUCED). -/
def joinHeads (mode : JoinMode) (pa pb : Nat) (la lb : Option Nat) (a b : Token) : Except Trap Joined :=
  let ka := a.val.kind
  let kb := b.val.kind
  if a.time ≠ b.time then .error (joinTrap pa pb a b)
  else if ka == .err || kb == .err then
    .ok ⟨b2n (ka == .err), b2n (kb == .err), .ofKind .err, Flags.none⟩
  else if ka == .eos && kb == .eos then .ok ⟨1, 1, .ofKind .eos, Flags.none⟩
  else if [Kind.eos, .bound, .absent].any fun k => ka == k || kb == k then .error (joinTrap pa pb a b)
  else if ka == .eor && kb == .eor then .ok ⟨1, 1, .ofKind .eor, Flags.none⟩
  else if keyBad la a.val || keyBad lb b.val then .error (joinTrap pa pb a b)
  else
    .ok (joinTable mode a.val b.val (if a.val.isData then some (keyOf a.val) else none)
      (if b.val.isData then some (keyOf b.val) else none))

/-- The key that a JOIN consumed last at a port, by firings of its node that have committed and by those before it that are still in
flight (12 R192, R197). -/
def State.lastKey (s : State) (f : Frame) (port : Nat) : Option Nat :=
  let p := s.portOf f port
  keyAfter p.key ((p.q.takeWhile fun t => t.val.kind != .mark).take (s.takenBefore f port))

/-- What the JOIN of a block does at the heads of its ports now. -/
def State.joinNow (s : State) (f : Frame) (pa pb : Nat) (mode : JoinMode) : Option (Token × Token × Except Trap Joined) :=
  match s.heads f pa, s.heads f pb with
  | a :: _, b :: _ => some (a, b, joinHeads mode pa pb (s.lastKey f pa) (s.lastKey f pb) a b)
  | _, _ => none

/-- The greatest stamp of the heads that a JOIN takes: its firing begins with it (16 R250). -/
def Joined.stamp (j : Joined) (a b : Token) : Nat := max (if j.ta = 0 then 0 else a.stamp) (if j.tb = 0 then 0 else b.stamp)

/-- JOIN (12 R192). The firing has begun with the stamps of the tokens that it takes (16 R250). -/
def execJoin (pa pb : BitVec 6) (mode : JoinMode) (t : Tgt) (s : State) : Host.Outcome State Fault Refusal :=
  issue .always 0 [t] s fun _ =>
    match s.joinNow s.cur pa.toNat pb.toNat mode with
    | some (_, _, .ok j) => .done ((s.onCur (·.take pa.toNat j.ta)).onCur fun f => (f.take pb.toNat j.tb).flag j.fl) [(t, j.v)]
    | some (_, _, .error e) => .trap e
    | none => .wait s

end Sys2Proof.Machine
end

