-- ==== Sys2Proof/Machine/Matrix.lean ====
section
/-! DEFINITION. Matrix: the matrix commands at their issue, and CTR (14 R217 to R229). What the unit does with its queue
is in MatrixEv.lean. -/

namespace Sys2Proof.Machine

/-! ## Types (14 Table 14-1) -/

/-- The bytes of an element; .gx has none of its own. -/
def matBytes : MatType → Nat
  | .f64 => 8
  | .f32 => 4
  | .f16 | .bf16 => 2
  | .gx => 0

/-- The depth K of an MMA. -/
def matDepth : MatType → Nat
  | .f64 => 4
  | .f32 => 8
  | .f16 | .bf16 => 16
  | .gx => 32

/-- The format of an IEEE type; .gx elements become FP32 (14 R225). -/
def matFmt : MatType → Fmt
  | .f64 => fp64
  | .f32 | .gx => fp32
  | .f16 => fp16
  | .bf16 => bf16

/-- The bytes of an output unit (14 R225). -/
def matUnit : MatType → Nat
  | .f64 => 64
  | .f32 => 32
  | .f16 | .bf16 | .gx => 16

/-- How many units a tile has (14 R225). -/
def matUnits : MatType → Nat
  | .gx => 4
  | _ => 8

/-! ## Checks at issue -/

/-- A matrix command joins the commit (14 R220). -/
def matrixAct (s : State) (op : MatOp) : Res := .done (s.onCur (·.act (.matrix op))) []

/-- Exact addresses of `n` rows from a base with a stride. -/
def rowAddr (base stride : W64) (r : Nat) : Int := base.toInt + r * stride.toInt

/-- The first row address that fails a test. -/
def badRow (n : Nat) (base stride : W64) (good : Int → Bool) : Option Int :=
  ((List.range n).map (rowAddr base stride)).find? fun a => !good a

/-- A tile load checks its operands (14 R223). -/
def tileLoad (s : State) (buf : TileBuf) (loc : Bool) (a b : W64) : Res :=
  if a.toNat % 32 ≠ 0 then .trap ⟨.align, a, 0⟩
  else if b.toNat % 32 ≠ 0 then .trap ⟨.align, b, 0⟩
  else
    match badRow 8 a b (if loc then fun x => localRange x 32 else exactCanonical) with
    | some x => .trap ⟨if loc then .lmrange else .mataddr, BitVec.ofInt 64 x, 0⟩
    | none => matrixAct s (.load ⟨buf, loc, a, b⟩)

/-- MLDA (14 R223). -/
def execMlda (p : Pm) (_ : MatType) (buf : Bool) (s : State) : Host.Outcome State Fault Refusal :=
  issue p 2 [] s fun
    | [a, b] => tileLoad s (if buf then .ta1 else .ta0) false a.lo b.lo
    | _ => .done s []

/-- MLDB (14 R223). -/
def execMldb (p : Pm) (_ : MatType) (buf : Bool) (s : State) : Host.Outcome State Fault Refusal :=
  issue p 2 [] s fun
    | [a, b] => tileLoad s (if buf then .tb1 else .tb0) false a.lo b.lo
    | _ => .done s []

/-- MLDL (14 R223). -/
def execMldl (p : Pm) (_ : MatType) (buf : TileBuf) (s : State) : Host.Outcome State Fault Refusal :=
  issue p 2 [] s fun
    | [a, b] => tileLoad s buf true a.lo b.lo
    | _ => .done s []

/-- MMA (14 R222): the selection word in op0, and γ in op1 for `.d`. -/
def execMma (p : Pm) (ty : MatType) (mode : MmaMode) (s : State) : Host.Outcome State Fault Refusal :=
  issue p (if mode = .d then 2 else 1) [] s fun vs =>
    match vs with
    | a :: rest =>
      if bits a.lo 63 4 ≠ 0 then .trap ⟨.matopnd, a.lo, 0⟩
      else matrixAct s (.mma ty mode (bits a.lo 1 0) (bitAt a.lo 2) (bitAt a.lo 3)
        (match rest with
          | g :: _ => g.lo.setWidth 32
          | [] => 0))
    | [] => .done s []

/-- The rounding mode of two bits (03 Table 3-2). -/
def roundOf (n : Nat) : Round :=
  match n % 4 with
  | 0 => .rn
  | 1 => .rz
  | 2 => .rp
  | _ => .rm

/-- MST (14 R225, R226): base in op0, stride in op1, control word in op2. -/
def execMst (p : Pm) (ty : MatType) (acc : BitVec 2) (s : State) : Host.Outcome State Fault Refusal :=
  issue p 3 [] s fun
    | [a, b, c] =>
      let loc := bitAt c.lo 2
      let k := matUnit ty
      if bits c.lo 63 3 ≠ 0 then .trap ⟨.matopnd, c.lo, 0⟩
      else if a.lo.toNat % k ≠ 0 then .trap ⟨.align, a.lo, 0⟩
      else if b.lo.toNat % k ≠ 0 then .trap ⟨.align, b.lo, 0⟩
      else
        match badRow (matUnits ty) a.lo b.lo (if loc then fun x => localRange x k else exactCanonical) with
        | some x => .trap ⟨if loc then .lmrange else .mataddr, BitVec.ofInt 64 x, 0⟩
        | none => matrixAct s (.mst ty acc.toNat a.lo b.lo (roundOf (bits c.lo 1 0)) loc)
    | _ => .done s []

/-- MREL (14 R225, R227): a control word that is not DATA sends one token of its kind after the commit, and queues nothing;
NULL sends nothing. The time that it sends must fit its edge action (20 R293). Log entry 49 (DEDUCED). -/
def execMrel (p : Pm) (t : Tgt) (ty : MatType) (acc : BitVec 2) (s : State) : Host.Outcome State Fault Refusal :=
  issueAny p 1 s fun
    | [a] =>
      let port := match t with
        | .port k => k.toNat
        | _ => 0
      if a.kind == .null then .done s []
      else if s.cur.ovf.contains port then .trap (trap .timeovf)
      else if !a.isData then .done (s.onCur (·.act (.mrelKind port a.kind))) []
      else if bits a.lo 63 2 ≠ 0 then .trap ⟨.matopnd, a.lo, 0⟩
      else matrixAct s (.mrel ty acc.toNat port (roundOf (bits a.lo 1 0)) s.cur.time)
    | _ => .done s []

/-! ## MJOB (14 R229) -/

/-- A level of a job card from its 21 bits. -/
def levelOf (n : Nat) : JobLevel := ⟨n % 65536 + 1, n / 65536 % 4⟩

/-- The five levels of a job card as 21-bit fields (14 Table 14-5). The fields of word 6 stand 20 bits apart, so the top bit of
one is the first bit of the next, whose count it belongs to (log entry 17 (DEDUCED)). -/
def cardLevels (ws : List W64) : List Nat :=
  [bits (ws.getD 6 0) 20 0, bits (ws.getD 6 0) 40 20, bits (ws.getD 6 0) 60 40, bits (ws.getD 7 0) 20 0,
   bits (ws.getD 7 0) 41 21]

/-- The output type of a card. -/
def otypeOf (n : Nat) : MatType :=
  match n with
  | 0 => .f64
  | 1 => .f32
  | 2 => .f16
  | _ => .bf16

/-- A job card from its eight words. -/
def cardOf (ws : List W64) : JobCard :=
  { abase := ws.getD 0 0, bbase := ws.getD 1 0, cbase := ws.getD 2 0, ars := ws.getD 3 0, brs := ws.getD 4 0,
    crs := ws.getD 5 0, levels := ((cardLevels ws).map levelOf).takeWhile fun l => l.role != 0,
    otype := otypeOf (bits (ws.getD 7 0) 44 42), rnd := roundOf (bits (ws.getD 7 0) 46 45) }

/-- The product of the counts of a role's levels. -/
def roleCount (levels : List JobLevel) (role : Nat) : Nat :=
  (levels.filter fun l => l.role == role).foldl (fun n l => n * l.count) 1

/-- Coordinate of a role: the mixed-radix number of its levels' indices, lower levels less significant. -/
def roleCoord : List JobLevel → List Nat → Nat → Nat
  | l :: ls, i :: is, role => if l.role = role then i + l.count * roleCoord ls is role else roleCoord ls is role
  | _, _, _ => 0

/-- The addresses of the tiles of A, B and C at coordinates (14 R229). -/
def tileA (c : JobCard) (m k : Nat) : Int := c.abase.toInt + 8 * m * c.ars.toInt + 32 * k
/-- B. -/
def tileB (c : JobCard) (n k : Nat) : Int := c.bbase.toInt + 8 * n * c.brs.toInt + 32 * k
/-- C. -/
def tileC (c : JobCard) (m n : Nat) : Int := c.cbase.toInt + 8 * m * c.crs.toInt + 8 * n * matBytes c.otype

/-- The two ends of a coordinate. -/
def ends2 (n : Nat) : List Nat := [0, n - 1]

/-- The tile addresses at the corners of the index space. Log entry 50 (DEDUCED). -/
def cornerTiles (c : JobCard) : List Int :=
  let m := ends2 (roleCount c.levels 2)
  let n := ends2 (roleCount c.levels 3)
  let k := ends2 (roleCount c.levels 1)
  m.flatMap (fun m => k.map (tileA c m)) ++ n.flatMap (fun n => k.map (tileB c n)) ++ m.flatMap fun m => n.map (tileC c m)

/-- A K level lies above a level of another role. -/
def badOrder : List JobLevel → Bool
  | [] => false
  | l :: ls => (l.role != 1 && ls.any fun x => x.role == 1) || badOrder ls

/-- The first word of a card that BADJOB names, when the card breaks R229. Log entry 17 (DEDUCED). Log entry 50 (DEDUCED). -/
def badCard (ws : List W64) : Option W64 :=
  let c := cardOf ws
  let lv := cardLevels ws
  let w7 := ws.getD 7 0
  let used := c.levels.length
  let k := matUnit c.otype
  if (lv.take 2).any (fun l => l % 2 ^ 20 / 2 ^ 18 != 0) || lv.getD 2 0 / 2 ^ 18 != 0 || bitAt (ws.getD 6 0) 63 then some (ws.getD 6 0)
  else if (lv.drop 3).any (fun l => l / 2 ^ 18 != 0) || bits w7 63 47 != 0 || bitAt w7 44 then some w7
  else if (lv.drop used).any (fun l => l / 65536 % 4 != 0) || !(c.levels.any fun l => l.role == 1) ||
      badOrder c.levels then some (ws.getD 6 0)
  else if c.ars.toNat % 32 != 0 then some c.ars
  else if c.brs.toNat % 32 != 0 then some c.brs
  else if c.cbase.toNat % k != 0 then some c.cbase
  else if c.crs.toNat % k != 0 then some c.crs
  else ((cornerTiles c).find? fun a => !exactCanonical a).map (BitVec.ofInt 64)

/-- MJOB (14 R229): the card is read at issue. -/
def execMjob (p : Pm) (ty : MatType) (acc : BitVec 2) (s : State) : Host.Outcome State Fault Refusal :=
  issue p 1 [] s fun
    | [a] =>
      match localAddress a 0 64 with
      | .error e => .trap e
      | .ok d =>
        match s.myRead d 64 false with
        | .bad e => .trap e
        | .later q => .wait (s.onMyPe fun _ => q)
        | .got v q =>
          let s := (s.onMyPe fun _ => q).correct s.cur.pe d 64
          let ws := (List.range 8).map fun k => BitVec.ofNat 64 (v / 2 ^ (64 * k))
          match badCard ws with
          | some w => .trap ⟨.badjob, w, 0⟩
          | none => matrixAct s (.job ty acc.toNat (cardOf ws))
    | _ => .done s []

/-! ## CTR (14 R228) -/

/-- A limit of which 0 acts as 65,536. -/
def ctrLimit (n : Nat) : Nat := if n = 0 then 65536 else n

/-- What CTR delivers, and what its register becomes (14 R228). -/
def ctrStep (w : W64) : W64 × W64 :=
  let l2 := ctrLimit (bits w 63 48)
  let l1 := ctrLimit (bits w 47 32)
  let c2 := bits w 31 16
  let c1 := bits w 15 0
  let ek := l1 ≤ c1 + 1
  let n1 := if ek then 0 else c1 + 1
  let k2 := if ek then c2 + 1 else c2
  let er := ek && l2 ≤ k2
  let n2 := if er then 0 else k2
  (packFields 64 [(48, 16, c2), (32, 16, c1), (2, 1, b2n er), (1, 1, b2n ek), (0, 1, b2n (c1 == 0))],
   packFields 64 [(32, 32, bits w 63 32), (16, 16, n2), (0, 16, n1)])

/-- Update the counter register and deliver; a register already delivered to is REGDUP (10 R162; 14 R228). -/
def ctrGo (s : State) (ts : List Tgt) (reg : Nat) (w : W64) : Res :=
  if s.cur.regTaken reg then .trap (trap .regdup)
  else .done (s.onCur (·.act (.ctr reg (ctrStep w).2))) (toEach ts (.data (ctrStep w).1))

/-- The bound that port 63 gives to a counter (14 R228). -/
def ctrBound (w : W64) (v : Value) : W64 := packFields 64 [(32, 32, bits v.lo 63 32), (0, 32, bits w 31 0)]

/-- BOUNDKIND, with the tag of port 63's head: WIDE, KIND and CAP, and its TIME (14 Table 14-6; log entry 15 (DESIGN CHOICE)). -/
def boundTrap (v : Value) (heads : List Token) : Trap :=
  ⟨.boundkind, BitVec.ofNat 64 v.tagBits, (heads.head?.map (·.time)).getD 0⟩

/-- CTR (14 R228). -/
def execCtr (p : Pm) (t u : Tgt) (bp : Bool) (reg : BitVec 4) (s : State) : Host.Outcome State Fault Refusal :=
  issue p 0 [t, u] s fun _ =>
    let r := s.getReg s.cur.agent reg.toNat
    match r.st with
    | .empty => .wait s
    | .failed e => .trap e
    | .full =>
      let s := s.raisePts r.ts
      let w : W64 := r.bits.setWidth 64
      if !bp then ctrGo s [t, u] reg.toNat w
      else
        let ip := s.portOf s.cur 63
        match yieldOpt s.cur.time ip.frontier ip.fstamp (s.heads s.cur 63) with
        | .later => .wait s
        | .bad e => .trap e
        | .got v stamp n =>
          let s := (s.raisePts stamp).onCur (·.take 63 n)
          match v.kind with
          | .bound => ctrGo s [t, u] reg.toNat (ctrBound w v)
          | .eos | .absent => ctrGo s [t, u] reg.toNat w
          | _ => .trap (boundTrap v (s.heads s.cur 63))

end Sys2Proof.Machine
end

