-- ==== Sys2Proof/Machine/CommitCheck.lean ====
section
/-! DEFINITION. CommitCheck: what a commit checks before any effect is applied (14 R221; 15 R234, R237 to R240, R244;
11 R186), and what it waits for (09 R141, R148; 11 R187; 12 R195; 07 R107, R111; 20 R304; 14 R220; 22 R329). -/

namespace Sys2Proof.Machine

/-- The effects of a block in slot order. -/
def Frame.inSlots (f : Frame) : List (Nat × Act) :=
  (List.range 64).flatMap fun k => f.acts.filter fun a => a.1 = k

/-! ## Accumulator names (14 R221) -/

/-- Which names are mapped after a command. -/
def namesAfter (m : List Bool) : MatOp → List Bool
  | .mma _ .z acc _ _ _ => m.set acc true
  | .mrel _ acc _ _ _ => m.set acc false
  | .job _ acc _ => m.set acc true
  | _ => m

/-- The name that a command needs and that is not mapped. -/
def namesBad (m : List Bool) : MatOp → Option Nat
  | .mma _ .k acc _ _ _ | .mma _ .d acc _ _ _ | .mst _ acc _ _ _ _ | .mrel _ acc _ _ _ => if m.getD acc false then none else some acc
  | _ => none

/-- The names as the queue will leave them. -/
def Matrix.names (m : Matrix) : List Bool :=
  m.queue.foldl (fun n c => namesAfter n c.op) ((List.range 4).map fun a => (m.map.getD a none).isSome)

/-- The first slot whose command is MATSTATE, and the name that it needs. -/
def matFault : List Bool → List (Nat × Act) → Option (Nat × Nat)
  | _, [] => none
  | m, (k, .matrix op) :: l =>
    match namesBad m op with
    | some a => some (k, a)
    | none => matFault (namesAfter m op) l
  | m, _ :: l => matFault m l

/-! ## Planes (15 R234) -/

/-- The plane table after an operation, as far as the checks look at it. -/
def planesAfter (t : Map PlaneEntry) : LatOp → Map PlaneEntry
  | .pldef n d q => t.set n ⟨d, q, 0⟩
  | .pcopy .swap a b =>
    if a = b then t
    else
      let x := planeAt t a
      let y := planeAt t b
      (t.set a { x with desc := insertBits x.desc 0 19 (bits y.desc 18 0), act := y.act }).set b
        { y with desc := insertBits y.desc 0 19 (bits x.desc 18 0), act := x.act }
  | _ => t

/-- Two descriptors differ in more than BASE. -/
def descDiffer (x y : PlaneEntry) : Bool := x.desc >>> 19 != y.desc >>> 19

/-- The planes of PSHIFT or PCOPY cannot be used together (15 R238). -/
def pairBad (x y : PlaneEntry) : Bool := !x.defined || !y.defined || descDiffer x y || x.q != y.q

/-- A shift reaches too far for the plane (15 R238). -/
def shiftTooFar (rc : Rect) (g : Geo) (w : W64) : Bool :=
  [0, 1, 2].any (fun a => (g.len a : Int) < (shiftOf w a).natAbs ||
    (modeOf w a == 3 && (extents rc g).getD a 1 < (shiftOf w a).natAbs)) ||
  (g.dim == 1 && shiftOf w 2 != 0)

/-- Two planes of a PSTEP differ in DIM, extents or brick shape (15 R240). -/
def shapeDiffer (x y : PlaneEntry) : Bool := x.geo.dim != y.geo.dim || x.geo.b != y.geo.b || x.geo.n != y.geo.n

/-- The planes that a PSTEP names cannot be used (15 R240). -/
def stepBad (t : Map PlaneEntry) (win wout : W64) : Option W64 :=
  let rip := planeAt t (stepRip win)
  if !rip.defined || rip.geo.efmt != 4 ||
      (stepIns win).any (fun k => !(planeAt t k).defined || shapeDiffer rip (planeAt t k)) then some win
  else if (stepOuts wout).any fun k => !(planeAt t k).defined || shapeDiffer rip (planeAt t k) then some wout
  else none

/-- The word of a PSTEP that does not have a port or an input that a resident rule block names (15 R240). -/
def ruleBad (rules : Map (List Word)) (win wout : W64) : Option W64 :=
  let is := rules.flatMap fun e => instrsOf (imageSlots' e.2)
  if is.any fun i => (targetsOf i).any fun t => match t with
      | .port k => (stepOuts wout).length ≤ k.toNat
      | _ => false then some wout
  else if is.any fun i => match i with
      | .site _ _ _ (.inp k) => (stepIns win).length ≤ k.toNat
      | _ => false then some win
  else none
where
  /-- The slots of a block image. -/
  imageSlots' (ws : List Word) : List Word := (ws.drop 1).take (bits (ws.headD 0) 29 24 + 1)

/-- The fault of a lattice operation against a table. -/
def latFault (rc : Rect) (rules : Map (List Word)) (t : Map PlaneEntry) : LatOp → Option Trap
  | .pldef _ _ _ => none
  | .pshift w _ =>
    let x := planeAt t (shiftSrc w)
    let y := planeAt t (shiftDst w)
    if x.defined && shiftTooFar rc x.geo w then some (wordTrap .badshift w)
    else if pairBad x y then some (wordTrap .badplane w)
    else none
  | .pstep a b =>
    match stepBad t a b with
    | some w => some (wordTrap .badplane w)
    | none => (ruleBad rules a b).map (wordTrap .pstepbind)
  | .pact _ n w m =>
    let e := planeAt t n
    if !e.defined || badMask e.geo w 0 then some (wordTrap .badplane (BitVec.ofNat 64 (n + 16 * w)))
    else if badMask e.geo w m then some (wordTrap .badplane m)
    else none
  | .pcopy _ a b =>
    if pairBad (planeAt t a) (planeAt t b) then some (wordTrap .badplane (BitVec.ofNat 64 (a + 16 * b))) else none

/-- The first lattice fault of a block, in slot order. -/
def latticeFault (rc : Rect) (rules : Map (List Word)) : Map PlaneEntry → List (Nat × Act) → Option (Nat × Trap)
  | _, [] => none
  | t, (k, .lattice op) :: l =>
    match latFault rc rules t op with
    | some e => some (k, e)
    | none => latticeFault rc rules (planesAfter t op) l
  | t, _ :: l => latticeFault rc rules t l

/-! ## Local memory -/

/-- A local store that merges into a granule that cannot be corrected (11 R186). -/
def Pe.partialBad (p : Pe) (job a n : Nat) : Option Trap :=
  if p.present job (pageOf a) then
    ((gransOf a n).find? fun g => p.softBad.contains g && !(a ≤ 16 * g && 16 * g + 16 ≤ a + n)).map uncorrTrap
  else none

/-- The slot number under which a block's commit waits for pages (07 R107). -/
def commitTurn : Nat := 64

/-- A refill that the commit of an agent has waited for has failed (07 R107). -/
def Pe.commitRefill (p : Pe) (a : Agent) (addr : Nat) : Option Trap :=
  (p.refillBad (.slot a commitTurn) [pageOf addr]).map fun c => refillTrap c addr

/-- The fault of one local store-class access of an agent at the commit. -/
def Pe.localFault (p : Pe) (ag : Agent) (job : Nat) : Act → Option Trap
  | .lstore _ a n _ .waitFill => (p.commitRefill ag a).orElse fun _ => p.partialBad job a n
  | .lstore _ a n _ _ => p.partialBad job a n
  | .latom _ a n _ _ _ _ =>
    (p.commitRefill ag a).orElse fun _ => if p.present job (pageOf a) then (p.badGran a n).map uncorrTrap else none
  | _ => none

/-- The fault of one buffer or copy command at the commit, whose handle the other agent of the PE has used since the issue (06 R92,
R93, R95, R100; 12 R195). -/
def State.bufferFault (s : State) (f : Frame) : Act → Option Trap
  | .bufdef h _ => let hd := s.handle f.pe h; if hd.isOpen then some (handleTrap .bufbusy h hd) else none
  | .bufput h =>
    let hd := s.handle f.pe h
    if hd.psn && !(hd.inbound && hd.canPut) then some (copyTrap f.pe h hd)
    else if !hd.canPut then some (handleTrap .bufstate h hd) else none
  | .cpyopen h _ brs => (s.unfitBranch (s.handle f.pe h).dir brs).map fun x => handleTrap .bufstate x.1 x.2
  | _ => none

/-- The precise fault of a commit, with its slot: a control block without an exit (09 R147), MATSTATE, a lattice condition, a handle
that has changed, and an uncorrectable granule. -/
def State.commitFault (s : State) (f : Frame) : Option (Nat × Trap) :=
  let p := s.pe f.pe
  let acts := f.inSlots
  if f.kind == .control && f.exit.isNone then some (f.last, trap .blockexit)
  else
    match matFault p.matrix.names acts with
    | some x => some (x.1, ⟨.matstate, BitVec.ofNat 64 x.2, 0⟩)
    | none =>
      match latticeFault (s.region f.region).rect p.active.rules
          (p.lops.foldl (fun t o => planesAfter t o.op) p.planes) acts with
      | some e => some e
      | none => acts.findSome? fun a => ((s.bufferFault f a.2).orElse fun _ => p.localFault f.agent f.job a.2).map fun t => (a.1, t)

/-! ## Waits -/

/-- Granules that the STLF.w instructions of a block name, with their slots. -/
def Frame.waitGrans (f : Frame) : List (Nat × Nat) :=
  f.acts.filterMap fun a => match a.2 with
    | .lstore _ ad _ _ .waitFill => some (granOf ad, a.1)
    | _ => none

/-- Pages that the local accesses of a block need before the commit, and pages whose stores may enter the table. -/
def Frame.pagesNeeded (f : Frame) : List Nat :=
  f.acts.filterMap fun a => match a.2 with
    | .lstore _ ad _ _ .waitFill => some (pageOf ad)
    | .latom _ ad _ _ _ _ _ => some (pageOf ad)
    | _ => none

/-- The pages of plain stores and STLF. -/
def Frame.pagesStored (f : Frame) : List Nat :=
  f.acts.filterMap fun a => match a.2 with
    | .lstore _ _ _ _ .waitFill => none
    | .lstore _ ad _ _ _ => some (pageOf ad)
    | _ => none

/-- The granules that would stand in the forwarding table. -/
def Frame.tableGrans (f : Frame) (p : Pe) : Nat :=
  ((p.fwd.map (·.gran)) ++ f.acts.flatMap fun a => match a.2 with
    | .lstore _ ad n _ fe => if fe != .waitFill && !p.present f.job (pageOf ad) then gransOf ad n else []
    | _ => []).eraseDups.length

/-- A page is needed and is not there; or the table has no room for the stores (07 R107, R111). -/
def Frame.pagesWait (f : Frame) (p : Pe) : Bool :=
  f.pagesNeeded.any (fun n => !p.present f.job n) || 16 < f.tableGrans p

/-- An STLF.w waits for its granule, or for an access that began to wait before it (11 R187; 07 R109). -/
def Frame.emptyWait (f : Frame) (p : Pe) : Bool :=
  f.waitGrans.any fun g => p.isFull g.1 || p.queuedBefore g.1 f.agent g.2 false

/-- Stand among the waiters for every granule. -/
def Frame.awaitAll (f : Frame) (p : Pe) : Pe := f.waitGrans.foldl (fun p g => p.await g.1 f.agent g.2 false) p

/-- Leave the waiters for every granule. -/
def Frame.servedAll (f : Frame) (p : Pe) : Pe := f.waitGrans.foldl (fun p g => p.served g.1 f.agent g.2) p

/-- A BUFGET of the block named a slot that another commit has taken: since the issue the handle has given another slot, or its slot has
changed its state or is that of a poisoned handle (12 R195; 06 R100). Log entry 22 (DEDUCED). -/
def Pe.getMoved (p : Pe) : Act → Bool
  | .bufget h k n false =>
    let hd := Map.get Handle.blank p.handles h
    hd.taken != n || hd.rd != k || hd.slotAt k != hd.takes || (hd.psn && !hd.inbound)
  | _ => false

/-- The slots of the block whose BUFGET has lost its slot. Log entry 22 (DEDUCED). -/
def Frame.bufMoved (f : Frame) (p : Pe) : List Nat := (f.acts.filter fun a => p.getMoved a.2).map Prod.fst

/-- Registers that the commit writes or empties. -/
def Frame.regsWritten (f : Frame) : List Nat :=
  f.acts.filterMap fun a => match a.2 with
    | .reg _ none => none
    | x => x.regDelivered

/-- The output ports on which the block sends a token. -/
def Frame.portsSent (f : Frame) : List Nat :=
  f.acts.filterMap fun a => match a.2 with
    | .send p (some _) => some p
    | .mrelKind p _ => some p
    | _ => none

/-- A circuit that an output port begins still holds a token that has not left the PE, or the tile of an MREL is still to leave
by it (08 R119; 09 R143). Log entry 19 (DEDUCED). -/
def Pe.portBusy (p : Pe) (port : Nat) : Bool :=
  (match p.tagOf port with
    | some tag => !(Map.get [] p.outq tag).isEmpty
    | none => port == 63 && !(Map.get [] p.outq dispatchTag).isEmpty) ||
  p.matrix.queue.any fun c => match c.op with
    | .mrel _ _ q _ _ => q == port
    | _ => false

/-- The matrix commands, copies opened and calls of a block. -/
def Frame.matrixOps (f : Frame) : Nat := (f.acts.filter fun a => match a.2 with
  | .matrix _ => true
  | _ => false).length
/-- Streams opened. -/
def Frame.opens (f : Frame) : Nat := (f.acts.filter fun a => match a.2 with
  | .cpyopen _ _ _ => true
  | _ => false).length
/-- Calls to a queue. -/
def Frame.callsTo (f : Frame) (q : Queue) : Nat := (f.acts.filter fun a => match a.2 with
  | .callq x _ _ => x == q
  | _ => false).length

/-- The calls that wait in a queue of a die. -/
def State.queueOfDie (s : State) (d : Nat) (q : Queue) : List Call :=
  Map.get [] (s.die d).copro.queues (queueCode q)

/-- The queues of a module. -/
def allQueues : List Queue := [.rast, .zb, .tess, .tfil, .rtrav, .asb]

/-- The calls of a region that are queued or held. -/
def State.regionCalls (s : State) (rid : Nat) : Nat :=
  s.dies.foldl (fun n d =>
    n + d.2.copro.queues.foldl (fun n q => n + (q.2.filter fun c => c.region == rid && c.batch.isNone).length) 0 +
    d.2.copro.units.foldl (fun n u => n + (u.2.held.filter fun c => c.2.region == rid).length) 0) 0

/-- A queue has no room for the calls of a block. -/
def State.callsWait (s : State) (f : Frame) : Bool :=
  allQueues.any fun q => f.callsTo q != 0 &&
    (64 < (s.queueOfDie (peDie (hostPe f.pe)) q).length + f.callsTo q || 512 < s.regionCalls f.region + f.callsTo q)

/-- An AG node's firings commit in the order in which they were admitted (12 R197). -/
def State.agTurn (s : State) (f : Frame) : Bool :=
  match f.agent with
  | .ag a k => (Map.get Ag.blank s.ags a).inflight.head? == some k
  | _ => true

/-- A request of a commit would be the ninth of its stream (08 R124): an atomic or compare-and-swap of a node's slot, or a store of an AG
node, whose stores form its scatter stream. -/
def State.storesFull (s : State) (f : Frame) : Bool :=
  f.acts.any fun a => match a.2, f.agent with
    | .store _ _, .ag _ _ | .scatter _, _ => s.streamFull f.agent f.port.pid fun r => r.op.writes
    | .store _ r, _ => r.op != .store && r.op != .storeV && s.streamFull f.agent f.port.pid fun q => q.remoteLoad f.agent a.1
    | _, _ => false

/-- Something that the commit waits for, apart from local pages and granules. Log entry 19 (DEDUCED). -/
def State.commitWaits (s : State) (f : Frame) : Bool :=
  let p := s.pe f.pe
  let own := (agentKey f.agent).map s.pe
  !s.agTurn f || s.storesFull f ||
  (f.opens != 0 && 32 < (s.bay (bayOf f.pe)).streams.length + f.opens) ||
  countRoom ≤ (s.bay (agentBay f.agent)).batches.length ||
  (f.matrixOps != 0 && 16 < p.matrix.queue.length + f.matrixOps) ||
  s.callsWait f ||
  (match own with
    | some q => f.portsSent.any q.portBusy
    | none => false) ||
  f.regsWritten.any fun i => (s.getReg f.agent i).pending

end Sys2Proof.Machine
end

