-- ==== Sys2Proof/Machine/Time.lean ====
section
/-! DEFINITION. Time: path summaries and frontiers (20 R295 to R301), and TIME, FRONT and TCAP (20 R309 to R312). -/

namespace Sys2Proof.Machine

/-! ## Path summaries (20 R295) -/

/-- The entry (a, b) of the path-summary table. -/
def Root.entry (r : Root) (a b : Nat) : Word := Map.get 0 r.summary (a * r.nloc + b)

/-- V(a, b). -/
def Root.leads (r : Root) (a b : Nat) : Bool := bitAt (r.entry a b) 31

/-- The image of a time under an entry (20 R295). -/
def summaryOf (e : Word) (t : LTime) : LTime :=
  let m := bits e 30 28
  let base := timeCut t (min m 4)
  if m = 0 then base else timeSet base m (min 2047 (timeField t m + bits e 27 17))

/-- Summary(a, b, t). -/
def Root.image (r : Root) (a b : Nat) (t : LTime) : LTime := summaryOf (r.entry a b) t

/-- The lesser of two times. -/
def minTime (a b : LTime) : LTime := if b < a then b else a

/-- The horizon h_S of a source or control location (20 R301): A_S is the least value held by any copy (28 R410). -/
def Horizon.time (h : Horizon) : LTime :=
  if h.opened.length < h.copies then 0
  else epochTime ((h.opened.foldl (fun m e => min m e.2) 0xFFFFF) + 1)

/-- F(L) from the positive counts that satisfy a test, and from the horizons (20 R301, R307). -/
def Root.frontier (r : Root) (counts : Nat → Bool) (l : Nat) : LTime :=
  let ps := (r.counts.filter fun c => 0 < c.2.2 && counts c.1 && r.leads c.1 l).map fun c => r.image c.1 l c.2.1
  let hs := (r.horizons.filter fun h => r.leads h.loc l).map fun h => r.image h.loc l h.time
  (ps ++ hs).foldl minTime LTime.top

/-! ## TIME (20 R309) -/

/-- TIME.NOW (20 R308, R309). -/
def execTimeNow (p : Pm) (t u : Tgt) (s : State) : Host.Outcome State Fault Refusal :=
  issue p 0 [t, u] s fun _ => .done s (toEach [t, u] (.data s.cur.time))

/-- The leading fields, epoch first, in which two times agree. -/
def equalFields (a b : LTime) : Nat := ((List.range 5).takeWhile fun k => timeField a k == timeField b k).length

/-- What TIME.CMP delivers (20 Table 20-5). -/
def timeOrder (a b : LTime) : W64 :=
  packFields 64 [(0, 2, if a = b then 0 else if a < b then 1 else 2), (2, 3, equalFields a b)]

/-- TIME.CMP (20 R309). -/
def execTimeCmp (p : Pm) (t u : Tgt) (s : State) : Host.Outcome State Fault Refusal := issue2 p [t, u] s timeOrder

/-- What TIME.MAKE delivers from a time and its operand word, or the fault (20 Table 20-5). -/
def timeMade (a w : W64) : Except Trap LTime :=
  let k := bits w 2 0
  let v := bits w 31 12
  if 4 < k || bits w 63 32 != 0 || bits w 11 5 != 0 then .error ⟨.timeopnd, w, 0⟩
  else
    let n := if bitAt w 3 then timeField a k + v else v
    if timeMax k < n then .error ⟨.timeovf, w, 0⟩
    else .ok (timeSet (if bitAt w 4 then timeCut a k else a) k n)

/-- TIME.MAKE (20 R309). -/
def execTimeMake (p : Pm) (t u : Tgt) (s : State) : Host.Outcome State Fault Refusal :=
  issue p 2 [t, u] s fun
    | [a, b] =>
      match timeMade a.lo b.lo with
      | .ok r => .done s (toEach [t, u] (.data r))
      | .error e => .trap e
    | _ => .done s []

/-- TIME.FIELD (20 R309). -/
def execTimeField (p : Pm) (t u : Tgt) (s : State) : Host.Outcome State Fault Refusal :=
  issue p 2 [t, u] s fun
    | [a, b] =>
      if 4 < b.lo.toNat then .trap ⟨.timeopnd, b.lo, 0⟩
      else .done s (toEach [t, u] (.data (BitVec.ofNat 64 (timeField a.lo b.lo.toNat))))
    | _ => .done s []

/-! ## FRONT (20 R310, R311) -/

/-- The root of a job. -/
def State.root (s : State) (job : Nat) : Root := (s.job job).root

/-- An entry of a job's group table (17 Table 17-3), its reserved bits zero; an entry that the launch gives no value reads as
undefined. -/
def State.groupEntry (s : State) (job k : Nat) : W64 := Map.get 0 (s.job job).pkg.groups k &&& 0xC003FF0000007FFF

/-- The location that a selector word names, or the fault (20 R310, Table 20-6). -/
def frontLoc (s : State) (w : W64) (port : Bool) : Except Trap Nat :=
  if bits w 63 26 != 0 || bits w 19 17 != 0 || bits w 15 10 != 0 || (bitAt w 16 && bits w 9 8 != 0) ||
      (!port && bits w 25 20 != 0) then .error ⟨.timeopnd, w, 0⟩
  else
    let g := s.groupEntry s.cur.job (bits w 7 0)
    if bitAt w 16 && !bitAt g 63 then .error ⟨.badgroup, w, 0⟩
    else
      let l := if bitAt w 16 then bits g 49 40 else bits w 9 0
      if (s.root s.cur.job).nloc ≤ l then .error ⟨.frontloc, w, 0⟩ else .ok l

/-- The frontier of a location with its stamp, as the agent's bay has been told or as the root announced it last
(20 R310). -/
def State.frontAt (s : State) (l : Nat) : LTime × Nat :=
  let told := match s.cur.agent with
    | .ctl _ => s.myRegion.fronts.find l
    | _ => none
  told.getD (Map.get 0 (s.root s.cur.job).front l, Map.get 0 (s.root s.cur.job).fstamp l)

/-- Deliver a frontier and raise the pts to its stamp. -/
def frontDone (s : State) (ts : List Tgt) (f : LTime × Nat) : Res := .done (s.raisePts f.2) (toEach ts (.data f.1))

/-- FRONT.READ (20 R310). -/
def execFrontRead (p : Pm) (t u : Tgt) (s : State) : Host.Outcome State Fault Refusal :=
  issue p 1 [t, u] s fun
    | [a] =>
      match frontLoc s a.lo false with
      | .error e => .trap e
      | .ok l => frontDone s [t, u] (s.frontAt l)
    | _ => .done s []

/-- FRONT.WAIT (20 R310). -/
def execFrontWait (p : Pm) (t u : Tgt) (s : State) : Host.Outcome State Fault Refusal :=
  issue p 2 [t, u] s fun
    | [a, b] =>
      match frontLoc s a.lo false with
      | .error e => .trap e
      | .ok l => if b.lo < (s.frontAt l).1 then frontDone s [t, u] (s.frontAt l) else .wait s
    | _ => .done s []

/-- A node's frontier port cannot be bound to a location (20 R311). -/
def badFrontPort (s : State) (key port l : Nat) : Bool :=
  let p := s.pe key
  !p.active.frp port || ((Map.get InPort.blank p.inports port).bound).isSome ||
  (match p.active.iloc port with
    | some own => (s.root s.cur.job).leads own l
    | none => true)

/-- FRONT.SUBSCRIBE (20 R310, R311): it acts at the commit. -/
def execFrontSubscribe (p : Pm) (s : State) : Host.Outcome State Fault Refusal :=
  issue p 1 [] s fun
    | [a] =>
      match agentKey s.cur.agent with
      | none =>
        match frontLoc s a.lo false with
        | .error e => .trap e
        | .ok l => .done (s.onCur (·.act (.subscribe 0 l))) []
      | some k =>
        match frontLoc s a.lo true with
        | .error e => .trap e
        | .ok l =>
          let port := bits a.lo 25 20
          if badFrontPort s k port l then .trap ⟨.frontsub, a.lo, 0⟩
          else .done (s.onCur (·.act (.subscribe port l))) []
    | _ => .done s []

/-! ## TCAP (20 R298, R312) -/

/-- The capability slots of a holder: held times by slot, the location and depth of each, the highest epoch opened at each location,
the location at which a new one is opened, its depth, and how many slots there are. -/
structure Caps where
  held  : Map LTime
  place : Map (Nat × Nat)
  hi    : Map Nat
  loc   : Option Nat
  depth : Nat
  room  : Nat
  deriving DecidableEq, Repr

/-- The slots of the agent whose block has its turn, as the last commit left them. -/
def State.capsNow (s : State) : Caps :=
  match agentKey s.cur.agent with
  | none =>
    let r := s.myRegion
    ⟨r.caps, r.capLoc, r.capHi, r.info.ctl.map Prod.fst, (r.info.ctl.getD (0, 0)).2, 8⟩
  | some k =>
    let p := s.pe k
    let l := p.active.sloc.getD 0
    ⟨p.caps, p.caps.map fun e => (e.1, (l, p.active.depth)),
     match p.capHi with
      | some e => [(l, e)]
      | none => [], p.active.sloc, p.active.depth, 2⟩

/-- The location of a slot, and its depth. -/
def Caps.placeOf (c : Caps) (k : Nat) : Nat × Nat := (c.place.find k).getD (c.loc.getD 0, c.depth)

/-- A_S after an epoch is opened (20 R298). -/
def Caps.raise (c : Caps) (l : Nat) (t : LTime) : Caps :=
  { c with hi := c.hi.set l (max (Map.get 0 c.hi l) (epochOf t)) }

/-- The slots after a command. Log entry 23 (DEDUCED). -/
def Caps.after (c : Caps) : TcapOp → Caps
  | .new k l t => { c with held := c.held.set k t, place := c.place.set k (l, c.depth) }.raise l t
  | .advance k t => { c with held := c.held.set k t }.raise (c.placeOf k).1 t
  | .drop k => { c with held := c.held.drop k, place := c.place.drop k }

/-- The capability commands that the block's earlier slots have issued, in slot order. Log entry 23 (DEDUCED). -/
def Frame.tcapBefore (f : Frame) (upto : Nat) : List TcapOp :=
  (List.range upto).flatMap fun k => f.acts.filterMap fun a =>
    if a.1 = k then match a.2 with
      | .tcap op => some op
      | _ => none
    else none

/-- The slots as the earlier slots of the block will leave them (20 R312). Log entry 74 (DEDUCED). -/
def State.capsView (s : State) : Caps := (s.cur.tcapBefore s.cur.turn).foldl Caps.after s.capsNow

/-- R298 allows a capability to be opened at a location and a time. Log entry 74 (DEDUCED). -/
def Caps.allows (c : Caps) (l : Nat) (t : LTime) : Bool :=
  (match c.hi.find l with
    | none => true
    | some a => a < epochOf t) ||
  c.held.any fun e => (c.placeOf e.1).1 == l && e.2 ≤ t

/-- The lowest free slot. -/
def Caps.free (c : Caps) : Option Nat := (List.range c.room).find? fun k => (c.held.find k).isNone

/-- TIMECAP with its operands. -/
def capFault (a t : W64) : Trap := ⟨.timecap, a, t⟩

/-- A capability command joins the commit. -/
def tcapAct (s : State) (op : TcapOp) (out : List (Tgt × Value)) : Res := .done (s.onCur (·.act (.tcap op))) out

/-- TCAP.NEW (20 R312): a control block names its region's control location; a node's op0 is zero. -/
def execTcapNew (p : Pm) (t u : Tgt) (s : State) : Host.Outcome State Fault Refusal :=
  issue p 2 [t, u] s fun
    | [a, b] =>
      let c := s.capsView
      let named := match agentKey s.cur.agent with
        | none => c.loc == some a.lo.toNat
        | some _ => a.lo == 0
      match c.loc, c.free with
      | some l, some k =>
        if !named || !timeFits b.lo c.depth then .trap (capFault a.lo b.lo)
        else if epochOf b.lo = 0xFFFFF then .trap ⟨.timeovf, b.lo, 0⟩
        else if !c.allows l b.lo then .trap (capFault a.lo b.lo)
        else tcapAct s (.new k l b.lo) (toEach [t, u] (.data (BitVec.ofNat 64 k)))
      | _, _ => .trap (capFault a.lo b.lo)
    | _ => .done s []

/-- TCAP.ADVANCE (20 R312). -/
def execTcapAdvance (p : Pm) (s : State) : Host.Outcome State Fault Refusal :=
  issue p 2 [] s fun
    | [a, b] =>
      let c := s.capsView
      match c.held.find a.lo.toNat with
      | some old =>
        if b.lo < old || !timeFits b.lo (c.placeOf a.lo.toNat).2 then .trap (capFault a.lo b.lo)
        else if epochOf b.lo = 0xFFFFF then .trap ⟨.timeovf, b.lo, 0⟩
        else tcapAct s (.advance a.lo.toNat b.lo) []
      | none => .trap (capFault a.lo b.lo)
    | _ => .done s []

/-- TCAP.DROP (20 R312). -/
def execTcapDrop (p : Pm) (s : State) : Host.Outcome State Fault Refusal :=
  issue p 1 [] s fun
    | [a] =>
      if (s.capsView.held.find a.lo.toNat).isSome then tcapAct s (.drop a.lo.toNat) [] else .trap (capFault a.lo 0)
    | _ => .done s []

end Sys2Proof.Machine
end

