-- ==== Sys2Proof/Machine/Section.lean ====
section
/-! DEFINITION. Section: the SECT commands at their issue (18 R279 to R287; 28 R411). What they do at the commit is in
Commit.lean. -/

namespace Sys2Proof.Machine

/-- A section command joins the commit. -/
def sectAct (s : State) (op : SectOp) (out : List (Tgt × Value)) : Res := .done (s.onCur (·.act (.sect op))) out

/-- An image that holds nothing. -/
def SectImage.blank : SectImage := ⟨SectInfo.blank, [], []⟩

/-- SECT.cfgload (18 R281): the image is read and checked at issue. -/
def execSectCfgload (p : Pm) (s : State) : Host.Outcome State Fault Refusal :=
  issue p 1 [] s fun
    | [a] =>
      let rid := s.cur.region
      if (s.sectView.after (.cfgload SectImage.blank)).isNone then .trap (sectTrap .sectstate s 0 a.lo)
      else if a.lo.toNat % 64 ≠ 0 then .trap ⟨.align, a.lo, 0⟩
      else
        match s.fetchImage (.slot s.cur.agent s.cur.turn) rid a.lo with
        | (s, .error none) => .wait s
        | (s, .error (some t)) => .trapIn s t
        | (s, .ok raw) =>
          match raw.parse a.lo (sectionAt (s.job s.cur.job).pkg a.lo) with
          | none => .trapIn s (imageTrap .badroute a.lo 0 0)
          | some img =>
            match imageFault s rid a.lo raw img with
            | some t => .trapIn s t
            | none => sectAct s (.cfgload img) []
    | _ => .done s []

/-- SECT.arm (18 R282). -/
def execSectArm (p : Pm) (s : State) : Host.Outcome State Fault Refusal :=
  issue p 2 [] s fun
    | [a, b] =>
      let e := b.lo.toNat
      if (s.sectView.after (.arm a.lo e)).isNone then .trap (sectTrap .sectstate s 1 b.lo)
      else if 0xFFFFF < e then .trap (sectTrap .sectopnd s 1 b.lo)
      else if e = 0xFFFFF then .trap ⟨.timeovf, b.lo, 0⟩
      else if s.sectView.epoch.any (fun x => decide (e ≤ x)) then .trap (sectTrap .secttime s 1 b.lo)
      else sectAct s (.arm a.lo e) []
    | _ => .done s []

/-- The node of the current section on a PE of the region. -/
def State.sectNode (s : State) (pe : Nat) : Option NodeInfo :=
  if pe < agBase && s.myRegion.rect.has pe then
    s.sectView.info.nodes.find? fun n => n.place == s.myRegion.placeOf pe
  else none

/-- SECT.bound (18 R283). -/
def execSectBound (p : Pm) (s : State) : Host.Outcome State Fault Refusal :=
  issue p 3 [] s fun
    | [a, b, c] =>
      let v := s.sectView
      if (v.after (.bound 0 b.lo c.lo)).isNone then .trap (sectTrap .sectstate s 2 a.lo)
      else if a.lo.toNat / 2 ^ 15 ≠ 0 then .trap (sectTrap .sectopnd s 2 a.lo)
      else
        match s.sectNode a.lo.toNat with
        | none => .trap (sectTrap .sectdest s 2 a.lo)
        | some n =>
          if c.lo < epochTime (v.epoch.getD 0) || c.lo < Map.get 0 v.times n.place then
            .trap (sectTrap .secttime s 2 c.lo)
          else sectAct s (.bound n.place b.lo c.lo) []
    | _ => .done s []

/-- SECT.drain (18 R284). -/
def execSectDrain (p : Pm) (s : State) : Host.Outcome State Fault Refusal :=
  issue p 0 [] s fun _ =>
    if (s.sectView.after .drain).isNone then .trap (sectTrap .sectstate s 3 0) else sectAct s .drain []

/-! ## SINKW (18 R285; 28 R411) -/

/-- The deferred copy records of a region's fault queue. -/
def Region.unjoined (r : Region) : List TrapRecord := r.faultq.filter recDeferred

/-- SINKERR: the error class and the entries in the fault queue. -/
def sinkTrap (r : Region) (cls : Nat) : Trap := ⟨.sinkerr, BitVec.ofNat 64 cls, BitVec.ofNat 64 r.faultq.length⟩

/-- A pointstamp stands at a location of a list. -/
def Root.holdsAt (r : Root) (ls : List Nat) : Bool := r.counts.any fun c => 0 < c.2.2 && ls.contains c.1

/-- A batch of a job is still on its way to the root (20 R300). -/
def State.countsMoving (s : State) (job : Nat) : Bool :=
  s.bays.any (fun b => b.2.batches.any (·.job == job)) || s.dies.any (fun d => d.2.batches.any (·.job == job)) ||
  !(s.root job).queue.isEmpty

/-- A node is idle: no block of it runs and its configuration has ended or is none (17 R263, R265). -/
def State.nodeIdle (s : State) (key : Nat) : Bool :=
  !((s.cur :: s.parked).any fun f => f.live && agentOnNode key f.agent) &&
  ((s.pe key).active.node.isNone || (s.pe key).finished || (s.pe key).sealed)

/-- Nothing that a firing of a node started after its commit is still running (28 R411). -/
def State.afterQuiet (s : State) (key : Nat) : Bool :=
  let p := s.pe key
  p.matrix.queue.isEmpty && p.lops.isEmpty && !p.stepRun.live && !p.src.busy && !p.snk.busy && p.march.isEmpty &&
  (s.streamsOf key).isEmpty &&
  s.tails.all (fun t => match t.who with
    | .blk a => !agentOnNode key a
    | .copy _ _ => true) &&
  s.transfers.all fun t => !agentOnNode key t.agent

/-- A call of a region is queued, runs or is held. -/
def State.callsOf (s : State) (rid : Nat) : Nat :=
  s.dies.foldl (fun n d =>
    n + (d.2.copro.queues.foldl (fun n q => n + (q.2.filter fun c => c.region == rid && c.batch.isNone).length) 0) +
    d.2.copro.units.foldl (fun n u =>
      n + (u.2.running.toList.filter fun x => x.call.region == rid && x.call.batch.isNone).length +
      (u.2.held.filter fun h => h.2.region == rid && h.2.batch.isNone).length +
      (u.2.ready.filter fun x => x.call.region == rid && x.call.batch.isNone).length) 0) 0

/-- A section with no sink has ended: no pointstamp, no capability, nothing running after a commit (28 R411). -/
def State.sectEnded (s : State) (rid : Nat) (i : SectInfo) : Bool :=
  let r := s.region rid
  !s.countsMoving r.job && !(s.root r.job).holdsAt i.locs && r.caps.isEmpty &&
  r.nodes.all (fun k => (s.pe k).caps.isEmpty && s.afterQuiet k) && s.callsOf rid == 0

/-- A firing of the section at a time up to `t` runs, or has still to run: a token or a capability at such a time is counted at a
location of the section (18 R285). Log entry 106 (DEDUCED). -/
def State.firingsUpTo (s : State) (i : SectInfo) (t : LTime) : Bool :=
  (s.cur :: s.parked).any (fun f => f.live && f.region == s.cur.region && (agentKey f.agent).isSome && f.time ≤ t) ||
  (s.root s.cur.job).counts.any fun c => 0 < c.2.2 && i.locs.contains c.1 && c.2.1 ≤ t

/-- What SINKW delivers: the least frontier announced at the sinks, or all ones when no pointstamp remains at any
(18 R285). -/
def sinkValue (root : Root) (sinks : List Nat) : LTime :=
  if root.holdsAt sinks then (sinks.map (Map.get 0 root.front)).foldl minTime LTime.top else LTime.top

/-- SECT.sinkw (18 R285; 28 R411): in DONE it does not wait (18 Table 18-3). -/
def execSectSinkw (p : Pm) (t u : Tgt) (s : State) : Host.Outcome State Fault Refusal :=
  issue p 1 [t, u] s fun
    | [a] =>
      let v := s.sectView
      let root := s.root s.cur.job
      let sinks := v.info.sinks
      if (v.after .sinkw).isNone then .trap (sectTrap .sectstate s 4 a.lo)
      else if v.st != .done && !(if sinks.isEmpty then s.sectEnded s.cur.region v.info
          else sinks.all (fun l => a.lo < Map.get 0 root.front l) && !s.firingsUpTo v.info a.lo) then .wait s
      else
        match s.myRegion.sinkErr with
        | some c => .trap (sinkTrap s.myRegion c)
        | none =>
          if !s.myRegion.unjoined.isEmpty then .trap (sinkTrap s.myRegion clsUnjoined)
          else
            let stamp := if sinks.isEmpty then root.stamp
              else (sinks.map (Map.get 0 root.fstamp)).foldl max 0
            sectAct (s.raisePts stamp) .sinkw (toEach [t, u] (.data (sinkValue root sinks)))
    | _ => .done s []

/-! ## RELEASE (18 R286) -/

/-- A buffer handle of the region is open. -/
def State.anyOpen (s : State) (r : Region) : Bool := r.nodes.any fun k => (s.pe k).handles.any fun h => h.2.isOpen

/-- SECT.release (18 R286). -/
def execSectRelease (p : Pm) (s : State) : Host.Outcome State Fault Refusal :=
  issue p 0 [] s fun _ =>
    let r := s.myRegion
    if (s.sectView.after .release).isNone || s.anyOpen r then .trap (sectTrap .sectstate s 5 0)
    else if r.nodes.all s.nodeIdle && !s.countsMoving s.cur.job && !(s.root s.cur.job).holdsAt s.sectView.info.locs then
      sectAct s .release []
    else .wait s

/-! ## Collectives (18 R287) -/

/-- A word of GRED or GBCAST has a reserved bit set, or an invalid OP. Log entry 56 (DEDUCED). -/
def badCollective (w : W64) (gred : Bool) : Bool :=
  bits w 63 15 != 0 || (if gred then 5 < bits w 10 8 else bits w 10 8 != 0)

/-- The members of a group in a region: configured nodes whose slots name it (17 R266). Log entry 81 (DEDUCED). -/
def State.groupMembers (s : State) (r : Region) (grp : Nat) : List Nat :=
  r.nodes.filter fun k => (s.pe k).active.node.isSome && (groupList (s.pe k).active.groups).contains grp

/-- A member runs a firing now. Log entry 81 (DEDUCED). -/
def State.firingNow (s : State) (key : Nat) : Bool :=
  (s.cur :: s.parked).any fun f => f.live && agentOnNode key f.agent

/-- The sum of the fixed tree, or the fold of an operation that any order gives alike (15 R243; 18 R287). Log entry 81
(DEDUCED). -/
def gredValue (op : Nat) (vs : List W64) : W64 × Flags :=
  let f := fun (g : W64 → W64 → W64) => match vs with
    | [] => 0
    | v :: r => r.foldl g v
  match op with
  | 0 => (f (· + ·), Flags.none)
  | 1 => (f fun a b => if a.toInt < b.toInt then b else a, Flags.none)
  | 2 => (f fun a b => if b.toInt < a.toInt then b else a, Flags.none)
  | 3 =>
    let k := treeDepth vs.length
    let r := treeSum k (vs.map BitVec.toNat ++ List.replicate (2 ^ k - vs.length) 0) Flags.none
    (BitVec.ofNat 64 r.1, r.2)
  | 4 => (f (· &&& ·), Flags.none)
  | _ => (f (· ||| ·), Flags.none)

/-- The group of a control word is defined and has a member in the region. -/
def State.goodGroup (s : State) (grp : Nat) : Bool :=
  bitAt (s.groupEntry s.cur.job grp) 63 && !(s.groupMembers s.myRegion grp).isEmpty

/-- SECT.gred (18 R287). Log entry 56 (DEDUCED). -/
def execSectGred (p : Pm) (t u : Tgt) (s : State) : Host.Outcome State Fault Refusal :=
  issue p 2 [t, u] s fun
    | [a, b] =>
      let grp := bits a.lo 7 0
      let reg := bits a.lo 14 11
      let e := s.groupEntry s.cur.job grp
      let ms := s.groupMembers s.myRegion grp
      let root := bits e 14 0
      if (s.sectView.after (.gred none 0 0)).isNone then .trap (sectTrap .sectstate s 6 a.lo)
      else if badCollective a.lo true then .trap (sectTrap .sectopnd s 6 a.lo)
      else if !s.goodGroup grp then .trap (sectTrap .badgroup s 6 a.lo)
      else if !(b.lo < Map.get 0 (s.root s.cur.job).front (bits e 49 40)) || ms.any s.firingNow then .wait s
      else
        let rs := ms.map fun k => Map.get Reg.blank (s.pe k).nregs reg
        if rs.any fun r => r.st != .full then .trap (sectTrap .regempty s 6 a.lo)
        else
          let r := gredValue (bits a.lo 10 8) (rs.map fun r => r.bits.setWidth 64)
          let dst := if root < agBase && s.myRegion.rect.has root then some root else none
          sectAct (s.onCur (·.flag r.2)) (.gred dst reg r.1) (toEach [t, u] (.data r.1))
    | _ => .done s []

/-- SECT.gbcast (18 R287). Log entry 56 (DEDUCED). -/
def execSectGbcast (p : Pm) (s : State) : Host.Outcome State Fault Refusal :=
  issue p 2 [] s fun
    | [a, b] =>
      if (s.sectView.after (.gbcast 0 0 0)).isNone then .trap (sectTrap .sectstate s 7 a.lo)
      else if badCollective a.lo false then .trap (sectTrap .sectopnd s 7 a.lo)
      else if !s.goodGroup (bits a.lo 7 0) then .trap (sectTrap .badgroup s 7 a.lo)
      else sectAct s (.gbcast (bits a.lo 7 0) (bits a.lo 14 11) b.lo) []
    | _ => .done s []

end Sys2Proof.Machine
end

