-- ==== Sys2Proof/Machine/System.lean ====
section
/-! DEFINITION. System: the SYS instructions (24 R371 to R377; 26 R400 to R402) and SREG with the system registers
(24 R378, R379). -/

namespace Sys2Proof.Machine

/-! ## Operands -/

/-- SYSOPND with the offending word, and the register's number for SREG. -/
def sysTrap (w : W64) (num : Nat) : Trap := ⟨.sysopnd, w, BitVec.ofNat 64 num⟩

/-- The bits of a value outside a mask are zero (24 R371). -/
def withinMask (v mask : W64) : Bool := v &&& ~~~mask == 0

/-- The agent of the block whose turn it is runs in executive mode (24 Table 24-3). -/
def State.executive (s : State) : Bool := statusExe (s.statusOf s.cur.agent)

/-- Change the status register of an agent. -/
def State.onStatus (s : State) (a : Agent) (g : W64 → W64) : State :=
  match a with
  | .ctl r => s.onRegion r fun x => { x with status := g x.status }
  | .node p => s.onPe p fun x => { x with status := g x.status }
  | .rule p => s.onPe p fun x => { x with status := g x.status }
  | .ag a _ => s.onPe (agBase + a) fun x => { x with status := g x.status }

/-! ## TRAP, BKPT, ERET, FEATQ, WDOG -/

/-- SYS.trap (24 R372): SWTRAP with the code in INFO0. -/
def execSysTrap (p : Pm) (s : State) : Host.Outcome State Fault Refusal :=
  issue p 1 [] s fun
    | [a] => .trap (if withinMask a.lo 0xFFFF then ⟨.swtrap, a.lo, 0⟩ else sysTrap a.lo 0)
    | _ => .done s []

/-- The agent stops in a BREAK until the executive resumes it, and its block has committed nothing (24 R372). Log entry 39
(DEDUCED). -/
def State.breakStop (s : State) : State :=
  let f := s.cur
  let s := { s.forget (· == f.agent) with cur := { f with live := false }, tails := s.tails ++ f.leftPort }
  match f.agent with
  | .ctl r => s.onRegion r fun x => { x with brkStop := true }
  | .ag n k => (s.leaveAg n k).onPe (agBase + n) fun x => { x with stopped := true, brkStop := true }
  | a => match agentKey a with
    | some k => s.onPe k fun x => { x with stopped := true, brkStop := true }
    | none => s

/-- SYS.bkpt (24 R372): BREAK to the executive with DBG = 1; as NULL with DBG = 0, or once after SKIPBK was set. -/
def execSysBkpt (p : Pm) (s : State) : Host.Outcome State Fault Refusal :=
  issueAny p 1 s fun vs =>
    match nonData vs, vs with
    | none, [a] =>
      let st := s.statusOf s.cur.agent
      if !withinMask a.lo 0xFFFF then .trap (sysTrap a.lo 0)
      else if statusDbg st && !statusSkip st then .stop s.breakStop
      else .done (s.onStatus s.cur.agent fun w => statusSet w 12 false) []
    | _, _ => .done s []

/-- ORIGIN of the record in SYS_TREC. -/
def trecOrigin (t : W512) : Nat := bits t 51 48
/-- SEV of the record in SYS_TREC. -/
def trecSev (t : W512) : Nat := bits t 47 46

/-- A mode of ERET is legal for the record that the handler runs for (24 R373). -/
def eretAllowed (trec : W512) (mode : Nat) (addr : W64) : Bool :=
  match mode with
  | 0 => true
  | 1 => (trecOrigin trec == 0 || trecOrigin trec == 8) && addr.toNat % 4 == 0
  | 2 => trecOrigin trec != 0 && trecSev trec != 3
  | _ => false

/-- THE RETURN FROM THE HANDLER, SYS.eret (24 R373): legal while INH = 1; it takes the place of the block's exit. -/
def execSysEret (p : Pm) (s : State) : Host.Outcome State Fault Refusal :=
  issue p 2 [] s fun
    | [a, b] =>
      let r := s.myRegion
      if !withinMask a.lo 3 then .trap (sysTrap a.lo 0)
      else if !statusInh r.status || !eretAllowed r.trec a.lo.toNat b.lo then .trap ⟨.eretstate, a.lo, b.lo⟩
      else takeExit s (.eret a.lo.toNat b.lo) 0
    | _ => .done s []

/-- The word of SYS.featq on a die (24 R374). Log entry 72 (DEDUCED). -/
def featWord (die : Nat) : W64 := packFields 64 [(16, 16, 0x1640), (14, 2, die), (0, 6, 0x3F)]

/-- SYS.featq (24 R374). -/
def execSysFeatq (p : Pm) (t u : Tgt) (s : State) : Host.Outcome State Fault Refusal :=
  issue p 0 [t, u] s fun _ => .done s (toEach [t, u] (.data (featWord (peDie s.cur.pe))))

/-- SYS.wdog (24 R375): SYS_WDOG as it stands is delivered; the deadline and the stall limit change at the commit. -/
def execSysWdog (p : Pm) (t u : Tgt) (s : State) : Host.Outcome State Fault Refusal :=
  issue p 2 [t, u] s fun
    | [a, b] =>
      let limit := (s.job s.cur.job).pkg.stall
      if !withinMask a.lo 0xFFFFFFFF then .trap (sysTrap a.lo 0)
      else if !withinMask b.lo 0xFFFFFF || limit < b.lo.toNat || (b.lo == 0 && limit != 0) then .trap (sysTrap b.lo 0)
      else
        .done (s.onCur (·.act (.wdog (packFields 64 [(0, 32, a.lo.toNat), (32, 24, b.lo.toNat)]))))
          (toEach [t, u] (.data s.myRegion.wdog))
    | _ => .done s []

/-- What WDOG makes of SYS_WDOG at the commit (24 R375). Log entry 79 (DESIGN CHOICE). -/
def wdogSet (w : W64) (arg : W64) : W64 :=
  insertBits (insertBits w 32 32 (min (bits w 63 32) (bits arg 31 0))) 8 24 (bits arg 55 32)

/-! ## Counters and marks (26 R400 to R402) -/

/-- The bays of the region of the block whose turn it is. -/
def State.myBays (s : State) : List Nat := s.myRegion.rect.bays

/-- BAY of a control or read word is wrong (26 R400, R401). -/
def badBay (s : State) (w : W64) : Bool :=
  s.myBays.length ≤ bits w 21 16 || (bitAt w 22 && bits w 21 16 != 0)

/-- SYS.pmonctl (26 R400). -/
def execSysPmonctl (p : Pm) (s : State) : Host.Outcome State Fault Refusal :=
  issue p 1 [] s fun
    | [a] =>
      if !withinMask a.lo 0x7F07F3 || badBay s a.lo then .trap (sysTrap a.lo 0)
      else .done (s.onCur (·.act (.pmonctl a.lo))) []
    | _ => .done s []

/-- SYS.pmonrd (26 R401). -/
def execSysPmonrd (p : Pm) (t u : Tgt) (s : State) : Host.Outcome State Fault Refusal :=
  issue p 1 [t, u] s fun
    | [a] =>
      let k := bits a.lo 1 0
      if !withinMask a.lo 0x7F0003 || badBay s a.lo then .trap (sysTrap a.lo 0)
      else
        let c := if bitAt a.lo 22 then sumCounters (s.myBays.map fun b => s.counter b k)
          else s.counter (s.myBays.getD (bits a.lo 21 16) 0) k
        .done s (toEach [t, u] (.data c.word))
    | _ => .done s []

/-- What PMONCTL makes of a counter (26 R400). -/
def Pmon.program (c : Pmon) (w : W64) : Pmon :=
  let c := { c with evt := bits w 8 4, en := bitAt w 9 }
  if bitAt w 10 then { c with count := 0, sat := false } else c

/-- The bays that a control word names, among those of the region (26 R400). -/
def pmonBays (bays : List Nat) (w : W64) : List Nat := if bitAt w 22 then bays else [bays.getD (bits w 21 16) 0]

/-- PMONCTL at the commit. -/
def State.pmonctl (s : State) (bays : List Nat) (w : W64) : State :=
  (pmonBays bays w).foldl (fun s b => s.onBay b fun x => { x with pmon := Map.modify Pmon.blank x.pmon (bits w 1 0) (·.program w) }) s

/-- SYS.rrmark (26 R402). -/
def execSysRrmark (p : Pm) (s : State) : Host.Outcome State Fault Refusal :=
  issue p 1 [] s fun
    | [a] => .done (s.onCur (·.act (.rrmark a.lo))) []
    | _ => .done s []

/-- Fold a value into a digest (26 R396). -/
def foldDigest (d v : W64) : W64 := (d.rotateLeft 7 ^^^ v) * 0x9E3779B97F4A7C15#64

/-! ## TLBINV and CSLOAD (24 R376, R377) -/

/-- PRIVOP. -/
def privTrap (w : W64) : Trap := ⟨.privop, w, 0⟩

/-- SYS.tlbinv (24 R376). -/
def execSysTlbinv (p : Pm) (s : State) : Host.Outcome State Fault Refusal :=
  issue p 2 [] s fun
    | [a, b] =>
      if !s.executive then .trap (privTrap 8)
      else if !withinMask b.lo 0xFFFF0003 || bits b.lo 1 0 == 3 then .trap (sysTrap b.lo 0)
      else .done (s.onCur (·.act (.tlbinv b.lo a.lo))) []
    | _ => .done s []

/-- A kept translation matches a TLBINV. -/
def tlbMatches (word va : W64) (e : TlbEntry) : Bool :=
  match bits word 1 0 with
  | 0 => if e.big then e.vpage / 8192 == vpageOf va / 8192 else e.vpage == vpageOf va
  | 1 => e.job == bits word 31 16
  | _ => true

/-- TLBINV at the commit. -/
def State.tlbinv (s : State) (word va : W64) : State := { s with tlb := s.tlb.filter fun e => !tlbMatches word va e }

/-- A control-store image stands at an address: 128 KiB of device memory, aligned, in pages of the executive. -/
def goodImage (s : State) (a : W64) : Bool :=
  a.toNat % 131072 == 0 && inDevice a.toNat &&
  s.ownerOf a.toNat == execTag && s.ownerOf (a.toNat + 65536) == execTag

/-- SYS.csload (24 R377). -/
def execSysCsload (p : Pm) (s : State) : Host.Outcome State Fault Refusal :=
  issue p 2 [] s fun
    | [a, b] =>
      if !s.executive then .trap (privTrap 9)
      else if !withinMask b.lo 0x1FFFF0007 || (queueOf (bits b.lo 2 0)).isNone then .trap (sysTrap b.lo 0)
      else if !bitAt b.lo 32 && !goodImage s a.lo then .trap ⟨.csbad, a.lo, b.lo⟩
      else .done (s.onCur (·.act (.csload b.lo a.lo))) []
    | _ => .done s []

/-- CSLOAD at the commit. -/
def State.csload (s : State) (word base : W64) : State :=
  match queueOf (bits word 2 0) with
  | none => s
  | some q =>
    let j := bits word 31 16
    let rest := s.bindings.filter fun b => !(b.1 == j && b.2.1 == q)
    { s with bindings := if bitAt word 32 then rest else (j, q, base) :: rest }

/-! ## System registers (24 Table 24-12) -/

/-- Who may use a register. -/
inductive Role where
  | any
  | thread
  | exec
  | nodeExec
  deriving DecidableEq, Repr

/-- A register's readers, and its writers with the mask of its writable fields. -/
structure SregInfo where
  rd : Role
  wr : Option (Role × W64)

/-- The rows of Table 24-12. -/
def sregInfo (num : Nat) : Option SregInfo :=
  match num with
  | 0x000 => some ⟨.any, some (.any, 0x1F)⟩
  | 0x001 => some ⟨.thread, some (.thread, 0x807FFFFFFFFFFFFC)⟩
  | 0x002 => some ⟨.thread, none⟩
  | 0x010 => some ⟨.thread, none⟩
  | 0x011 => some ⟨.any, none⟩
  | 0x012 => some ⟨.nodeExec, none⟩
  | 0x013 => some ⟨.any, some (.any, 0x1F00000000000000)⟩
  | 0x014 => some ⟨.any, none⟩
  | 0x020 => some ⟨.any, some (.exec, 0x80003FFFFFFF0000)⟩
  | 0x021 => some ⟨.exec, some (.exec, 0x3FFFFFFFFF00)⟩
  | 0x022 => some ⟨.exec, some (.exec, 0x3FFFFFFF0000)⟩
  | 0x023 => some ⟨.exec, some (.exec, 0xFFFFFFFFFFFFFFFF)⟩
  | 0x024 => some ⟨.exec, some (.exec, 0xFFFFFFFFFFFFFFFF)⟩
  | 0x02F => some ⟨.exec, some (.exec, 0xFFFF)⟩
  | 0x030 => some ⟨.exec, some (.exec, 0x7F)⟩
  | 0x031 => some ⟨.exec, none⟩
  | 0x032 => some ⟨.exec, some (.exec, 0xFF)⟩
  | 0x033 => some ⟨.exec, none⟩
  | 0x034 => some ⟨.thread, some (.thread, 0x3F)⟩
  | 0x035 => some ⟨.thread, none⟩
  | 0x036 => some ⟨.exec, some (.exec, 0xF)⟩
  | 0x037 => some ⟨.exec, none⟩
  | 0x038 => some ⟨.exec, none⟩
  | 0x03D => some ⟨.exec, some (.exec, 0x7F)⟩
  | 0x03E => some ⟨.exec, none⟩
  | 0x040 => some ⟨.exec, some (.exec, 0x3F)⟩
  | 0x041 => some ⟨.exec, none⟩
  | 0x042 => some ⟨.exec, none⟩
  | 0x04B => some ⟨.exec, some (.exec, 0x3F)⟩
  | 0x04C => some ⟨.exec, none⟩
  | 0x04D => some ⟨.exec, some (.exec, 0xFFF)⟩
  | 0x04E => some ⟨.exec, none⟩
  | 0x0E0 => some ⟨.any, none⟩
  | 0x0E1 => some ⟨.thread, none⟩
  | n =>
    if inRange n 0x008 8 then some ⟨.thread, none⟩
    else if inRange n 0x039 4 then some ⟨.exec, none⟩
    else if inRange n 0x043 8 then some ⟨.exec, none⟩
    else none

/-- An agent is a control thread. -/
def isThread : Agent → Bool
  | .ctl _ => true
  | _ => false

/-- The fault of an agent that may not use a register (24 R378). Log entry 88 (DEDUCED). -/
def roleFault (s : State) (r : Role) (w : W64) (num : Nat) : Option Trap :=
  match r with
  | .any => none
  | .thread => if isThread s.cur.agent then none else some (sysTrap w num)
  | .exec => if s.executive then none else some ⟨.privop, w, BitVec.ofNat 64 num⟩
  | .nodeExec => if !isThread s.cur.agent || s.executive then none else some ⟨.privop, w, BitVec.ofNat 64 num⟩

/-- SYS_PESEL of the agent whose block has its turn. -/
def State.pesel (s : State) : W64 :=
  match agentKey s.cur.agent with
  | none => s.myRegion.pesel
  | some k => (s.pe k).sel.pe

/-- The PE whose registers of PE scope an agent names (24 R378). -/
def State.sregPe (s : State) : Nat :=
  let own := (agentKey s.cur.agent).getD s.cur.pe
  if s.executive && bitAt s.pesel 15 then bits s.pesel 14 0 else own

/-- The entry of the local page table as a word (07 Table 7-2). -/
def LptEntry.word (e : LptEntry) : W64 :=
  packFields 64 [(32, 30, e.bppn.toNat), (16, 16, e.job.toNat), (8, 8, e.gen.toNat), (7, 1, b2n e.p), (6, 1, b2n e.d),
    (5, 1, b2n e.pin), (4, 1, b2n e.wb)]

/-- The state of a physical tile as two bits. -/
def PhysState.code : PhysState → Nat
  | .free => 0
  | .mapped => 1
  | .draining => 2

/-- SYS_MSTAT (14 Table 14-2). -/
def Matrix.mstat (m : Matrix) : W64 :=
  packFields 64
    ((56, 5, m.mflags.toNat) ::
      ((List.range 4).map fun n => (32 + 4 * n, 4, match m.map.getD n none with
        | some t => 8 + t
        | none => 0)) ++
      ((List.range 8).map fun t => (16 + 2 * t, 2, (m.phys.getD t .free).code)) ++
      (List.range 4).map fun b => (4 * b, 4, m.rows.getD b 0))

/-- SYS_SBBST of a block (17 Table 17-6). -/
def Streamer.word (x : Streamer) (b : Nat) : W64 :=
  match x.blocks.find b with
  | some e => packFields 64 [(63, 1, 1), (16, 5, e.pass), (0, 13, e.wait.length)]
  | none => 0

/-- The head token of the selected input port. -/
def Pe.selHead (p : Pe) : Option Token := (Map.get InPort.blank p.inports p.sel.port).q.head?

/-- SYS_PORTHEAD (24 Table 24-12). -/
def headWord (t : Option Token) : W64 :=
  match t with
  | none => 0
  | some t => packFields 64 [(63, 1, 1), (4, 1, b2n t.val.wide), (1, 3, kindCode t.val.kind), (0, 1, b2n t.val.cap)]

/-- A register of region scope. -/
def State.regionReg (s : State) (rid num : Nat) : Option W64 :=
  let r := s.region rid
  match num with
  | 0x001 => some r.tvec
  | 0x002 => some r.epc
  | 0x010 => some r.wdog
  | 0x011 => some r.sysreg
  | 0x014 => some r.stitch
  | 0x020 => some r.xroot
  | 0x022 => some (Map.get 0 s.saveAddr rid)
  | 0x032 => some (BitVec.ofNat 64 (s.job r.job).grpsel)
  | 0x033 => some (s.groupEntry r.job (s.job r.job).grpsel)
  | 0x034 => some r.sbbsel
  | 0x035 => some (r.streamer.word r.sbbsel.toNat)
  | 0x0E0 => some ((s.job r.job).rrstat r.entry)
  | 0x0E1 => some r.digest
  | n => if inRange n 0x008 8 then some (recWord r.trec (n - 8)) else none

/-- A register of PE scope. -/
def State.peReg (s : State) (key num : Nat) : Option W64 :=
  let p := s.pe key
  match num with
  | 0x012 => some (p.active.groups.setWidth 64)
  | 0x013 => some p.matrix.mstat
  | 0x021 => some p.lback
  | 0x030 => some (BitVec.ofNat 64 p.sel.lpt)
  | 0x031 => some (p.lptAt p.sel.lpt).word
  | 0x036 => some (BitVec.ofNat 64 p.sel.pl)
  | 0x037 => some (p.plane p.sel.pl).desc
  | 0x038 => some (p.plane p.sel.pl).q
  | 0x03D => some (BitVec.ofNat 64 p.sel.loc)
  | 0x03E => some ((Map.get 0 p.active.locs p.sel.loc).setWidth 64)
  | 0x040 => some (BitVec.ofNat 64 p.sel.port)
  | 0x041 => some (headWord p.selHead)
  | 0x042 => some (match p.selHead with
      | some t => t.time
      | none => 0)
  | 0x04B => some (BitVec.ofNat 64 p.sel.opt)
  | 0x04C => some ((Map.get 0 p.active.outp p.sel.opt).setWidth 64)
  | 0x04D => some (BitVec.ofNat 64 p.sel.sw)
  | 0x04E => some ((p.entry p.sel.sw).setWidth 64)
  | n =>
    if inRange n 0x039 4 then some (mapWord (p.plane p.sel.pl).act (n - 0x039))
    else if inRange n 0x043 8 then some (match p.selHead with
      | some t => if t.val.wide || n == 0x043 then recWord t.val.bits (n - 0x043) else 0
      | none => 0)
    else none

/-- A register as the agent whose block has its turn reads it; the save key reads as zero (24 R378, R379). -/
def State.sregRead (s : State) (num : Nat) : W64 :=
  match num with
  | 0x000 => s.statusOf s.cur.agent
  | 0x02F => s.pesel
  | n =>
    match s.regionReg s.cur.region n with
    | some v => v
    | none => (s.peReg s.sregPe n).getD 0

/-- SREG.rd (24 R378). Log entry 88 (DEDUCED). -/
def execSregRd (p : Pm) (t : Tgt) (num : BitVec 13) (s : State) : Host.Outcome State Fault Refusal :=
  issue p 0 [t] s fun _ =>
    match sregInfo num.toNat with
    | none => .trap (sysTrap 0 num.toNat)
    | some i =>
      match roleFault s i.rd 0 num.toNat with
      | some e => .trap e
      | none => .done s [(t, .data (s.sregRead num.toNat))]

/-- A selector value out of its range (24 R378, Table 24-12). -/
def badSelector (s : State) (num : Nat) (v : W64) : Bool :=
  (num == 0x03D && 64 < v.toNat) ||
  (num == 0x02F && bitAt v 15 && !(bits v 14 0 < agBase && s.myRegion.rect.has (bits v 14 0)))

/-- SREG.wr (24 R378): the write takes place at the commit. Log entry 88 (DEDUCED). -/
def execSregWr (p : Pm) (num : BitVec 13) (s : State) : Host.Outcome State Fault Refusal :=
  issue p 1 [] s fun
    | [a] =>
      match sregInfo num.toNat with
      | none => .trap (sysTrap a.lo num.toNat)
      | some i =>
        match roleFault s i.rd a.lo num.toNat, i.wr with
        | some e, _ => .trap e
        | none, none => .trap (sysTrap a.lo num.toNat)
        | none, some (role, mask) =>
          match roleFault s role a.lo num.toNat with
          | some e => .trap e
          | none =>
            if !withinMask a.lo mask || badSelector s num.toNat a.lo then .trap (sysTrap a.lo num.toNat)
            else .done (s.onCur (·.act (.sregWr num.toNat a.lo))) []
    | _ => .done s []

/-- The writable fields of a register replaced. -/
def maskedWrite (old v mask : W64) : W64 := (old &&& ~~~mask) ||| (v &&& mask)

/-- The bits of SYS_XROOT (05 Table 5-1). -/
def xrootMask : W64 := 0x80003FFFFFFF0000

/-- The executive changes the root of translation of a job: every region of the job, saved ones too, holds the new value (17 R259). -/
def State.setXroot (s : State) (job : Nat) (v : W64) : State :=
  let root := v &&& xrootMask
  let put := fun (r : Region) => if r.job == job then { r with xroot := root } else r
  { s with jobs := s.jobs.mapVals fun k j => if k == job then { j with xroot := root } else j,
           regions := s.regions.mapVals fun _ r => put r,
           saves := s.saves.mapVals fun _ c => { c with region := put c.region } }

/-- Write a register of region scope, the save registers among them. -/
def State.setRegionReg (s : State) (rid num : Nat) (v : W64) : State :=
  match num with
  | 0x001 => s.onRegion rid fun r => { r with tvec := maskedWrite r.tvec v 0x807FFFFFFFFFFFFC }
  | 0x020 => s.setXroot (s.region rid).job v
  | 0x022 => { s with saveAddr := s.saveAddr.set rid (v &&& 0x3FFFFFFF0000) }
  | 0x023 => { s with saveKey := insertBits s.saveKey 0 64 v.toNat }
  | 0x024 => { s with saveKey := insertBits s.saveKey 64 64 v.toNat }
  | 0x032 => s.onJob (s.region rid).job fun j => { j with grpsel := bits v 7 0 }
  | 0x034 => s.onRegion rid fun r => { r with sbbsel := v &&& 0x3F }
  | _ => s

/-- Write a register of PE scope. -/
def State.setPeReg (s : State) (key num : Nat) (v : W64) : State :=
  match num with
  | 0x013 => s.onPe key fun p => { p with matrix := { p.matrix with mflags := Flags.ofNat (bits v 60 56) } }
  | 0x021 => s.onPe key fun p => { p with lback := v &&& 0x3FFFFFFFFF00 }
  | 0x030 => s.onPe key fun p => { p with sel := { p.sel with lpt := bits v 6 0 } }
  | 0x036 => s.onPe key fun p => { p with sel := { p.sel with pl := bits v 3 0 } }
  | 0x03D => s.onPe key fun p => { p with sel := { p.sel with loc := bits v 6 0 } }
  | 0x040 => s.onPe key fun p => { p with sel := { p.sel with port := bits v 5 0 } }
  | 0x04B => s.onPe key fun p => { p with sel := { p.sel with opt := bits v 5 0 } }
  | 0x04D => s.onPe key fun p => { p with sel := { p.sel with sw := bits v 11 0 } }
  | _ => s

/-- SREG.wr at the commit of the block whose turn it is. -/
def State.sregWrite (s : State) (num : Nat) (v : W64) : State :=
  match num with
  | 0x000 => s.onStatus s.cur.agent fun w => insertBits w 0 5 (bits v 4 0)
  | 0x02F =>
    match agentKey s.cur.agent with
    | none => s.onRegion s.cur.region fun r => { r with pesel := v &&& 0xFFFF }
    | some k => s.onPe k fun p => { p with sel := { p.sel with pe := v &&& 0xFFFF } }
  | n => (s.setRegionReg s.cur.region n v).setPeReg s.sregPe n v

end Sys2Proof.Machine
end

