-- ==== Sys2Proof/Machine/SectCommit.lean ====
section
/-! DEFINITION. SectCommit: what the SECT commands do at the commit (18 R281 to R287, R423; 22 R332). -/

namespace Sys2Proof.Machine

/-- The changes that a commit gathers for its batch: counts and opened epochs (20 R297, R298). -/
structure Gather where
  cs    : List CountChange
  opens : List (Nat × Nat × Nat)
  deriving DecidableEq, Repr

/-- Add changes. -/
def Gather.add (g : Gather) (cs : List CountChange) : Gather := { g with cs := g.cs ++ cs }
/-- Add an opened epoch. -/
def Gather.opening (g : Gather) (o : Nat × Nat × Nat) : Gather := { g with opens := g.opens ++ [o] }

/-- The section state of a region replaced. -/
def Region.withView (r : Region) (v : SectView) : Region :=
  { r with sect := v.st, next := v.next, info := v.info, nextInfo := v.nextInfo, epoch := v.epoch, boundTimes := v.times,
           released := v.gone }

/-- The tag under which the tokens of the control circuit to port 63 of a PE travel (18 R282). -/
def controlTag : Nat := 4097

/-- A token on the control circuit to port 63 of a node, with its count (18 R282, R283). -/
def State.sendBound (s : State) (key : Nat) (portLoc : Option Nat) (payload : W64) (t : LTime) (stamp : Nat) :
    State × List CountChange :=
  (s.onPe key fun p =>
      { p with outq := Map.modify [] p.outq controlTag (· ++ [⟨⟨.bound, false, false, payload.setWidth 512⟩, t, stamp⟩]) },
   match portLoc with
    | some l => [⟨l, t, 1⟩]
    | none => [])

/-! ## CFGLOAD -/

/-- The image of a place. -/
def SectImage.at (img : SectImage) (place : Nat) : Option PeImage := img.pes.find? fun p => p.place == place

/-- Entries of a return-circuit table: a queue and how many section images list it beside the current one. -/
def retMap (rets : List (Nat × Queue)) (gen : Nat) : Map (Queue × Nat) :=
  rets.foldl (fun m e => Map.set m (retKey e.1 e.2) (e.2, gen)) []

/-- A node's switch table as a CFGLOAD leaves it (18 R423). -/
def Pe.loadSwitch (p : Pe) (img : Option PeImage) (draining : Bool) : Pe :=
  let sw := match img with
    | some i => i.sw
    | none => []
  if draining then { p with switchNext := sw } else { p with switch := sw, switchNext := [] }

/-- The byte offset in the image of the first record of a PE that satisfies a test: its payload's first word is the header
(24 Table 24-2). -/
def PeImage.offset (img : PeImage) (q : W512 → Bool) : Nat :=
  match findIdx q img.confs 0 with
  | some (k, _) => img.base + 16 + 64 * k
  | none => 0

/-- The CONF tokens of one node on their way (18 R281). -/
def Pe.sendConf (p : Pe) (img : PeImage) : Pe :=
  { p with confq := p.confq ++
      (.tables img.outp img.locs (img.offset fun w => confType w == 1)
        ((List.range 8).map fun r => (r, img.offset fun w => confType w == 2 && confIndex w / 32 == r)) ::
       img.confs.map .record) }

/-- CFGLOAD at the commit (18 R281, R423). -/
def State.cfgload (s : State) (rid : Nat) (img : SectImage) : State :=
  let r := s.region rid
  let draining := r.sect == .draining
  let s := r.nodes.foldl (fun s k => s.onPe k fun p => p.loadSwitch (img.at (r.placeOf k)) draining) s
  let s := r.nodes.foldl (fun s k => match img.at (r.placeOf k) with
    | some i => s.onPe k (·.sendConf i)
    | none => s) s
  s.onRegion rid fun r =>
    { r with retTable :=
        if draining then (retMap img.rets 1).foldl (fun m e =>
            Map.set m e.1 (e.2.1, if (r.retTable.find e.1).isSome then 2 else 1)) r.retTable else retMap img.rets 0 }

/-! ## ARM -/

/-- The entries of the draining section that the new one does not share leave; a box whose END has still to arrive adds the new one's
then (18 R423). -/
def Pe.dropOld (p : Pe) : Pe := { p with switch := p.switch.filter fun e => (p.switchNext.find e.1).isSome }

/-- The streaming dispatcher as ARM starts it (17 R267). Log entry 20 (DEDUCED). -/
def streamerOf (i : SectInfo) : Streamer :=
  if i.sbb.isEmpty then Streamer.blank
  else
    { Streamer.blank with
      on := true,
      blocks := i.sbb.map fun e => (e.1, ⟨e.2, if e.1 = i.entry then List.range i.nthr else [], 0⟩) }

/-- ARM opens the capability of one source (18 R282; 20 R298). -/
def State.armSource (rid e : Nat) (sg : State × Gather) (n : NodeInfo) : State × Gather :=
  match n.source, (sg.1.region rid).keyAt n.place with
  | some l, some k =>
    (sg.1.onPe k fun p => { p with caps := [(0, epochTime e)], capHi := some e, drained := false },
     (sg.2.add [⟨l, epochTime e, 1⟩]).opening (l, n.place, e))
  | _, _ => sg

/-- ARM sends BOUND to one source. -/
def State.armBound (rid : Nat) (payload : W64) (e stamp : Nat) (sg : State × Gather) (n : NodeInfo) : State × Gather :=
  match (sg.1.region rid).keyAt n.place with
  | some k => let x := sg.1.sendBound k n.portLoc payload (epochTime e) stamp; (x.1, sg.2.add x.2)
  | none => sg

/-- ARM at the commit. -/
def State.arm (s : State) (g : Gather) (rid : Nat) (payload : W64) (e stamp : Nat) : State × Gather :=
  let r := s.region rid
  let leaving := r.sect == .done
  let i := if leaving then r.nextInfo else r.info
  let s := if leaving then
      (r.nodes.foldl (fun s k => s.onPe k Pe.dropOld) s).onRegion rid fun r =>
        { r with retTable := (r.retTable.filter fun x => x.2.2 != 0).map fun x => (x.1, (x.2.1, 0)) }
    else s
  let s := s.onRegion rid fun r => { r with sinkErr := none, closed := [], streamer := streamerOf i }
  i.boundSources.foldl (State.armBound rid payload e stamp) ((i.nodes.foldl (State.armSource rid e)) (s, g))

/-! ## DRAIN -/

/-- EOS on each output port of a configuration that begins a circuit (20 R299). Log entry 46 (DEDUCED). -/
def State.sendEos (s : State) (c : PeConfig) (key : Nat) (t : LTime) (stamp : Nat) : State × List CountChange :=
  State.sendLasts c key t stamp s c.outPorts

/-- The least time among held capabilities. -/
def leastCap (caps : Map LTime) : Option LTime :=
  caps.foldl (fun b e => match b with
    | none => some e.2
    | some x => some (minTime x e.2)) none

/-- A source's capabilities are dropped and its output closes, by the tables of its section, whether or not its PE has switched to them
(18 R284). Log entry 46 (DEDUCED). -/
def State.closeSource (s : State) (key stamp : Nat) : State × List CountChange :=
  let p := s.pe key
  let c := s.configOf key
  let ended := fun (p : Pe) => { p with caps := [], finished := p.finished || p.active.sloc.isSome }
  match leastCap p.caps, c.sloc with
  | some t, some l =>
    let x := (s.onPe key ended).sendEos c key t stamp
    (x.1, x.2 ++ p.caps.map fun e => ⟨l, e.2, -1⟩)
  | _, _ => (s.onPe key ended, [])

/-- DRAIN of one source: at once, or with the commit of the firing that is in progress (18 R284). -/
def State.drainSource (rid stamp : Nat) (sg : State × Gather) (n : NodeInfo) : State × Gather :=
  match n.source, (sg.1.region rid).keyAt n.place with
  | some _, some k =>
    let s := sg.1.onPe k fun p => { p with drained := true }
    if s.firingNow k then (s, sg.2) else let x := s.closeSource k stamp; (x.1, sg.2.add x.2)
  | _, _ => sg

/-! ## RELEASE (18 R286) -/

/-- Unpin the frames of a context; a dirty one starts its write-back (07 R106). -/
def Pe.unpin (p : Pe) (job : Nat) : Pe :=
  { p with lpt := p.lpt.mapVals fun n e =>
      if p.present job n then { e with pin := false, wb := e.wb || e.d } else e }

/-- A PE or AG node as RELEASE leaves it. -/
def Pe.release (p : Pe) (job : Nat) : Pe :=
  let p := p.unpin job
  { p with region := none, active := PeConfig.blank, pending := PeConfig.blank, nregs := [], vregs := [], inports := [],
           switch := [], switchNext := [], boxes := [], outq := [], confq := [], handles := [], planes := [], raceN := 0,
           raceOpen := false, race := [], caps := [],
           capHi := none, stopped := false, sealed := false, marks := false,
           matrix := { p.matrix with stopped := false, cut := false, map := List.replicate 4 none, phys := List.replicate 8 .free },
           finished := false, drained := false, lastSent := [] }

/-- The counts of the holds of a PE's frontier ports, which its switch or its release removes (20 R311). -/
def Root.holdCounts (r : Root) (pe : Nat) : List CountChange :=
  r.holds.filterMap fun (_, own, _, k, _, h) => if k == pe then some ⟨own, h, -1⟩ else none

/-- The root forgets what a PE's ports have subscribed to and its frontier ports (20 R301, R311). -/
def Root.forget (r : Root) (pe : Nat) : Root :=
  let mine := fun (w : Subscriber) => match w with
    | .port k _ => k == pe
    | .bay _ => false
  { r with subs := r.subs.filter (fun x => !mine x.2), holds := r.holds.filter (fun (_, _, _, k, _, _) => k != pe),
           out := r.out.filter fun a => !mine a.to_ }

/-- RELEASE at the commit, and the counts of the holds that it removes. -/
def State.release (s : State) (rid : Nat) : State × List CountChange :=
  let r := s.region rid
  let ds := s.nodeDigests rid
  let drops := r.nodes.flatMap (s.root r.job).holdCounts
  let s := s.onJob r.job fun j => { j.keepDigests ds with root := r.nodes.foldl Root.forget j.root }
  let s := r.nodes.foldl (fun s k => s.onPe k (·.release r.job)) s
  let s := r.rect.bays.foldl (fun s b => s.onBay b fun x => { x with pmon := [], idleFor := s.cycle }) s
  (s.onRegion rid fun r => { r with stitch := 0, retTable := [], streamer := Streamer.blank, released := true }, drops)

/-! ## Collectives (18 R287) -/

/-- Write register n of a member: it becomes full. -/
def State.groupWrite (reg : Nat) (v : W64) (s : State) (key : Nat) : State :=
  s.onPe key fun p => { p with nregs := p.nregs.set reg (Reg.ofValue (.data v) 0) }

/-- The nodes whose registers a command writes: it waits for a firing of one of them to end. -/
def State.collectiveNodes (s : State) (rid : Nat) : SectOp → List Nat
  | .gred (some k) _ _ => [k]
  | .gbcast grp _ _ => s.groupMembers (s.region rid) grp
  | _ => []

/-- A section command at the commit. -/
def State.applySect (rid stamp : Nat) (sg : State × Gather) (op : SectOp) : State × Gather :=
  let s := sg.1
  let r := s.region rid
  let v := (r.view.after op).getD r.view
  let sg := match op with
    | .cfgload img => (s.cfgload rid img, sg.2)
    | .arm payload e => s.arm sg.2 rid payload e stamp
    | .bound place payload t =>
      (match r.keyAt place with
        | some k =>
          let x := s.sendBound k ((r.info.nodes.find? fun (n : NodeInfo) => n.place == place).bind (·.portLoc)) payload t stamp
          (x.1, sg.2.add x.2)
        | none => sg)
    | .drain => r.info.nodes.foldl (State.drainSource rid stamp) (s.onRegion rid fun r => { r with sect := .draining }, sg.2)
    | .sinkw => sg
    | .release => let x := s.release rid; (x.1, sg.2.add x.2)
    | .gred dst reg val => (match dst with
        | some k => State.groupWrite reg val s k
        | none => s, sg.2)
    | .gbcast grp reg val => ((s.groupMembers r grp).foldl (State.groupWrite reg val) s, sg.2)
  (sg.1.onRegion rid (·.withView v), sg.2)

end Sys2Proof.Machine
end

