-- ==== Sys2Proof/Machine/Commit.lean ====
section
/-! DEFINITION. Commit: BLOCK_COMMIT, the commit of a firing or control block (09 R148, R150; 11 R189; 16 R250 to R254;
20 R297 to R299; 26 R396). -/

namespace Sys2Proof.Machine

/-! ## Local memory (07 R110, R111; 11 R185 to R187) -/

/-- A store-class local access with its LSID and slot. -/
structure LocalOp where
  lsid : Nat
  slot : Nat
  act  : Act

/-- Insert by LSID. -/
def insertLocal (x : LocalOp) : List LocalOp → List LocalOp
  | [] => [x]
  | y :: ys => if x.lsid < y.lsid then x :: y :: ys else y :: insertLocal x ys

/-- The local accesses of a block in LSID order. -/
def Frame.localOps (f : Frame) : List LocalOp :=
  (f.acts.filterMap fun a => match a.2 with
    | .lstore l _ _ _ _ => some ⟨l, a.1, a.2⟩
    | .latom l _ _ _ _ _ _ => some ⟨l, a.1, a.2⟩
    | _ => none).foldr insertLocal []

/-- One local access applied: the PE, and the register that takes an old value. -/
def Pe.applyLocal (job : Nat) (p : Pe) : Act → Pe × Option (Nat × Value)
  | .lstore _ a n d fe =>
    let bs := leBytes n (lowBytes d n)
    if p.present job (pageOf a) then
      let q := p.lwrite a bs
      (if fe == .keep then q else q.setFull (granOf a) true, none)
    else ((p.claim [] (pageOf a)).defer 5 a bs (fe != .keep), none)
  | .latom _ a n op d sz reg =>
    let old := p.lmem.readNat a n
    (p.lwrite a (leBytes n (atomNew op n old (lowBytes d n))),
     reg.map fun i => (i, szExtend sz (BitVec.ofNat 512 old)))
  | _ => (p, none)

/-- The bytes of a granule that a local access reads: all of an atomic's, and those that a partial store merges into (11 R186). -/
def Act.merged : Act → Option (Nat × Nat)
  | .latom _ a n _ _ _ _ => some (a, n)
  | .lstore _ a n _ _ => if n < 16 then some (a, n) else none
  | _ => none

/-- The errors that can be corrected and that the local accesses of a commit find (07 R112). -/
def State.correctLocals (s : State) (f : Frame) : State :=
  (f.acts.filterMap fun a => a.2.merged).foldl (fun s x =>
    if (s.pe f.pe).present f.job (pageOf x.1) then s.correct f.pe x.1 x.2 else s) s

/-- The local accesses of one commit, as one step in LSID order. -/
def Pe.applyLocals (job : Nat) : Pe → List LocalOp → Pe × List (Nat × Value)
  | p, [] => (p, [])
  | p, o :: os =>
    let x := p.applyLocal job o.act
    let y := Pe.applyLocals job x.1 os
    (y.1, x.2.toList ++ y.2)

/-! ## Registers (09 R141) -/

/-- A register effect at the commit. -/
def State.commitReg (a : Agent) (s : State) : Act → State
  | .reg i (some v) => s.putReg a i (Reg.ofValue v 0)
  | .ctr i w => s.putReg a i (Reg.ofValue (.data w) 0)
  | .defer i => s.putReg a i ⟨.empty, 0, false, 0, true⟩
  | .landed i v ts => s.putReg a i (Reg.ofValue v ts)
  | .lost i t => s.putReg a i ⟨.failed t, 0, false, 0, false⟩
  | _ => s

/-- The old values of ATOML go to registers, which are full at once. -/
def State.commitOld (f : Frame) (s : State) (x : Nat × Value) : State :=
  s.putReg f.agent x.1 (Reg.ofValue (x.2.forReg f.kind x.1) 0)

/-! ## Device memory -/

/-- A device store with its LSID. -/
def insertReq (x : Nat × Req) : List (Nat × Req) → List (Nat × Req)
  | [] => [x]
  | y :: ys => if x.1 < y.1 then x :: y :: ys else y :: insertReq x ys

/-- The device requests of a commit: those of format M in LSID order, then SCATTER in slot order. -/
def Frame.requests (f : Frame) : List Req :=
  ((f.acts.filterMap fun a => match a.2 with
    | .store l r => some (l, r)
    | _ => none).foldr insertReq []).map Prod.snd ++
  f.inSlots.filterMap fun a => match a.2 with
    | .scatter r => some r
    | _ => none

/-- A deferred load of a block that has committed goes to registers alone. -/
def Req.committed (r : Req) : Req :=
  match r.origin with
  | .load k z => { r with origin := .store k z }
  | _ => r

/-- The block's requests enter its port, each with its number. -/
def State.enterRequests : State → List Req → State
  | s, [] => s
  | s, r :: rs =>
    State.enterRequests { s with nextId := s.nextId + 1,
                                 cur := { s.cur with port := s.cur.port.push { r with rid := s.nextId } } } rs

/-! ## What the commit starts -/

/-- A matrix command enters the queue (14 R220). -/
def State.enterMatrix (f : Frame) (s : State) (a : Nat × Act) : State :=
  match a.2 with
  | .matrix op =>
    let c : MatCmd := ⟨op, f.agent, f.addr, a.1, f.time, f.job, f.exec, f.port.pid, s.nextId, f.port.pts, 0, 0, [], 0, []⟩
    ({ s with nextId := s.nextId + 1 }).onPe f.pe fun p =>
      { p with matrix := { p.matrix with queue := p.matrix.queue ++ [c] } }
  | .lattice op => s.onPe f.pe fun p => { p with lops := p.lops ++ [⟨op, f.time, a.1⟩] }
  | _ => s

/-- The counters that the PMONCTLs of a commit enable keep the counts that they had before it, 0 where one clears them: they do
not count the commit itself (27 R407). `clr`: the PMONCTLs have taken effect. Log entry 60 (DEDUCED). -/
def State.keepCounts (old s : State) (f : Frame) (clr : Bool) : State :=
  let bays := (old.region f.region).rect.bays
  let ws := f.acts.filterMap fun a => match a.2 with
    | .pmonctl w => some w
    | _ => none
  (ws.filter fun w => bitAt w 9).foldl (fun s w => (pmonBays bays w).foldl (fun s b => s.onBay b fun x =>
    let k := bits w 1 0
    match x.pmon.find k with
    | none => x
    | some c =>
      let was := if clr && ws.any fun v => bitAt v 10 && bits v 1 0 == k && (pmonBays bays v).contains b then Pmon.blank else old.counter b k
      { x with pmon := x.pmon.set k { c with count := was.count, sat := was.sat } }) s) s

/-- The events that a commit counts when it is applied (26 R399, Table 26-7). Log entry 60 (DEDUCED). -/
def State.tallyCommit (s : State) (f : Frame) : State :=
  let n := fun (q : Act → Bool) => (f.acts.filter fun a => q a.2).length
  let b := agentBay f.agent
  let st := n fun a => match a with
    | .store _ r => r.op == .store || r.op == .storeV
    | .scatter _ => true
    | _ => false
  let at_ := n fun a => match a with
    | .store _ r => !(r.op == .store || r.op == .storeV)
    | _ => false
  let lo := n fun a => match a with
    | .lstore _ _ _ _ _ => true
    | .latom _ _ _ _ _ _ _ => true
    | _ => false
  let ca := n fun a => match a with
    | .callq _ _ _ => true
    | _ => false
  s.keepCounts ((((((s.tally b (if f.kind == .control then 0x02 else 0x01) 1).tally b 0x06 lo).tally b 0x08 st).tally b 0x09 at_).tally
    b 0x14 ca).tally b 0x11 (f.takes.foldl (fun n t => n + t.count) 0)) f false

/-- The first part of a commit: its memory effects, its registers and the commands that it starts. -/
def State.commitStart (s : State) : State :=
  let f := s.cur
  let s := s.correctLocals f
  let p := (s.pe f.pe).applyLocals f.job f.localOps
  let s := s.onPe f.pe fun _ => f.servedAll p.1
  let s := f.acts.foldl (fun s a => s.commitReg f.agent a.2) s
  let s := p.2.foldl (State.commitOld f) s
  let port := { f.port with outbox := f.port.outbox.map Req.committed, flight := f.port.flight.map Req.committed }
  let s := s.onCur fun f => { f with port := port }
  let s := (s.enterRequests f.requests).pumpCur
  let s := f.inSlots.foldl (fun s a => s.applyBuffer f a.2) s
  let s := f.inSlots.foldl (State.enterMatrix f) s
  let s := s.tallyCommit f
  s.onCur fun g =>
    { g with phase := .fencing s.nextId, fenceW := f.fences.foldl (fun m x => max m (s.fenceSoFar f x)) 0, epUpto := s.epStreams f }

/-! ## What the last part waits for (11 R188, R189; 12 R200; 16 R250, R252) -/

/-- The stamps of a commit wait for its loads, and for every access of the agent's earlier commits (16 R250, Table 16-1). -/
def Frame.owed (f : Frame) : Bool := (f.port.outbox ++ f.port.flight).any fun r => r.rid < f.since || !r.op.writes

/-- The bay's count unit has no room for the block's batch, and for the one that follows it (20 R304). -/
def State.countFull_ (s : State) (f : Frame) : Bool := countRoom < (s.bay (agentBay f.agent)).batches.length + 2

/-- A collective of the block waits for a firing of a member (18 R287). -/
def State.memberBusy (s : State) (f : Frame) : Bool :=
  f.acts.any fun a => match a.2 with
    | .sect op => (s.collectiveNodes f.region op).any s.firingNow
    | _ => false

/-- The last part of a commit has to wait. -/
def State.finishWaits (s : State) (f : Frame) (upto : Nat) : Bool :=
  f.fences.any (fun x => s.fenceWaits f upto x.1 x.2) || s.loadWaits f || s.epWaits f upto || f.epUpto.any s.tilesOwed || f.owed ||
  s.memberBusy f || s.countFull_ f

/-! ## Tokens consumed (09 R150; 12 R192) -/

/-- Consume heads of an input port, with their times: one for each record of a coalesced head (17 R272). -/
def InPort.consume (p : InPort) (n : Nat) : InPort × List LTime :=
  let ts := if p.counts.isEmpty then (p.q.take n).map (·.time) else (p.counts.take n).flatten
  ({ p with q := p.q.drop n, counts := p.counts.drop n, key := keyAfter p.key (p.q.take n) }, ts)

/-- The thread slot that the heads of port 0 name in streaming mode (17 R269). -/
def threadOf (old port : Nat) (ts : List Token) : Nat :=
  match port, ts with
  | 0, t :: _ => if t.val.isData then bits t.val.bits 11 0 else old
  | _, _ => old

/-- Consume heads of an input port of a node. -/
def State.consume (key : Nat) (sg : State × Gather) (t : Take) : State × Gather :=
  let ip := Map.get InPort.blank (sg.1.pe key).inports t.port
  let x := ip.consume t.count
  (sg.1.onPe key fun p =>
      { p with inports := p.inports.set t.port x.1, thread := threadOf p.thread t.port (ip.q.take t.count) },
   sg.2.add (x.2.flatMap fun u => match (sg.1.pe key).active.iloc t.port with
     | some l => [⟨l, u, -1⟩]
     | none => []))

/-- Every mandatory port of the firing delivers EOS: it is the node's last (09 R154). Log entry 21 (DEDUCED). -/
def State.lastFiring (s : State) (f : Frame) : Bool :=
  let ms := mandatoryPorts (instrsOf f.words)
  !ms.isEmpty && ms.all fun p =>
    f.takes.any (fun t => t.port == p && t.count != 0) &&
    match (s.heads f p).head? with
    | some t => t.val.kind == .eos
    | none => false

/-- How many heads of a port a firing has taken. -/
def Frame.taken (f : Frame) (port : Nat) : Nat := f.takes.foldl (fun n t => if t.port == port then n + t.count else n) 0

/-- At a node's last firing the heads that its RECVK ports keep, beside those that RECVK has discarded, are consumed (09 R150, R152).
Log entry 21 (DEDUCED). -/
def keptTakes (s : State) (f : Frame) (key : Nat) : List Take :=
  (keptPorts (instrsOf f.words)).map fun p =>
    ⟨p, ((Map.get InPort.blank (s.pe key).inports p).q.takeWhile fun t => t.time ≤ f.time).length - f.taken p⟩

/-! ## The late effects, slot by slot -/

/-- The location pair of a queue in a region's section (22 R330). -/
def Region.queueLocs (r : Region) (q : Queue) : Nat × Nat :=
  match r.info.queues.find? fun x => x.1 == q with
  | some x => x.2
  | none => (65535, 65535)

/-- A call enters its queue (22 R329). -/
def State.enterCall (s : State) (f : Frame) (stamp : Nat) (q : Queue) (ord : Bool) (record : W512) : State × List CountChange :=
  let l := (s.region f.region).queueLocs q
  let c : Call := ⟨q, ord, record, f.time, f.job, f.region, f.pe, stamp, f.port.pid, s.nextId, none, l.1, l.2, false⟩
  (s.onDie (peDie (hostPe f.pe)) fun d =>
    { d with copro := { d.copro with queues := Map.modify [] d.copro.queues (queueCode q) (· ++ [c]) } },
   [⟨l.1, f.time, 1⟩])

/-- A location is told to a bay (20 R310). -/
def State.subscribeBay (s : State) (job rid l : Nat) : State :=
  let root := s.root job
  let s := s.onJob job fun j =>
    { j with root := { root with subs := if root.subs.contains (l, .bay rid) then root.subs else root.subs ++ [(l, .bay rid)] } }
  s.onRegion rid fun r => { r with fronts := r.fronts.set l (Map.get 0 root.front l, Map.get 0 root.fstamp l) }

/-- Bind a frontier port to a location, with its hold at the root (20 R311). -/
def State.subscribePort (s : State) (f : Frame) (key port l : Nat) : State × List CountChange :=
  match (s.pe key).active.iloc port with
  | none => (s, [])
  | some own =>
    let h := timeCut f.time (s.pe key).active.depth
    let s := s.onPe key fun p =>
      { p with inports := Map.modify InPort.blank p.inports port fun x => { x with bound := some (l, h) } }
    (s.onJob f.job fun j =>
      { j with root := { j.root with holds := j.root.holds ++ [(l, own, (s.pe key).active.depth, key, port, h)] } },
     [⟨own, h, 1⟩])

/-- A capability command: slots, counts and an opened epoch (20 R297, R298, R312). -/
def State.applyTcap (f : Frame) (sg : State × Gather) (op : TcapOp) : State × Gather :=
  let s := sg.1
  let c := s.capsNow
  let c' := c.after op
  let r := s.region f.region
  let l := match op with
    | .new _ l _ => l
    | .advance k _ | .drop k => (c.placeOf k).1
  let old : List CountChange := match op with
    | .new _ _ _ => []
    | .advance k _ | .drop k => match c.held.find k with
      | some t => [⟨l, t, -1⟩]
      | none => []
  let new_ : List CountChange := match op with
    | .new _ _ t | .advance _ t => [⟨l, t, 1⟩]
    | .drop _ => []
  let g := sg.2.add (new_ ++ old)
  let g := match c'.hi.find l with
    | some e => if c.hi.find l == some e then g else g.opening (l, r.holder (agentKey f.agent), e)
    | none => g
  (match agentKey f.agent with
    | none => s.onRegion f.region fun r => { r with caps := c'.held, capLoc := c'.place, capHi := c'.hi }
    | some k => s.onPe k fun p => { p with caps := c'.held, capHi := c'.hi.find l }, g)

/-- Fold a value into the path digest of an agent (26 R396). -/
def State.fold (s : State) (a : Agent) (v : W64) : State :=
  match a with
  | .ctl r => s.onRegion r fun x => { x with digest := foldDigest x.digest v }
  | b => match agentKey b with
    | some k => s.onPe k fun x => { x with digest := foldDigest x.digest v }
    | none => s

/-- A token leaves an output port. -/
def State.lateSend (f : Frame) (stamp port : Nat) (v : Value) (sg : State × Gather) : State × Gather :=
  match agentKey f.agent with
  | none => sg
  | some k => let x := sg.1.sendAt k port v f.time stamp; (x.1, sg.2.add x.2)

/-- One effect of the last part of a commit. -/
def State.lateAct (f : Frame) (stamp : Nat) (sg : State × Gather) (a : Act) : State × Gather :=
  let s := sg.1
  match a with
  | .send p (some v) => State.lateSend f stamp p v sg
  | .epatom ep off op x regs =>
    ({ s with transfers := s.transfers ++
        [⟨s.nextId, f.job, f.agent, f.region,
          .atomic (packFields 64 [(56, 8, ep), (0, 56, off)]) op x regs f.agent, f.time⟩],
              nextId := s.nextId + 1 }, sg.2)
  | .subscribe p l =>
    match agentKey f.agent with
    | none => (s.subscribeBay f.job f.region l, sg.2)
    | some k => let x := s.subscribePort f k p l; (x.1, sg.2.add x.2)
  | .tcap op => State.applyTcap f sg op
  | .callq q ord r => let x := s.enterCall f stamp q ord r; (x.1, sg.2.add x.2)
  | .pmonctl w => (s.pmonctl s.myBays w, sg.2)
  | .rrmark v => (s.fold f.agent v, sg.2)
  | .tlbinv w va => (s.tlbinv w va, sg.2)
  | .csload w b => (s.csload w b, sg.2)
  | .wdog w => (s.onRegion f.region fun r => { r with wdog := wdogSet r.wdog w }, sg.2)
  | .sregWr n v => (s.sregWrite n v, sg.2)
  | .sect op => State.applySect f.region stamp sg op
  | _ => sg

/-- Sticky flags that a slot raised enter FLAGS (03 R43; 24 R378). -/
def State.lateFlags (f : Frame) (s : State) (k : Nat) : State :=
  f.flags.foldl (fun s x => if x.1 = k then s.onStatus f.agent (statusOr · x.2) else s) s

/-- The last effects, slot by slot. -/
def State.lateActs (f : Frame) (stamp : Nat) (sg : State × Gather) : State × Gather :=
  (List.range 64).foldl (fun sg k =>
    f.acts.foldl (fun sg a => if a.1 = k then State.lateAct f stamp sg a.2 else sg) (State.lateFlags f sg.1 k, sg.2)) sg

/-- After the firing's own batch: the token of an MREL without a tile, and the LMSTREAM engines (14 R227; 12 R198). -/
def State.afterAct (f : Frame) (stamp : Nat) (sg : State × Gather) (a : Nat × Act) : State × Gather :=
  match a.2, agentKey f.agent with
  | .mrelKind p k, some _ => State.lateSend f stamp p (.ofKind k) sg
  | .lmSource p addr len, some k =>
    (sg.1.onPe k fun q => { q with src := ⟨true, p, addr, len, f.time, stamp, false⟩ }, sg.2)
  | .lmSink p addr len, some k => (sg.1.onPe k fun q => { q with snk := ⟨true, p, addr, len, none, false⟩ }, sg.2)
  | _, _ => sg

/-! ## Leaving the block -/

/-- The PE or AG node that an agent number names. -/
def keyOfAgent (n : Nat) : Option Nat :=
  if n < 16384 then some n else if 16640 ≤ n then some (n - 256) else none

/-- The PE or AG node that a record is about: a command of a control thread runs on the unit of its home PE. -/
def State.recKey (s : State) (trec : W512) : Option Nat :=
  let n := bits trec 31 16
  if trecOrigin trec = 4 ∧ 16384 ≤ n ∧ n < 16640 then some (s.region (n - 16384)).rect.home else keyOfAgent n

/-- The agent named in the handled record resumes (24 R373): a node, a rule or an AG node, and a stopped matrix unit. -/
def State.resumeAgent (s : State) (trec : W512) : State :=
  match s.recKey trec with
  | none => s
  | some k =>
    s.onPe k fun p =>
      { p with stopped := false, src := { p.src with hurt := false }, snk := { p.snk with hurt := false },
               matrix := if trecOrigin trec = 4 then { p.matrix with stopped := false } else p.matrix }

/-- SEAL: the node of the handled record is contained (24 R373, R355). -/
def State.sealAgent (s : State) (rid : Nat) (trec : W512) : State :=
  match s.recKey trec with
  | none => s
  | some k => s.contain rid clsSealed (bits trec 63 52) (bits trec 31 16) (s.containedSet rid k)

/-- The exit of a control block: the next program counter, the return stack, and the digest (18 Table 18-1; 24 R373; 26 R396).
Log entry 58 (DESIGN CHOICE). -/
def State.leave (s : State) (f : Frame) : State :=
  let rid := f.region
  let r := s.region rid
  let goTo := fun (s : State) (pc : W64) (x : Nat) =>
    (s.onRegion rid fun r => { r with pc := pc }).fold f.agent ((pc <<< 3) + BitVec.ofNat 64 x)
  match f.exit with
  | none => s
  | some (.goto pc, x) => goTo s pc x.toNat
  | some (.call pc, x) => goTo (s.onRegion rid fun r => { r with rstack := followAddr f :: r.rstack }) pc x.toNat
  | some (.ret, x) => goTo (s.onRegion rid fun r => { r with rstack := r.rstack.drop 1 }) (r.rstack.headD 0) x.toNat
  | some (.halt, _) => (s.fold f.agent 0).endThread rid
  | some (.eret mode a, _) =>
    let s := s.onRegion rid fun r => { r with status := statusSet r.status 14 false }
    let s := if mode = 0 then s.resumeAgent r.trec else if mode = 2 then s.sealAgent rid r.trec else s
    goTo s (if mode = 1 then a else r.epc) 0

/-- A node after its firing: the stamp that its next firing begins with, and whether it was the last. -/
def State.nodeDone (s : State) (f : Frame) (key stamp : Nat) (last : Bool) : State :=
  let s := s.onPe key fun p =>
    { p with stamp := stamp, firings := p.firings + 1, finished := p.finished || last }
  match f.agent with
  | .ag a k => { s with ags := Map.modify Ag.blank s.ags a fun x => { x with inflight := x.inflight.filter (· != k) } }
  | _ => s

/-- A source whose last capability has gone closes its circuits; one that DRAIN has reached drops what it holds (20 R299; 18
R284). Log entry 46 (DEDUCED). -/
def State.sourceDone (held : Bool) (f : Frame) (key stamp : Nat) (sg : State × Gather) : State × Gather :=
  let p := sg.1.pe key
  if p.active.sloc.isNone then sg
  else if held && p.caps.isEmpty then
    let x := sg.1.sendEos p.active key f.time stamp
    (x.1.onPe key fun p => { p with finished := true }, sg.2.add x.2)
  else if p.drained then
    let x := sg.1.closeSource key stamp
    (x.1, sg.2.add x.2)
  else sg

/-- The last part of a commit (11 R189; 16 R252). -/
def State.commitFinish (s : State) : State :=
  let f := s.cur
  let stamp := max f.port.pts f.fenceW
  let f := { f with port := { f.port with pts := stamp } }
  let s := State.progress { s with cur := f } f.region
  let bay := agentBay f.agent
  match agentKey f.agent with
  | none =>
    let x := State.lateActs f stamp (s, ⟨[], []⟩)
    let s := (s.keepCounts (x.1.emitBatch bay f.job f.region x.2.cs x.2.opens stamp) f true).leave f
    let s := s.onRegion f.region fun r => { r with pts := stamp }
    { s with cur := { s.cur with live := false } }.keepPort f.port
  | some k =>
    let held := !(s.pe k).caps.isEmpty
    let last := s.lastFiring f
    let takes := if last then f.takes ++ keptTakes s f k else f.takes
    let x := takes.foldl (State.consume k) (s, ⟨[], []⟩)
    let x := State.lateActs f stamp x
    let x := State.sourceDone held f k stamp x
    let s := x.1.emitBatch bay f.job f.region x.2.cs x.2.opens stamp
    let y := f.inSlots.foldl (State.afterAct f stamp) (s, ⟨[], []⟩)
    let s := (y.1.emitBatch bay f.job f.region y.2.cs [] stamp).nodeDone f k stamp last
    { s with cur := { s.cur with live := false } }.keepPort f.port

/-! ## A rule firing (15 R241) -/

/-- The writes of one delivery to an output plane: a lane for each site of the group. -/
def ruleWrites (planes : Map PlaneEntry) (wout : W64) (g : RuleGroup) (port : Nat) (v : Value) : List SiteWrite :=
  let n := (stepOuts wout).getD port 0
  let w := (planeAt planes n).geo.width
  (List.range g.sites.length).map fun i =>
    let st := g.sites.getD i (0, 0)
    ⟨n, st.1, st.2, BitVec.ofNat 64 (v.bits.toNat / 2 ^ (w * i) % 2 ^ w)⟩

/-- A rule firing commits: its writes and flags join those of the PSTEP, whose next group follows. -/
def State.commitRule (s : State) : State :=
  let f := s.cur
  let p := s.pe f.pe
  let ws := f.acts.flatMap fun a => match a.2 with
    | .send q (some v) => ruleWrites p.planes p.stepRun.wout f.group q v
    | _ => []
  let fl := f.flags.foldl (fun x y => x.or y.2) Flags.none
  let s := s.onPe f.pe fun p =>
    { p with stepRun := { p.stepRun with writes := p.stepRun.writes ++ ws, flags := p.stepRun.flags.or fl,
                                         groups := p.stepRun.groups.drop 1 } }
  ({ s with cur := { s.cur with live := false } }.tally (bayOf f.pe) 0x1D 1).progress f.region

/-! ## BLOCK_COMMIT -/

/-- Finish the commit of the block whose turn it is, when nothing is waited for any longer. -/
def State.tryFinish (s : State) (upto : Nat) : State := if s.finishWaits s.cur upto then s else s.commitFinish

/-- The slots that some slots have delivered to, with those slots: they rest on what these delivered. -/
def Frame.restOn (f : Frame) : Nat → List Nat → List Nat
  | 0, ks => ks
  | n + 1, ks =>
    let more := (List.range f.words.length).filter fun j => !ks.contains j &&
      (ks.filter fun i => (f.slotAt i).phase == .issued).any fun i =>
        [Tgt.opL (BitVec.ofNat 6 j), .opR (BitVec.ofNat 6 j), .opX (BitVec.ofNat 6 j), .pred (BitVec.ofNat 6 j)].any (f.fed [i])
    if more.isEmpty then ks else f.restOn n (ks ++ more)

/-- A slot as it stood before some issued slots delivered to it. -/
def Frame.undone (f : Frame) (from_ : List Nat) (k : Nat) : Slot :=
  let sl := f.slotAt k
  let key := BitVec.ofNat 6 k
  let keep := fun (v : Option Value) (t : Tgt) => if f.fed from_ t then none else v
  { op0 := keep sl.op0 (.opL key), op1 := keep sl.op1 (.opR key), op2 := keep sl.op2 (.opX key), pred := keep sl.pred (.pred key),
    phase := .idle }

/-- An effect counts toward NOUT (09 R147). -/
def Act.counted : Act → Bool
  | .send _ _ => true
  | .ctr _ _ => false
  | a => a.regDelivered.isSome

/-- A store-class instruction, which counts toward NST (09 R146). -/
def storeClass : Instr → Bool
  | .epatom _ _ _ _ => true
  | i => (storeLsid i).isSome

/-- The LSID of a format-M instruction. -/
def memLsid (i : Instr) : Option Nat := ((loadLsid i).map Prod.fst).orElse fun _ => storeLsid i

/-- An exit of a control block. -/
def isExit : Instr → Bool
  | .bro _ _ _ | .bri _ _ | .callo _ _ _ | .retb _ _ | .halt _ => true
  | _ => false

/-- A block in which some slots, and those that rest on them, are to issue again: what they did is forgotten, and what the others did
stays (12 R195; 09 R144). -/
def Frame.redo (f : Frame) (ks : List Nat) : Frame :=
  let again := f.restOn 64 ks
  let ran := again.filter fun k => (f.slotAt k).phase == .issued
  let is := ran.filterMap f.instr
  { f with
    slots := (List.range f.slots.length).map fun k => if again.contains k then f.undone ran k else f.slotAt k,
    turn := 0, outs := f.outs - (f.acts.filter fun a => ran.contains a.1 && a.2.counted).length,
    stores := f.stores - (is.filter storeClass).length, lsids := f.lsids.filter fun l => !(is.filterMap memLsid).contains l,
    acts := f.acts.filter fun a => !ran.contains a.1, flags := f.flags.filter fun a => !ran.contains a.1,
    bufs := f.bufs.filter fun b => !ran.contains b.2, exit := if is.any isExit then none else f.exit }

/-- BUFGETs that have lost their slots wait again, with the block's commit, once the block's accesses have returned (12 R195); slots that
issue again wait for no granule and no page (07 R107, R109). Log entry 22 (DEDUCED). -/
def State.restartSlots (s : State) (ks : List Nat) : State :=
  let f := s.cur
  if !f.port.outbox.isEmpty || !f.port.flight.isEmpty then s
  else
    let again := f.restOn 64 ks
    { s with cur := f.redo ks }.onPe f.pe fun p =>
      { p.dropUsers (· == PageUser.slot f.agent commitTurn) with
        waiters := p.waiters.filter fun w => !(w.agent == f.agent && again.contains w.slot) }

/-- Try the commit of a complete block: a precise fault, a wait, or the first part and, where nothing is waited for, the
last. -/
def State.tryCommit (s : State) : State :=
  let f := s.cur
  let p := s.pe f.pe
  match f.bufMoved p with
  | k :: ks => s.restartSlots (k :: ks)
  | [] =>
    match s.commitFault f with
    | some (k, t) => (s.onCur fun f => { f with turn := k }).raisePrecise t
    | none =>
      if s.commitWaits f then s
      else if f.pagesWait p then
        s.onPe f.pe fun p => (p.claimAll f.job [.slot f.agent commitTurn] f.pagesNeeded).claimAll f.job [] f.pagesStored
      else if f.emptyWait p then s.onPe f.pe f.awaitAll
      else
        let s := s.commitStart
        s.tryFinish s.nextId

/-- BLOCK_COMMIT (09 R148). -/
def execBlockCommit (s : State) : Host.Outcome State Fault Refusal :=
  let f := s.cur
  if !f.complete then .next s
  else
    match f.phase with
    | .fencing n => .next (s.tryFinish n)
    | .done => .next s
    | .running => .next (if f.kind == .rule then s.commitRule else s.tryCommit)

end Sys2Proof.Machine
end

