-- ==== Sys2Proof/Machine/SliceEv.lean ====
section
/-! DEFINITION. SliceEv: the steps of the slices and of the executive at their registers (02 R21 to R31; 04 R53 to R72;
05 R80). -/

namespace Sys2Proof.Machine

/-! ## Misses (04 R55) -/

/-- A request waits for a fill of its line: one that is pending takes it in, else a free fill buffer does; none while every
buffer is busy. -/
def Slice.miss (c : Slice) (r : Req) (need : List Nat) : Option Slice :=
  let line := r.addr / 64
  if c.fills.any fun f => f.line == line then
    some { c with fills := c.fills.map fun f =>
      if f.line == line then { f with sectors := f.sectors ||| sectorMask need, waiting := f.waiting ++ [r] } else f }
  else if c.fills.length < 64 then some { c with fills := c.fills ++ [⟨line, sectorMask need, [r]⟩] }
  else none

/-- Take a request at its line (04 R54, R55, R70, R71): it waits while a fill of a sector that it touches is pending, so that no
request is overtaken; a lost dirty sector answers it with UNCORR; else it is applied, or waits for a fill. -/
def State.takeAt (s : State) (k : Nat) (r : Req) : Option State :=
  let line := r.addr / 64
  if ((s.slice k).pending line r.sectors).isSome then
    ((s.slice k).miss r (r.needs (s.lineAt k line))).map fun c => s.onSlice k fun _ => c
  else
    match s.checkLine k line r.reads with
    | (s, true) => some (s.answerError k r .uncorr)
    | (s, false) =>
      let l := s.lineAt k line
      let need := r.needs l
      if need.isEmpty || (l.poison && !r.wholeLine) then some (s.applyAt k r)
      else ((s.slice k).miss r need).map fun c => s.onSlice k fun _ => c

/-! ## Eviction (04 R54, R72) -/

/-- The storage pages of a view line that its eviction writes are captured first (26 R394). -/
def State.captureEvict (s : State) (k line : Nat) : State :=
  let a := 64 * line
  match s.captureNeeded a 64 with
  | some (j, p) =>
    if !(s.lineAt k line).dirtySectors.isEmpty && (s.windowAt a).isSome then
      (if (s.job j).captRoom then s.capture j p else s.captureFull j)
    else s
  | none => s

/-- A victim leaves to make room: a line of the same set, when an access misses and every way is taken. Log entry 86 (DESIGN
CHOICE). -/
def State.evictFor (s : State) (k victim line : Nat) : State :=
  if (s.slice k).hasWay line || !((s.slice k).mates line).contains victim || (s.slice k).fills.any fun f => f.line == victim then s
  else (s.captureEvict k victim).evictLine k victim

/-! ## SLICE_ACCESS (04 R55, R59) -/

/-- The head of a class queue. -/
def Slice.head (c : Slice) (cls : Nat) : Option Req := (c.queues.toList.getD (cls - 1) []).head?

/-- A request at the head of its queue waits for the capture of a page that has been asked for (26 R394). -/
def State.awaitsCapture (s : State) (r : Req) : Bool :=
  (s.accessError r.job r.addr r.n r.op.writes).isNone && !inExec r.addr && r.op.writes &&
  match s.captureNeeded r.addr r.n with
  | some (j, p) => !(s.job j).captOff && (s.job j).capWait.contains p
  | none => false

/-- A request would miss: it needs a fill, or waits for one that is pending. -/
def State.misses (s : State) (k : Nat) (r : Req) : Bool :=
  let line := r.addr / 64
  (s.accessError r.job r.addr r.n r.op.writes).isNone && !inExec r.addr &&
  (((s.slice k).pending line r.sectors).isSome || (!(s.lineAt k line).poison && !(r.needs (s.lineAt k line)).isEmpty))

/-- The head of a class queue can proceed: its reply can be placed and, if it misses, a fill buffer takes it (04 R59; 08 R125). -/
def State.canProceed (s : State) (k cls : Nat) : Bool :=
  match (s.slice k).head cls with
  | none => false
  | some r =>
    s.replyRoom k r && !s.awaitsCapture r &&
    (!s.misses k r || (s.slice k).fills.any (fun f => f.line == r.addr / 64) || (s.slice k).fills.length < 64)

/-- The class whose head the arbiter of a slice takes: the next in the rotation whose head can proceed (04 R59). -/
def State.nextClass (s : State) (k : Nat) : Option Nat :=
  ((List.range 5).map fun i => ((s.slice k).turn + i) % 5 + 1).find? (s.canProceed k)

/-- SLICE_ACCESS (04 R55, R59): the head of the class queue whose turn it is is applied to its line, waits for a fill, or is answered
with an error. A write that a recording has to capture first waits (26 R394). `sram` is a soft error of the first sector that the
access touches. Log entry 90 (DESIGN CHOICE). -/
def execSliceAccess (slice cls victim : Nat) (sram : SoftError) (s : State) : Host.Outcome State Fault Refusal :=
  match s.nextClass slice, (s.slice slice).head cls with
  | some c, some r =>
    if c != cls then .next s
    else
      let s : State := { s with refresh := s.refresh.filter (· != slice / 32) }
      let popped := fun (s : State) =>
        s.onSlice slice fun c => { c with queues := c.queues.set! (cls - 1) ((c.queues.toList.getD (cls - 1) []).drop 1), turn := cls % 5 }
      match s.accessError r.job r.addr r.n r.op.writes with
      | some e => .next ((popped s).answerError slice r e)
      | none =>
        if inExec r.addr then
          let x := (popped s).accessExec r
          .next (x.1.sendReply slice x.2)
        else
          match (if r.op.writes then s.captureNeeded r.addr r.n else none) with
          | some (j, p) =>
            if (s.job j).captOff then .next ((popped s).sendReply slice ⟨r, none, 0, false, 0, 0, false, 0⟩)
            else .next (s.onJob j fun x => { x with capWait := if x.capWait.contains p then x.capWait else x.capWait ++ [p] })
          | none =>
            match (((popped s).strikeLine slice (r.addr / 64) (r.sectors.headD 0) sram).evictFor slice victim
                (r.addr / 64)).takeAt slice r with
            | some t => .next t
            | none => .next s
  | _, _ => .next s

/-! ## Fills -/

/-- SECTOR_FILL (04 R55; 02 R29, R30): a fill from HBM lands; `ecc` is a soft error of the line that it reads. -/
def execSectorFill (slice idx : Nat) (ecc : SoftError) (s : State) : Host.Outcome State Fault Refusal :=
  match (s.slice slice).fills[idx]? with
  | none => .next s
  | some f => if inView (64 * f.line) then .next s else .next ((s.strikeHbm f.line ecc).landFill slice idx)

/-- BOLTER_FILL (04 R66): the storage blocks of a view line's sectors return; a sector whose storage is poisoned stays invalid, and
the accesses that need it take POISON. -/
def execBolterFill (slice idx : Nat) (s : State) : Host.Outcome State Fault Refusal :=
  match (s.slice slice).fills[idx]? with
  | none => .next s
  | some f => if inView (64 * f.line) then .next (s.landFill slice idx) else .next s

/-- SCRUB_READ (02 R31): the scrubber reads and checks a line of device memory; what it finds is the error that `ecc` names, or one
that has struck before. An error that it corrects is counted as one of a fill is. Log entry 25 (DESIGN CHOICE). -/
def execScrubRead (line : Nat) (ecc : SoftError) (s : State) : Host.Outcome State Fault Refusal :=
  let a := 64 * line
  let k := s.sliceOf a
  if !inDevice a then .next s
  else
    match (s.strikeHbm line ecc).readHbm line with
    | (s, false) => .next s
    | (s, true) => .next (s.chargeOwner k a)

/-! ## The registers of executive space -/

/-- ART_ENTRY_ENABLE (02 R22). -/
def execArtEntryEnable (entry : Nat) (stride : BitVec 5) (s : State) : Host.Outcome State Fault Refusal :=
  if 64 ≤ entry then .next s
  else .next { s with art := s.art.set entry ((s.artAt entry).control s.art entry true stride) }

/-- ART_ENTRY_DISABLE (02 R23). -/
def execArtEntryDisable (entry : Nat) (s : State) : Host.Outcome State Fault Refusal :=
  if 64 ≤ entry then .next s
  else .next { s with art := s.art.set entry { s.artAt entry with en := false } }

/-- OWNER_TAG_WRITE (02 R27). -/
def execOwnerTagWrite (page : Nat) (tag : BitVec 16) (s : State) : Host.Outcome State Fault Refusal :=
  if 2 ^ 24 ≤ page then .next s else .next (s.ownerWrite page tag)

/-- ERROR_LOG_FREE (02 R28). -/
def execErrorLogFree (slice entry : Nat) (s : State) : Host.Outcome State Fault Refusal :=
  if 512 ≤ slice ∨ 16 ≤ entry then .next s else .next (s.logWrite slice entry false)

/-- LOST_CLEAR (02 R28). -/
def execLostClear (slice : Nat) (s : State) : Host.Outcome State Fault Refusal :=
  if 512 ≤ slice then .next s else .next (s.lostClear slice)

/-- WRITE_BACK_RANGE (04 R62). -/
def execWriteBackRange (s : State) : Host.Outcome State Fault Refusal := .next (s.maintStart 1)

/-- WRITE_BACK_INVALIDATE_RANGE (04 R62). -/
def execWriteBackInvalidateRange (s : State) : Host.Outcome State Fault Refusal := .next (s.maintStart 2)

/-- WRITE_BACK_INVALIDATE_ALL (04 R62). -/
def execWriteBackInvalidateAll (s : State) : Host.Outcome State Fault Refusal := .next (s.maintStart 3)

/-- REBASE (04 R58). -/
def execRebase (s : State) : Host.Outcome State Fault Refusal := .next (s.maintStart 4)

/-- A token whose stamp a rebase has made meaningless. -/
def Token.rebased (t : Token) : Token := { t with stamp := 0 }

/-- An input port of a saved context after a rebase (04 R58). -/
def InPort.rebased (p : InPort) : InPort :=
  { p with q := p.q.map Token.rebased, fstamp := 0, batch := { p.batch with records := p.batch.records.map Token.rebased } }

/-- Registers after a rebase. -/
def regsRebased (m : Map Reg) : Map Reg := m.mapVals fun _ r => { r with ts := 0 }

/-- A saved PE after a rebase. -/
def Pe.rebased (p : Pe) : Pe :=
  { p with stamp := 0, wHi := 0, nregs := regsRebased p.nregs, vregs := regsRebased p.vregs,
           inports := p.inports.mapVals fun _ x => x.rebased, boxes := p.boxes.mapVals fun _ ts => ts.map Token.rebased,
           outq := p.outq.mapVals fun _ ts => ts.map Token.rebased, src := { p.src with stamp := 0 },
           handles := p.handles.mapVals fun _ h => { h with slotPts := h.slotPts.map fun _ => 0, joinPts := 0 },
           matrix := { p.matrix with joinPts := 0, queue := p.matrix.queue.map fun c => { c with pts := 0, wHi := 0 },
                                     behind := p.matrix.behind.map fun e => (e.1, e.2.1, e.2.2.rebased) } }

/-- A saved context after a rebase: every stamp is 0 (04 R58). -/
def Saved.rebased (c : Saved) : Saved :=
  { c with region := { c.region with pts := 0, wHi := 0, ctlWHi := 0, g := regsRebased c.region.g,
                                     fronts := c.region.fronts.mapVals fun _ x => (x.1, 0) },
           pes := c.pes.map fun e => (e.1, e.2.rebased),
           streams := c.streams.map fun e => (e.1, e.2.1, { e.2.2 with port := { e.2.2.port with pts := 0, wHi := 0 } }),
           queued := c.queued.map fun x => { x with pts := 0 }, held := c.held.map fun x => { x with pts := 0 },
           ready := c.ready.map fun x => { x with pts := 0, call := { x.call with pts := 0 } } }

/-- The root of a job after a rebase (04 R58). -/
def Root.rebased (t : Root) : Root :=
  { t with stamp := 0, queue := t.queue.map fun b => { b with stamp := 0 }, fstamp := [],
           out := t.out.map fun a => { a with stamp := 0 }, sent := t.sent.map fun b => { b with stamp := 0 } }

/-- A rebase at every slice: EVTS is 0, no line keeps a lease, and every stamp that a saved context, a mailbox, a count unit or a root
holds is 0 (04 R58). -/
def State.rebase (s : State) : State :=
  { s with slices := s.slices.mapVals fun _ c => { c with evts := 0, lines := [], mailbox := c.mailbox.mapVals fun _ ts => ts.map Token.rebased },
           maint := { s.maint with leasehi := false }, signals := s.signals.filter (· != Signal.leaseHi),
           saves := s.saves.mapVals fun _ c => c.rebased,
           jobs := s.jobs.mapVals fun _ j => 
             { j with root := j.root.rebased, wHi := 0, entries := j.entries.mapVals fun _ e => { e with stamp := 0 } },
           bays := s.bays.mapVals fun _ b => { b with batches := b.batches.map fun x => { x with stamp := 0 } },
           dies := s.dies.mapVals fun _ d => { d with batches := d.batches.map fun x => { x with stamp := 0 } } }

/-- Every slice writes back and invalidates every line. -/
def State.flushAll (s : State) : State := s.slices.keys.foldl (fun s k => s.flushSlice k fun _ => true) s

/-- A maintenance command at every slice (04 R58, R62). Log entry 24 (DESIGN CHOICE). -/
def State.maintApply (s : State) : State :=
  let range := lineMeets s.maint.maddr.toNat s.maint.mlen.toNat
  match s.maint.mop.toNat with
  | 1 => s.slices.keys.foldl (fun s k => s.cleanSlice k range) s
  | 2 => s.slices.keys.foldl (fun s k => s.flushSlice k range) s
  | 3 => s.flushAll
  | 4 => if s.anyLine then { s with maint := { s.maint with err := true } } else s.rebase
  | _ => s

/-- MAINTENANCE_DONE (04 R62): a REBASE that finds a line made valid since its start is refused then. Log entry 24 (DESIGN CHOICE). -/
def execMaintenanceDone (s : State) : Host.Outcome State Fault Refusal :=
  if s.maint.busy then
    let s := s.maintApply
    .next { s with maint := { s.maint with busy := false } }
  else .next s

/-- FORMAT_WINDOW_ENABLE (04 R64). -/
def execFormatWindowEnable (window : Nat) (word3 : W64) (s : State) : Host.Outcome State Fault Refusal :=
  if 32 ≤ window then .next s else .next (s.windowControl window (insertBits word3 63 1 1))

/-- FORMAT_WINDOW_DISABLE (04 R69). -/
def execFormatWindowDisable (window : Nat) (s : State) : Host.Outcome State Fault Refusal :=
  if 32 ≤ window then .next s else .next (s.windowControl window 0)

/-- REGISTER_WRITE (24 R378): the executive writes a register, of executive space, of a region, of a PE, or of the module. -/
def execRegisterWrite (place : RegPlace) (value : W64) (s : State) : Host.Outcome State Fault Refusal :=
  match place with
  | .phys a =>
    match s.accessError execTag a 8 true with
    | some e => .next (s.logError (s.homeOf a) ({ Req.blank with addr := a, n := 8, op := .store, job := execTag, cls := 5 }.entry e))
    | none => .next (if a % 8 = 0 && inExec a then s.execWord a value else s)
  | .region r 0x000 => .next (s.onRegion r fun x => { x with status := insertBits x.status 0 5 (bits value 4 0) })
  | .region r n => .next (s.setRegionReg r n value)
  | .pe k 0x000 => .next (s.onPe k fun p => { p with status := insertBits p.status 0 5 (bits value 4 0) })
  | .pe k n => .next (s.setPeReg k n value)
  | .module n => .next (s.setRegionReg 0 n value)

/-! ## Withheld translations (05 R80) -/

/-- The bid of a saved context, with its original rank and bypass count (21 R324). -/
def Saved.bid (c : Saved) (k : Nat) : Bid :=
  { job := c.job, entry := c.entry, prio := c.rank.1, age := c.rank.2.1, w := c.region.rect.w / 8, h := c.region.rect.h / 8,
    dies := c.dies, bypass := c.rank.2.2, ctx := some k }

/-- A withheld translation with the executive's answer. -/
def Withheld.answered (x : Withheld) (job vpage : Nat) (ok : Bool) : Withheld :=
  if x.job == job && x.vpage == vpage && x.answer.isNone then { x with answer := some ok } else x

/-- A saved context waits for the answer on a page. -/
def Saved.waitsFor (c : Saved) (job vpage : Nat) : Bool :=
  c.live && !c.lost && match c.page with
    | some x => x.job == job && x.vpage == vpage && x.answer.isNone
    | none => false

/-- The executive's answer on a page reaches every translation withheld for it; a region that was drained for the page bids
again (05 R80; 24 R370). -/
def State.answerPage (s : State) (job vpage : Nat) (ok : Bool) : State :=
  let woken := s.saves.filter fun c => c.2.waitsFor job vpage
  { s with withheld := s.withheld.map (·.answered job vpage ok),
           saves := s.saves.mapVals fun _ c => { c with page := c.page.map (·.answered job vpage ok) },
           regions := s.regions.mapVals fun _ r => { r with pageWait := r.pageWait.map (·.answered job vpage ok) },
           bids := s.bids ++ woken.map fun c => c.2.bid c.1 }

/-- PAGE_RESUME (05 R80). -/
def execPageResume (job vpage : Nat) (s : State) : Host.Outcome State Fault Refusal := .next (s.answerPage job vpage true)

/-- PAGE_REFUSE (05 R80). -/
def execPageRefuse (job vpage : Nat) (s : State) : Host.Outcome State Fault Refusal := .next (s.answerPage job vpage false)

end Sys2Proof.Machine
end

