-- ==== Sys2Proof/Machine/NetEv.lean ====
section
/-! DEFINITION. NetEv: the steps of the networks: packets (08 R122 to R125, R130, R132; 16 R253; 19 R289), tokens on circuits
and through mailboxes (04 R61; 08 R119, R120, R126), and what a token does when it reaches a port (17 R271; 20 R302; 24 R355,
R362). -/

namespace Sys2Proof.Machine

/-! ## Routes of packets (08 R123, R128) -/

/-- One hop of a packet. -/
inductive Way where
  /-- to a neighbouring switch, entered by a side; `ring` says that the hop lies in a stitched ring -/
  | go (p : Place) (side : Nat) (ring : Bool)
  /-- over a seam, at the place on the other die -/
  | seam (p : Place) (c : Crossing)
  | here
  deriving DecidableEq, Repr

/-- The live region whose rectangle holds two places of one die. -/
def State.ringRegion (s : State) (a b : Place) : Option Region :=
  (s.regions.find? fun e => e.2.live && e.2.rect.has (peOf a.die a.x a.y) && e.2.rect.has (peOf b.die b.x b.y)).map Prod.snd

/-- Whether a way of d of n in the plus direction of a ring is the one taken: the shorter, and plus at a tie. -/
def plusWay (d n : Nat) : Bool := 2 * d ≤ n

/-- The next coordinate on a line or a ring from `a` toward `b`, and whether it is in the plus direction. -/
def nextOn (ring : Bool) (lo n a b : Nat) : Nat × Bool :=
  if ring then
    let up := plusWay ((b + n - a) % n) n
    (lo + (if up then (a - lo + 1) % n else (a - lo + n - 1) % n), up)
  else if a < b then (a + 1, true) else (a - 1, false)

/-- The next hop on a die: along x, then along y, the shorter way round a stitched ring (08 R123). -/
def State.wayOn (s : State) (at_ dst : Place) : Way :=
  let r := s.ringRegion at_ dst
  let rc := (r.map Region.rect).getD ⟨0, 0, 0, 64, 64⟩
  let xr := match r with
    | some g => bitAt g.stitch 1
    | none => false
  let yr := match r with
    | some g => bitAt g.stitch 0
    | none => false
  if at_.x ≠ dst.x then
    let m := nextOn xr rc.x0 rc.w at_.x dst.x
    .go { at_ with x := m.1 } (if m.2 then 1 else 2) xr
  else if at_.y ≠ dst.y then
    let m := nextOn yr rc.y0 rc.h at_.y dst.y
    .go { at_ with y := m.1 } (if m.2 then 3 else 4) yr
  else .here

/-- A crossing from one die to another at a row or column of their seam, over the bridge stack that stands there (01 R8). -/
def crossing (a b at_ : Nat) : Crossing := ⟨a, b, at_, relayStack ((seamBetween a b).getD 0) at_⟩

/-- A way to a place at a seam, and over it there. -/
def State.wayOver (s : State) (at_ : Place) (c : Crossing) : Way :=
  if at_ = seamPlace c.out c.into c.at_ then .seam (seamPlace c.into c.out c.at_) c
  else s.wayOn at_ (seamPlace c.out c.into c.at_)

/-- The next hop toward a place: over the seam in x first, then over the one in y, at the bridge stack that the route meets (08
R123). -/
def State.way (s : State) (at_ dst : Place) : Way :=
  if at_.die = dst.die then s.wayOn at_ dst
  else if at_.die % 2 ≠ dst.die % 2 then s.wayOver at_ (crossing at_.die (at_.die / 2 * 2 + dst.die % 2) at_.y)
  else s.wayOver at_ (crossing at_.die (dst.die / 2 * 2 + at_.die % 2) dst.x)

/-- The seams that a packet's response has still to cross: those that its request crossed (19 R289). -/
def Packet.back (p : Packet) : List Crossing :=
  match p.body with
  | .req _ => []
  | .reply r => r.req.via

/-- The next hop of a packet: a request goes toward its slice, and a response goes back over the bridge stacks that relayed its
request (08 R123; 19 R289). -/
def State.wayOf (s : State) (p : Packet) : Way :=
  match p.back with
  | c :: _ => s.wayOver p.at_ ⟨c.into, c.out, c.at_, c.stack⟩
  | [] => s.way p.at_ p.dst

/-- A packet that has crossed a seam: a request notes it, and a response has one less to cross. -/
def Packet.crossed (p : Packet) (c : Crossing) : Packet :=
  match p.body with
  | .req r => { p with body := .req { r with via := c :: r.via } }
  | .reply r => { p with body := .reply { r with req := { r.req with via := r.req.via.drop 1 } } }

/-- A route still leads over a place. -/
def State.passes (s : State) : Nat → Place → Place → Place → Bool
  | 0, _, _, _ => false
  | n + 1, at_, dst, p =>
    at_ == p ||
    match s.way at_ dst with
    | .go q _ _ => State.passes s n q dst p
    | .seam q _ => State.passes s n q dst p
    | .here => false

/-- More hops than a route has. -/
def routeFuel : Nat := 400

/-- The packets of a plane and virtual channel in the buffers of one switch input (08 R122). -/
def State.inBuffer (s : State) (p : Packet) (at_ : Place) (side : Nat) : Nat := s.buffered p.plane p.isReq at_ [side]

/-- A packet enters a ring with a hop: it was injected, or it turns out of the other dimension (08 R130). -/
def entersRing (old new : Nat) : Bool := old == 0 || old == 5 || (3 ≤ new && old < 3) || (new < 3 && 3 ≤ old)

/-- A hop has the buffers that it needs: two to enter a ring, else one (08 R122, R130). -/
def State.roomFor (s : State) (p : Packet) (q : Place) (side : Nat) (ring : Bool) : Bool :=
  s.inBuffer p q side + (if ring && entersRing p.side side then 2 else 1) ≤ inputRoom

/-- Replace a packet. -/
def State.putPacket (s : State) (k : Nat) (p : Packet) : State := { s with packets := s.packets.set k p }
/-- Forget a packet. -/
def State.dropPacket (s : State) (k : Nat) : State := { s with packets := s.packets.drop k }

/-! ## Loads merged in a router (16 R253) -/

/-- The requests that wait at a slice. -/
def Slice.pendingReqs (c : Slice) : List Req := c.queues.toList.flatten ++ c.fills.flatMap (·.waiting)

/-- Two loads that a router may merge: of the same line for the same job, from different agents, the second no renew (16 R253). Loads
of different jobs are not merged, since the owner check is made of each request (02 R25). -/
def mergeable (a b : Req) : Bool :=
  (a.op == .load || a.op == .loadV) && (b.op == .load || b.op == .loadV) && a.addr / 64 == b.addr / 64 && a.job == b.job &&
  a.port != b.port && !b.renew

/-- An older load with a number is still pending in the router at a place: it has passed there on its way to the slice, and
its reply has not yet passed. -/
def State.pendingIn (s : State) (r : Req) (rid : Nat) (at_ : Place) : Bool :=
  let on := fun (q : Req) (from_ : Place) => s.passes routeFuel (s.reqPlace q) from_ at_
  s.packets.any (fun e => match e.2.body with
    | .req q => q.rid == rid && mergeable q r && e.2.merged.isNone && on q e.2.dst && !(s.passes routeFuel e.2.at_ e.2.dst at_)
    | .reply _ => false) ||
  s.slices.any fun e => e.2.pendingReqs.any fun q => q.rid == rid && mergeable q r && on q (s.servingPlace e.1 q)

/-! ## PACKET_HOP -/

/-- The bay nearest to a switch. -/
def placeBay (p : Place) : Nat := bayOf (peOf p.die p.x p.y)

/-- A request that has reached its slice's switch enters the class queue when it holds fewer than 32 (04 R59). -/
def State.enterSlice (s : State) (k : Nat) (p : Packet) (r : Req) : State :=
  let q := (s.slice p.slice).queues.toList.getD (r.cls - 1) []
  if q.length < 32 then
    (s.onSlice p.slice fun c => { c with queues := c.queues.set! (r.cls - 1) (q ++ [r]) }).dropPacket k
  else s

/-- PACKET_HOP (08 R123, R130): a packet that is made enters its plane where the injection input of its switch has a buffer, and
moves one hop where the next has; a load that `merge` names an older load for is merged into it (16 R253). -/
def execPacketHop (packet : Nat) (merge : Option Nat) (s : State) : Host.Outcome State Fault Refusal :=
  match s.packets.find packet with
  | none => .next s
  | some p =>
    if p.merged.isSome then .next s
    else if p.side == 6 then
      (if s.inBuffer p p.at_ 0 < inputRoom then .next (s.putPacket packet { p with side := 0 }) else .next s)
    else
      match merge, p.body with
      | some rid, .req r =>
        if s.pendingIn r rid p.at_ then .next ((s.putPacket packet { p with merged := some rid }).tally (placeBay p.at_) 0x0A 1)
        else .next s
      | some _, .reply _ => .next s
      | none, _ =>
        match s.wayOf p with
        | .go q side ring =>
          if s.roomFor p q side ring then .next (s.putPacket packet { p with at_ := q, side := side, resent := 0 }) else .next s
        | .seam _ _ => .next s
        | .here =>
          match p.body with
          | .req r => .next (s.enterSlice packet p r)
          | .reply _ => .next s

/-- RELAY_FORWARD (19 R289; 01 R8): a slice of the bridge stack at a seam relays a request or a response over it, unchanged. -/
def execRelayForward (packet : Nat) (s : State) : Host.Outcome State Fault Refusal :=
  match s.packets.find packet with
  | none => .next s
  | some p =>
    match s.wayOf p with
    | .seam q c =>
      if p.merged.isNone && p.side != 6 && s.roomFor p q 5 false then
        .next (s.putPacket packet { p.crossed c with at_ := q, side := 5, resent := 0 })
      else .next s
    | _ => .next s

/-! ## Damaged packets (08 R132) -/

/-- REQUEST_DAMAGED: the request is discarded, and the switch answers it with UNCORR. -/
def execRequestDamaged (packet : Nat) (s : State) : Host.Outcome State Fault Refusal :=
  match s.packets.find packet with
  | some ⟨pl, at_, side, _, k, .req r, _, none⟩ =>
    if side == 6 then .next s
    else
      let rep : Reply := ⟨r, some .uncorr, 0, false, 0, 0, false, 0⟩
      .next ((s.putPacket packet ⟨pl, at_, 6, s.reqPlace r, k, .reply rep, 0, none⟩).releaseMerged rep)
  | _ => .next s

/-- REPLY_RESEND: a damaged reply is sent again from the previous hop. -/
def execReplyResend (packet : Nat) (s : State) : Host.Outcome State Fault Refusal :=
  match s.packets.find packet with
  | none => .next s
  | some p => if !p.isReq && p.resent < 15 then .next (s.putPacket packet { p with resent := p.resent + 1 }) else .next s

/-! ## Input ports -/

/-- The tokens that an input port holds (08 R115). -/
def portRoom : Nat := 4

/-- An input port of a PE. -/
def Pe.inport (p : Pe) (n : Nat) : InPort := Map.get InPort.blank p.inports n

/-- Change an input port of a PE. -/
def State.onPort (s : State) (key port : Nat) (g : InPort → InPort) : State :=
  s.onPe key fun p => { p with inports := Map.modify InPort.blank p.inports port g }

/-- A port is a coalescing port (17 R270). -/
def PeConfig.coalesces (c : PeConfig) (port : Nat) : Bool := bitAt c.coalMask port
/-- TH of a coalescing port. -/
def PeConfig.th (c : PeConfig) (port : Nat) : Nat := Map.get 0 c.coalTh port

/-- The cause of a launch that is due now, timeout apart: the threshold, then the frontier (17 R271). -/
def PeConfig.launchCause (c : PeConfig) (port : Nat) (ip : InPort) : Option Nat :=
  match ip.batch.records with
  | [] => none
  | r :: _ =>
    if !c.coalesces port then none
    else if c.th port ≤ ip.batch.records.length then some 1
    else if r.time < ip.frontier then some 2
    else none

/-- The entries of a port that are taken: its heads, and a place for a batch that has still to launch. -/
def InPort.used (ip : InPort) : Nat := ip.q.length + (if ip.batch.records.isEmpty then 0 else 1)

/-- A port has room for a token. A sealed PE absorbs every token (24 R355); one that has saved its state takes every further
token as channel state (24 R362), and a MARK takes no place. -/
def Pe.hasRoom (p : Pe) (port : Nat) (t : Token) : Bool :=
  let ip := p.inport port
  p.sealed || p.marks || t.val.kind == .mark ||
  (if p.active.coalesces port && t.val.isData && !ip.batch.records.isEmpty && (p.active.launchCause port ip).isNone then
      ip.used ≤ portRoom
    else ip.used < portRoom)

/-- A token at the tail of a port, with the times that its consumption counts. -/
def InPort.push (ip : InPort) (t : Token) (ts : List LTime) : InPort :=
  { ip with q := ip.q ++ [t],
            counts := if ip.counts.isEmpty && ts == [t.time] then []
              else (if ip.counts.isEmpty then ip.q.map (fun x => [x.time]) else ip.counts) ++ [ts] }

/-- The token of a launched batch (17 R272). -/
def batchToken (rs : List Token) (cause : Nat) : Token :=
  ⟨.wideData (packFields 512 ((List.range rs.length).map (fun i =>
      (64 * i, 64, match rs[i]? with
        | some r => r.val.lo.toNat
        | none => 0)) ++ [(448, 3, rs.length), (452, 2, cause)])),
   (rs.getLast?.map (·.time)).getD 0, rs.foldl (fun m r => max m r.stamp) 0⟩

/-- Launch the batch of a port (17 R271). -/
def InPort.launch (ip : InPort) (cause : Nat) : InPort :=
  if ip.batch.records.isEmpty then ip
  else
    { ip.push (batchToken ip.batch.records cause) (ip.batch.records.map (·.time)) with batch := ⟨[], 0⟩ }

/-- A record joins the batch (17 R271). Log entry 37 (DEDUCED). -/
def InPort.gather (ip : InPort) (t : Token) (cycle : Nat) : InPort :=
  { ip with batch := ⟨ip.batch.records ++ [t], if ip.batch.records.isEmpty then cycle else ip.batch.since⟩ }

/-- A token enters a port: a record of a coalescing port joins its batch, and a token of another kind launches the batch and
follows it. A launch that is `due` for another cause comes first, with that cause (17 R271, R272). -/
def InPort.take (ip : InPort) (coal : Bool) (due : Option Nat) (t : Token) (cycle : Nat) : InPort :=
  if coal && t.val.isData then
    (match due with
      | some c => (ip.launch c).gather t cycle
      | none => ip.gather t cycle)
  else if coal then (ip.launch (due.getD 0)).push t [t.time]
  else ip.push t [t.time]

/-- A coalescing port launches a batch whose oldest record arrived 4,096 cycles ago (17 R271, R273). -/
def Pe.launchLate (p : Pe) (cycle port : Nat) : Pe :=
  let ip := p.inport port
  if ip.batch.records.isEmpty || !p.active.coalesces port || cycle < ip.batch.since + 4096 then p
  else { p with inports := p.inports.set port (ip.launch ((p.active.launchCause port ip).getD 3)) }

/-- Every coalescing port of a PE launches what has waited so long. -/
def Pe.launchAllLate (p : Pe) (cycle : Nat) : Pe :=
  ((p.inports.filter fun e => !e.2.batch.records.isEmpty).map Prod.fst).foldl (fun p i => p.launchLate cycle i) p

/-- The first ERR that reaches a sink of the section fails its SINKW, with the error class in [7:0] (18 R285; 24 R356). Log
entry 45 (DEDUCED). -/
def State.noteSink (s : State) (key port : Nat) (t : Token) : State :=
  match (s.pe key).region, (s.pe key).active.iloc port with
  | some r, some l =>
    if t.val.kind == .err && (s.region r).info.sinks.contains l && (s.region r).sinkErr.isNone then
      s.onRegion r fun g => { g with sinkErr := some (bits t.val.bits 7 0) }
    else s
  | _, _ => s

/-- A token reaches an input port. A sealed PE absorbs it; one whose time the announced frontier has passed is TIMEORDER (20
R302; 24 R355). A MARK is counted nowhere and launches no batch; the port notes that it has arrived (24 R362). Log entry 37
(DEDUCED). -/
def State.arrive (s : State) (key port : Nat) (t : Token) : State × List CountChange :=
  let p := s.pe key
  let ip := p.inport port
  let s := s.noteSink key port t
  if t.val.kind == .mark then
    (if p.sealed then s else s.onPort key port fun x => { x with marked := true }, [])
  else if p.sealed then (s, s.portCount key port t.time (-1))
  else if (p.active.iloc port).isSome && t.time < ip.passed then
    (match p.region with
      | some r => s.unrecoverable r key .timeorder 0 0
      | none => s, s.portCount key port t.time (-1))
  else (s.onPort key port (·.take (p.active.coalesces port) (p.active.launchCause port ip) t s.cycle), [])

/-- Count changes of a PE's arrivals go to its bay's count unit. -/
def State.arriveCount (s : State) (key : Nat) (stamp : Nat) (x : State × List CountChange) : State :=
  match (s.pe key).region with
  | some r => x.1.emitCounts (bayOf key) (s.region r).job r x.2 stamp
  | none => x.1

/-! ## TOKEN_HOP (08 R119, R120) -/

/-- The bytes of a token in a mailbox (08 R126). -/
def Token.bytes (t : Token) : Nat := if t.val.wide then 64 else 8

/-- The key of a circuit's queue in a mailbox: its region and tag. -/
def mailKey (region tag : Nat) : Nat := 4096 * region + tag

/-- The bytes that the queue of a circuit in a mailbox holds (08 R126). -/
def State.mailBytes (s : State) (slice queue : Nat) : Nat :=
  (Map.get [] (s.slice slice).mailbox queue).foldl (fun n x => n + x.bytes) 0

/-- The bytes of a circuit's queue in a mailbox (08 R126). -/
def mailRoom : Nat := 128

/-- A token goes into the queue of a circuit in a mailbox. -/
def State.pushMail (s : State) (slice queue : Nat) (t : Token) : State :=
  s.onSlice slice fun c => { c with mailbox := Map.modify [] c.mailbox queue (· ++ [t]) }

/-- A branch of a circuit at a box. -/
inductive Branch where
  | local_ (port : Nat)
  | hop (h : Hop)
  deriving DecidableEq, Repr

/-- The branches of a circuit at a box. -/
def State.branches (s : State) (key tag : Nat) : List Branch :=
  let p := s.pe key
  let e := p.entry tag
  (if entryL e then [.local_ (entryPort e)] else []) ++
  (entrySides e).filterMap fun side =>
    p.region.bind fun r => ((s.region r).hop key side tag).map .hop

/-- A branch has room for a token. -/
def State.branchRoom (s : State) (key tag : Nat) (t : Token) : Branch → Bool
  | .local_ port => (s.pe key).hasRoom port t
  | .hop (.box k) => (Map.get [] (s.pe k).boxes tag).length < 2
  | .hop (.mail k _ _) => s.mailBytes k (mailKey ((s.pe key).region.getD 0) tag) + t.bytes ≤ mailRoom

/-- A token goes into the buffer of a box. -/
def State.pushBox (s : State) (key tag : Nat) (t : Token) : State :=
  s.onPe key fun p => { p with boxes := Map.modify [] p.boxes tag (· ++ [t]) }

/-- A token goes over a branch. -/
def State.overBranch (key tag : Nat) (t : Token) (s : State) : Branch → State
  | .local_ port => s.arriveCount key t.stamp (s.arrive key port t)
  | .hop (.box k) => s.pushBox k tag t
  | .hop (.mail k _ _) => s.pushMail k (mailKey ((s.pe key).region.getD 0) tag) t

/-- The head of a box's buffer moves over every branch, when every branch has room (08 R120). -/
def State.hopBox (s : State) (key tag : Nat) : Option State :=
  match Map.get [] (s.pe key).boxes tag with
  | [] => none
  | t :: ts =>
    let brs := s.branches key tag
    if brs.all (s.branchRoom key tag t) then
      some (brs.foldl (State.overBranch key tag t) (s.onPe key fun p => { p with boxes := p.boxes.set tag ts }))
    else none

/-- A token that has left an output port enters the buffer of its box. -/
def State.hopOut (s : State) (key tag : Nat) : State :=
  match Map.get [] (s.pe key).outq tag with
  | [] => s
  | t :: ts =>
    if (Map.get [] (s.pe key).boxes tag).length < 2 then
      (s.onPe key fun p => { p with outq := p.outq.set tag ts }).pushBox key tag t
    else s

/-- The tag under which the dispatcher's tokens travel to port 0 of a PE (17 R269). -/
def threadTag : Nat := 4098

/-- A token of the control thread or of the dispatcher reaches its port (17 R269; 18 R282). -/
def State.hopDirect (s : State) (key tag port : Nat) : State :=
  match Map.get [] (s.pe key).outq tag with
  | [] => s
  | t :: ts =>
    if (s.pe key).hasRoom port t then
      let s := s.onPe key fun p => { p with outq := p.outq.set tag ts }
      s.arriveCount key t.stamp (s.arrive key port t)
    else s

/-- TOKEN_HOP (08 R119): a token advances one hop on its circuit. -/
def execTokenHop (pe tag : Nat) (s : State) : Host.Outcome State Fault Refusal :=
  if tag = controlTag then .next (s.hopDirect pe tag 63)
  else if tag = threadTag then .next (s.hopDirect pe tag 0)
  else if tag = dispatchTag then .next s
  else if 4200 ≤ tag ∧ tag < 4264 then .next (s.hopDirect pe tag (tag - 4200))
  else
    match s.hopBox pe tag with
    | some t => .next t
    | none => .next (s.hopOut pe tag)

/-! ## Mailboxes (04 R61; 08 R126; 24 R361) -/

/-- The number under which the mailbox queues of a saved context stand: the mailboxes keep what its circuits had sent. Log
entry 63 (DEDUCED). -/
def savedMail (ctx : Nat) : Nat := 100000 + ctx

/-- The section that a mailbox queue belongs to: its region's, or a saved one. -/
def State.mailRegion (s : State) (n : Nat) : Region :=
  if n < 100000 then s.region n
  else
    match s.saves.find (n - 100000) with
    | some c => c.region
    | none => Region.blank

/-- The pre-emption groups that the nodes of a region belong to (17 Table 17-3). -/
def State.domainGroups (s : State) (rid : Nat) : List Nat :=
  let r := s.region rid
  (((r.info.nodes ++ r.nextInfo.nodes).flatMap NodeInfo.groups).eraseDups).filter fun g => bitAt (s.groupEntry r.job g) 62

/-- The pre-emption domain of a region: the region, and every region of its job that holds a member of one of its pre-emption
groups (24 R361). -/
def State.domainOf (s : State) (rid : Nat) : List Nat :=
  let job := (s.region rid).job
  let rs := ((s.regions.filter fun e => e.2.live && !e.2.released && e.2.job == job && e.2.preempt != .saved).map fun e =>
    (e.1, s.domainGroups e.1))
  let edges := rs.flatMap fun a => (rs.filter fun b => a.1 != b.1 && a.2.any b.2.contains).map fun b => (a.1, b.1)
  growSet edges rs.length [rid]

/-- A saved context of a job holds a PE's place and waits for its restore. -/
def State.away (s : State) (job key : Nat) : Bool :=
  s.saves.any fun c => c.2.live && !c.2.lost && c.2.job == job && c.2.region.rect.has key

/-- What becomes of the oldest token of a mailbox queue. -/
inductive MailWay where
  | held
  | absorbed
  | passed
  deriving DecidableEq, Repr

/-- A mailbox queue that feeds a domain from outside holds its tokens until the restore, and a MARK that leaves a domain is
absorbed (24 R361). Log entry 63 (DEDUCED). -/
def State.mailWay (s : State) (from_ : Nat) (m : MailEdge) (t : Token) : MailWay :=
  let job := (s.mailRegion from_).job
  let inside := match (s.pe m.toPe).region with
    | some d => from_ < 100000 && (s.region from_).preempt != .none && (s.domainOf from_).contains d
    | none => false
  if t.val.kind == .mark then (if inside then .passed else .absorbed)
  else if s.away job m.toPe then .held
  else
    match (s.pe m.toPe).region with
    | some d => if (s.region d).preempt == .none || inside then .passed else .held
    | none => .held

/-- The nodes at which a token of a mailbox edge arrives: the ends of its circuit beyond the seam. -/
def State.mailEnds (s : State) (m : MailEdge) : List (Nat × Nat) := s.ends m.toPe m.tag

/-- Nodes that a damaged token was bound for take LINKUNCORR (08 R132; 24 R360). -/
def State.linkFault (s : State) (ks : List Nat) : State :=
  ks.eraseDups.foldl (fun s k =>
    match (s.pe k).region with
    | some r => if (s.pe k).sealed then s else s.unrecoverable r k .linkuncorr 0 0
    | none => s) s

/-- The oldest token of a mailbox queue is damaged in the buffer (04 R70): it is lost, and the nodes that it was bound for take the
fault of a damaged circuit (08 R132). Log entry 99 (DEDUCED). -/
def State.mailLost (s : State) (m : MailEdge) (t : Token) : State :=
  let cs : List CountChange := if t.val.kind == Kind.mark then [] else m.locs.map fun l => ⟨l, t.time, -1⟩
  (s.arriveCount m.toPe t.stamp (s, cs)).linkFault ((s.mailEnds m).map Prod.fst)

/-- MAILBOX_FORWARD (04 R61; 08 R126; 24 R361): a mailbox passes the oldest token of a circuit over the seam, when the next
buffer has room: the box on the other die, or, on a circuit between diagonal dies, the mailbox on its second seam. An error in the
buffer is corrected and counted, or loses the token (04 R70). -/
def execMailboxForward (slice tag : Nat) (s : State) : Host.Outcome State Fault Refusal :=
  match Map.get [] (s.slice slice).mailbox tag,
      (s.mailRegion (tag / 4096)).mail.find? fun m => (m.slice == slice || m.second == some slice) && m.tag == tag % 4096 with
  | t :: ts, some m =>
    let popped := fun (s : State) => s.onSlice slice fun c => { c with mailbox := c.mailbox.set tag ts, mailErr := c.mailErr.drop tag }
    match s.mailWay (tag / 4096) m t with
    | .held => .next s
    | .absorbed => .next (popped s)
    | .passed =>
      if Map.get .clean (s.slice slice).mailErr tag == SoftError.uncorrectable then .next ((popped s).mailLost m t)
      else
        let s := if Map.get .clean (s.slice slice).mailErr tag == SoftError.corrected then
            s.onSlice slice fun c => { c.countSram 1 with mailErr := c.mailErr.drop tag }
          else s
        match (if m.slice == slice then m.second else none) with
        | some k => if s.mailBytes k tag + t.bytes ≤ mailRoom then .next ((popped s).pushMail k tag t) else .next s
        | none =>
          if (Map.get [] (s.pe m.toPe).boxes m.tag).length < 2 && entryV ((s.pe m.toPe).entry m.tag) then
            .next ((popped s).pushBox m.toPe m.tag t)
          else .next s
  | _, _ => .next s

/-! ## Soft errors (08 R132; 24 R360) -/

/-- Race data stands in this tag's place: a flit that comes to a PE over the Race. -/
def raceTag : Nat := 5000

/-- CIRCUIT_UNCORR (08 R132): an uncorrectable error on a circuit or on the Race is an unrecoverable fault of the node that the
token or the Race data was bound for; LINKUNCORR is its code (24 R360). A Race flit is bound for the PE that it comes to, while that has
a collective operation or a march under way. -/
def execCircuitUncorr (pe tag : Nat) (s : State) : Host.Outcome State Fault Refusal :=
  if tag = raceTag then
    (if (s.pe pe).lops.isEmpty && (s.pe pe).march.isEmpty && !(s.pe pe).stepRun.live then .next s else .next (s.linkFault [pe]))
  else
    match Map.get [] (s.pe pe).boxes tag with
    | [] => .next s
    | t :: ts =>
      let s1 := s.onPe pe fun p => { p with boxes := p.boxes.set tag ts }
      let cs := if t.val.kind == .mark then [] else s.branchCounts pe tag t.time (-1)
      .next ((s1.arriveCount pe t.stamp (s1, cs)).linkFault ((s.ends pe tag).map Prod.fst))

/-- SOFTERR (24 R360): an uncorrectable error in the storage of a PE is an unrecoverable fault of its node. Log entry 83
(DESIGN CHOICE). -/
def execSofterr (pe : Nat) (s : State) : Host.Outcome State Fault Refusal :=
  match (s.pe pe).region with
  | some r =>
    if (s.pe pe).active.node.isSome && !(s.pe pe).sealed then .next (s.unrecoverable r pe .softerr 0 0) else .next s
  | none => .next s

end Sys2Proof.Machine
end

