-- ==== Sys2Proof/Machine/CopyEv.lean ====
section
/-! DEFINITION. CopyEv: the steps of the copy engines: tiles (06 R88 to R94, R98), notices, and poisoning (06 R100, R101). -/

namespace Sys2Proof.Machine

/-! ## The elements of a tile (06 R88, R89) -/

/-- The digits of a number, the first fastest, with the counts of a list. -/
def mixedDigits : List Nat → Nat → List Nat
  | [], _ => []
  | r :: rs, n => n % r :: mixedDigits rs (n / r)

/-- The coordinates of an element of a tile: STARTk + ik × (BOXk + 1) + jk. -/
def Desc.coords (d : Desc) (tile elem : Nat) : List Int :=
  let i := mixedDigits d.tiles tile
  let j := mixedDigits d.box elem
  (List.range 5).map fun k => d.start.getD k 0 + (i.getD k 0 : Int) * (d.box.getD k 1 : Int) + (j.getD k 0 : Int)

/-- Every coordinate lies inside the extents. -/
def Desc.inside (d : Desc) (cs : List Int) : Bool :=
  (List.range 5).all fun k => decide (0 ≤ cs.getD k 0) && decide (cs.getD k 0 < (d.extent.getD k 0 : Int))

/-- A number lies in the range of 64-bit two's complement. -/
def fits64 (a : Int) : Bool := -(2 ^ 63) ≤ a && a < 2 ^ 63

/-- The address of an element, checked step by step (06 R90). -/
def Desc.sumFrom (d : Desc) (cs : List Int) : List Nat → Int → Option Int
  | [], a => if fits64 (a + 2 ^ d.esz - 1) then some a else none
  | k :: ks, a =>
    let p := cs.getD k 0 * d.stride.getD k 0
    if fits64 p && fits64 (a + p) then d.sumFrom cs ks (a + p) else none

/-- The address of an element, none where R90 fails. -/
def Desc.address (d : Desc) (cs : List Int) : Option Int := d.sumFrom cs (List.range d.ndim) d.base.toInt

/-- The elements of a tile: the byte offset in the slot, and the coordinates. -/
def Desc.elems (d : Desc) (tile : Nat) : List (Nat × List Int) :=
  (List.range (prodNat d.box)).map fun e => (e * 2 ^ d.esz, d.coords tile e)

/-- The elements that make an access, with their addresses; none where R90 fails for one of them. -/
def Desc.accesses (d : Desc) (tile : Nat) : Option (List (Nat × Int)) :=
  ((d.elems tile).filter fun e => d.inside e.2).foldr (fun e l =>
    match d.address e.2, l with
    | some a, some l => some ((e.1, a) :: l)
    | _, _ => none) (some [])

/-- The byte offsets of the elements that take PAD. -/
def Desc.padded (d : Desc) (tile : Nat) : List Nat := ((d.elems tile).filter fun e => !d.inside e.2).map Prod.fst

/-- The bytes of an element of padding (06 Table 6-1). -/
def Desc.padBytes (d : Desc) : List Byte := (leBytes 8 d.pad.toNat ++ leBytes 8 d.pad.toNat).take (2 ^ d.esz)

/-- A piece of an element within one line: the offset in the slot, the address and the bytes (06 R89). -/
structure Piece where
  off  : Nat
  va   : Int
  n    : Nat
  deriving DecidableEq, Repr

/-- The pieces of an access. -/
def piecesOf (off : Nat) (va : Int) (n : Nat) : List Piece :=
  let k := (64 - va % 64).toNat
  if n ≤ k then [⟨off, va, n⟩] else [⟨off, va, k⟩, ⟨off + k, va + k, n - k⟩]

/-! ## Translation (06 R89; 05 R85) -/

/-- The first byte of the page of an address. -/
def pageStart (va : Int) : W64 := BitVec.ofInt 64 (va - va % 65536)

/-- The root of translation of a stream: its region's, or the job's for a copy of the kernel graph (17 R259). -/
def State.streamRoot (s : State) (st : Stream) : W64 :=
  if st.pair.isSome then (s.job st.job).xroot else (s.region st.region).xroot

/-- Translate the pages of a tile in order. -/
def State.tilePages (bay n : Nat) (st : Stream) : State → List W64 → State × Option (Except XlCode (Map Nat))
  | s, [] => (s, some (.ok []))
  | s, va :: vas =>
    match s.fetchAddr (.stream bay n) (.engine bay) st.region st.job (s.streamRoot st) va (!st.inbound) with
    | (s, none) => (s, none)
    | (s, some (.error c)) => (s, some (.error c))
    | (s, some (.ok a)) =>
      match State.tilePages bay n st s vas with
      | (s, some (.ok m)) => (s, some (.ok (m.set va.toNat a)))
      | r => r

/-- The physical address of a piece. -/
def Piece.phys (p : Piece) (m : Map Nat) : Nat := Map.get 0 m (pageStart p.va).toNat + (p.va % 65536).toNat

/-! ## Slots and local memory -/

/-- The slot of a branch that a stream's tile uses: one of its own, or WR of the handle. -/
def State.tileSlot (s : State) (own : List Nat) (i : Nat) (b : Nat × Nat) : Nat := own.getD i (s.handle b.1 b.2).wr

/-- Record a failure, which COPY_POISON reports (06 R100); nothing further is written (06 R101). -/
def State.failStream (s : State) (bay n fcode tile : Nat) : State :=
  match (s.bay bay).streams.find n with
  | none => s
  | some st => if st.bad.isSome then s else (s.callBack bay n).onStream bay n fun x => { x with bad := some (fcode, tile) }

/-- The pages of the slots of a tile at every branch are there; else they are claimed, or a refill has failed and the stream with it:
MEMERR with the slice's error code (07 R107; log entry 104 (DEDUCED)). -/
def State.slotsReady (s : State) (bay n : Nat) (st : Stream) (own : List Nat) (tile : Nat) : State × Bool :=
  st.handles.zipIdx.foldl (fun (x : State × Bool) b =>
    let h := x.1.handle b.1.1 b.1.2
    match x.1.seekPages st.job b.1.1 (.stream bay n) (pagesOf (h.slotAddr (x.1.tileSlot own b.2 b.1)) h.slotb) with
    | (s, .ok ok) => (s, x.2 && ok)
    | (s, .error c) => (s.failStream bay n (0x10 + c) tile, false)) (s, true)

/-- An element of a list replaced, the list made long enough. -/
def listSet (l : List Nat) (i v : Nat) : List Nat := (l ++ List.replicate (i + 1 - l.length) 0).set i v

/-- Write bytes of a tile to the slot of every branch, as engine writes (06 Table 6-3; 07 Table 7-3). -/
def State.fillSlots (s : State) (st : Stream) (slots : List Nat) (off : Nat) (bs : List Byte) : State :=
  (List.range st.handles.length).foldl (fun s i =>
    let b := st.handles.getD i (0, 0)
    let h := s.handle b.1 b.2
    s.onPe b.1 (·.engineWrite (h.slotAddr (slots.getD i 0) + off) bs)) s

/-- Bytes in a list replaced. -/
def spliceBytes (l : List Byte) (off : Nat) (bs : List Byte) : List Byte := l.take off ++ bs ++ l.drop (off + bs.length)

/-- Bytes of an inbound tile land: in the slots of its branches, or in the tile that the engine stages. -/
def State.putTile (s : State) (bay n : Nat) (st : Stream) (slots : List Nat) (off : Nat) (bs : List Byte) : State :=
  if st.pair.isSome then
    s.onStream bay n fun x => { x with pair := x.pair.map fun p => { p with stage := spliceBytes p.stage off bs } }
  else s.fillSlots st slots off bs

/-! ## Starting a tile -/

/-- What stands in the way of a stream's tile: an overflow, or a byte outside the endpoint's range (06 R90, R98). -/
def State.tileFault (s : State) (st : Stream) (tile : Nat) : Option Nat :=
  match st.desc.accesses tile with
  | none => some 0x20
  | some l =>
    let ext := ((s.job st.job).endpts.find st.desc.epidx).getD 0
    if st.desc.ep && l.any fun e => decide (e.2 < 0) || decide ((ext : Int) < e.2 + 2 ^ st.desc.esz) then some 0x22 else none

/-- The pieces of a tile. -/
def Desc.pieces (d : Desc) (tile : Nat) : List Piece :=
  ((d.accesses tile).getD []).flatMap fun e => piecesOf e.1 e.2 (2 ^ d.esz)

/-- A piece joins the run before it, when it follows it in the slot and in its line. -/
def joinRuns : List (List Piece) → Piece → List (List Piece)
  | r :: rs, q =>
    match r with
    | p :: _ => if q.off = p.off + p.n ∧ q.va = p.va + p.n ∧ q.va / 64 = p.va / 64 then (q :: r) :: rs else [q] :: r :: rs
    | [] => [q] :: rs
  | [], q => [[q]]

/-- The pieces of an outbound tile as it writes them: a run that makes up a whole line is one access (02 R30). -/
def writeRuns (ps : List Piece) : List Piece :=
  ((ps.foldl joinRuns []).reverse.map fun r =>
    match r.reverse with
    | p :: q => if p.va % 64 = 0 ∧ ((p :: q).map (·.n)).sum = 64 then [⟨p.off, p.va, 64⟩] else p :: q
    | [] => []).flatten

/-- The forked copy may begin: the accesses of the commit that opened it, and of those before it, have returned (06 R99; 16
R254). -/
def State.mayBegin (s : State) (st : Stream) : Bool := st.started || s.portQuiet st.after st.upto

/-- The request of one piece; a whole line is written granule by granule (11 R183; 16 R255). -/
def pieceReq (bay : Nat) (st : Stream) (tile : Nat) (m : Map Nat) (p : Piece) (data : W512) : Req :=
  { Req.blank with op := if st.inbound then .load else if p.n = 64 then .storeV else .store, from_ := engineRequester bay, addr := p.phys m, n := p.n, data := data,
                   job := BitVec.ofNat 16 st.job, cls := 2, pe := peOf (bay / 64) (8 * (bay % 8)) (8 * (bay / 8 % 8)),
                   origin := .copy tile p.off }

/-- The requests of a tile enter the stream's port. -/
def State.sendTile (bay n : Nat) : State → List Req → State
  | s, [] => s
  | s, r :: rs =>
    State.sendTile bay n (({ s with nextId := s.nextId + 1 }).onStream bay n fun st =>
      { st with port := st.port.push { r with rid := s.nextId } }) rs

/-- Send what the port of a stream may send. -/
def State.pumpStream (s : State) (bay n : Nat) : State :=
  match (s.bay bay).streams.find n with
  | none => s
  | some st => let x := s.pumpPort st.port; x.1.onStream bay n fun st => { st with port := x.2 }

/-- The pieces of a stream's tile as accesses. -/
def Stream.pieces (st : Stream) (tile : Nat) : List Piece :=
  let ps := st.desc.pieces tile
  if st.inbound then ps else writeRuns ps

/-- Each branch handle takes its slot WR for a tile. -/
def State.takeSlots (s : State) (st : Stream) (x : SlotState) : State :=
  s.onHandles st.handles fun h => { h.setSlot h.wr x with wr := h.after h.wr }

/-- The slots WR of the branches. -/
def State.nextSlots (s : State) (st : Stream) : List Nat := st.handles.map fun b => (s.handle b.1 b.2).wr

/-- The full/empty bits of a slot are cleared (06 Table 6-3). -/
def Pe.clearBits (p : Pe) (a n : Nat) : Pe := (pagesOf a n).foldl Pe.dirty ((gransOf a n).foldl (fun p g => p.setFull g false) p)

/-- The engine clears the full/empty bits of an inbound tile's slots, and writes the padding. -/
def State.openSlots (s : State) (bay n : Nat) (st : Stream) (slots : List Nat) (tile : Nat) : State :=
  let s := st.handles.zipIdx.foldl (fun s b =>
    let h := s.handle b.1.1 b.1.2
    s.onPe b.1.1 (·.clearBits (h.slotAddr (slots.getD b.2 0)) h.slotb)) s
  (st.desc.padded tile).foldl (fun s o => s.putTile bay n st slots o st.desc.padBytes) s

/-- The slots that a tile had before a marker sent it back are taken again (06 R102). -/
def State.retakeSlots (s : State) (st : Stream) (slots : List Nat) : State :=
  st.handles.zipIdx.foldl (fun s b => s.onHandle b.1.1 b.1.2 fun h => h.setSlot (slots.getD b.2 0) .filling) s

/-- A transfer of a tile to or from a host endpoint leaves (06 R98). -/
def State.sendTransfer (s : State) (bay n : Nat) (st : Stream) (tile : Nat) : State :=
  { s with nextId := s.nextId + 1,
           transfers := s.transfers ++ [⟨s.nextId, st.job, st.issuer, st.region, .tile bay n tile, st.port.time⟩] }

/-- A tile begins: it joins the tiles in flight, and its accesses or its transfer leave. A replay pass sends none to the host:
an outbound tile is discarded (26 Table 26-4). -/
def State.beginTile (s : State) (bay n : Nat) (st : Stream) (tile : Nat) (slots : List Nat) (reqs : List Req) : State :=
  let replay := (s.job st.job).rr == 2
  let left := if st.desc.ep then (if replay && !st.inbound then 0 else 1) else reqs.length
  let s := s.onStream bay n fun x =>
    { x with started := true, tiles := x.tiles ++ [⟨tile, slots, left, x.port.pts⟩] }
  if st.desc.ep then (if replay then s else s.sendTransfer bay n st tile) else (s.sendTile bay n reqs).pumpStream bay n

/-- The pages of a tile, translated; or the stream holds, or fails (06 R89; 05 R85). -/
def State.translateTile (s : State) (bay n : Nat) (st : Stream) (tile : Nat) : State × Option (Map Nat) :=
  let ps := st.desc.pieces tile
  if st.desc.ep then (s, some [])
  else
    match ps.find? fun p => !exactCanonical p.va with
    | some _ => (s.failStream bay n 0x03 tile, none)
    | none =>
      match s.tilePages bay n st ((ps.map fun p => pageStart p.va).eraseDups) with
      | (s, none) => (s, none)
      | (s, some (.error c)) => (s.failStream bay n c.num tile, none)
      | (s, some (.ok m)) => (s, some m)

/-- A stream can go on: it runs, its commit's writes are acknowledged, and no marker has reached its engine. -/
def State.canStart (s : State) (bay : Nat) (st : Stream) : Bool :=
  st.live && !st.stopped && st.bad.isNone && s.mayBegin st && (st.pair.isSome || !(s.bay bay).cut)

/-- The next tile of an inbound stream: one that a marker has sent back, or the next in traversal order (06 R94, R102). -/
def Stream.nextTile (st : Stream) : Option Nat :=
  match st.again with
  | a :: _ => some a.1
  | [] => if st.next < st.desc.tileCount then some st.next else none

/-- An inbound engine starts a tile in its slots (06 R94). -/
def State.startInbound (s : State) (bay n : Nat) (st : Stream) (tile : Nat) (m : Map Nat) : State :=
  let slots := match st.again with
    | a :: _ => a.2
    | [] => s.nextSlots st
  let reqs := (st.pieces tile).map fun p => pieceReq bay st tile m p 0
  let s := s.openSlots bay n st slots tile
  let s := if st.again.isEmpty then s.takeSlots st .filling else s.retakeSlots st slots
  let s := s.onStream bay n fun x =>
    { x with credits := x.credits.map (· - 1), again := x.again.drop 1, next := if st.again.isEmpty then st.next + 1 else st.next }
  s.beginTile bay n st tile slots reqs

/-- The bytes of a piece of the staged tile. -/
def CopyPair.data (c : CopyPair) (p : Piece) : W512 := BitVec.ofNat 512 (leNat ((c.stage.drop p.off).take p.n))

/-- The copy of a kernel-graph entry goes on: it reads a tile into the engine, or writes the staged one (21 Table 21-3). -/
def State.startPair (s : State) (bay n : Nat) (st : Stream) (c : CopyPair) (tile : Nat) (m : Map Nat) : State :=
  let reqs := (st.pieces tile).map fun p => pieceReq bay st tile m p (c.data p)
  let s := if st.inbound then
      (s.onStream bay n fun x => { x with pair := some { c with stage := List.replicate st.desc.tileBytes 0 } }).openSlots bay n st
        [] tile
    else s
  s.beginTile bay n st tile [] reqs

/-- A stream's next tile may start: that of a graph copy once the other half has ended; else that of an inbound stream which holds a
credit and a free slot at every branch, and, when it is closing, only one that a marker has sent back (06 R94, R96, R97, R102). -/
def State.tileFree (s : State) (st : Stream) : Bool :=
  if st.pair.isSome then st.tiles.isEmpty
  else
    st.inbound && (!st.closing || !st.again.isEmpty) && st.credits.all (0 < ·) &&
    (!st.again.isEmpty || st.handles.all fun b => let h := s.handle b.1 b.2; h.slotAt h.wr == .free)

/-- The slots that the next tile of a stream had before a marker sent it back. -/
def Stream.ownSlots (st : Stream) : List Nat :=
  match st.again with
  | a :: _ => a.2
  | [] => []

/-- COPY_TILE_START (06 R94): an inbound engine that holds a credit starts the next tile in traversal order; the copy of a
kernel-graph entry starts its next half. -/
def execCopyTileStart (bay stream : Nat) (s : State) : Host.Outcome State Fault Refusal :=
  match (s.bay bay).streams.find stream with
  | none => .next s
  | some st =>
    match st.nextTile with
    | none => .next s
    | some tile =>
      if !s.canStart bay st || !s.tileFree st then .next s
      else
        match s.tileFault st tile with
        | some c => .next (s.failStream bay stream c tile)
        | none =>
          match s.slotsReady bay stream st st.ownSlots tile with
          | (s, false) => .next s
          | (s, true) =>
            match s.translateTile bay stream st tile with
            | (s, none) => .next s
            | (s, some m) =>
              match st.pair with
              | some c => .next (s.startPair bay stream st c tile m)
              | none => .next (s.startInbound bay stream st tile m)

/-- FREE_NOTICE (06 R94): a free notice adds a credit for its branch. -/
def execFreeNotice (bay stream : Nat) (s : State) : Host.Outcome State Fault Refusal :=
  match (s.bay bay).streams.find stream with
  | none => .next s
  | some st =>
    match st.notices with
    | [] => .next s
    | b :: bs =>
      if st.inbound then
        .next (s.onStream bay stream fun x => { x with notices := bs, credits := x.credits.set b (x.credits.getD b 0 + 1) })
      else .next s

/-- The bytes of an outbound tile's pieces, read from its slot. A granule that cannot be corrected fails the stream: MEMERR with UNCORR
(07 R112; log entry 104 (DEDUCED)). -/
def State.slotData (s : State) (pe a : Nat) (p : Piece) : W512 := BitVec.ofNat 512 ((s.pe pe).lmem.readNat (a + p.off) p.n)

/-- FULL_NOTICE (06 R92, Table 6-3): a full notice reaches the engine, which takes slot WR and begins the tile's writes. -/
def execFullNotice (bay stream : Nat) (s : State) : Host.Outcome State Fault Refusal :=
  match (s.bay bay).streams.find stream with
  | none => .next s
  | some st =>
    match st.notices, st.handles with
    | _ :: ns, (pe, h) :: _ =>
      let hd := s.handle pe h
      if st.inbound || !s.canStart bay st || st.desc.tileCount ≤ st.next || hd.slotAt hd.wr != .full then .next s
      else
        match s.tileFault st st.next with
        | some c => .next (s.failStream bay stream c st.next)
        | none =>
          match s.slotsReady bay stream st [] st.next with
          | (s, false) => .next s
          | (s, true) =>
            let a := hd.slotAddr hd.wr
            if ((s.pe pe).badGran a st.desc.tileBytes).isSome then
              .next (s.failStream bay stream (0x10 + ErrCode.uncorr.num) st.next)
            else
            match s.translateTile bay stream st st.next with
            | (s, none) => .next s
            | (s, some m) =>
              let slots := s.nextSlots st
              let s := s.correct pe a st.desc.tileBytes
              let reqs := (st.pieces st.next).map fun p => pieceReq bay st st.next m p (s.slotData pe a p)
              let s := (s.takeSlots st .draining).onStream bay stream fun x =>
                { x with notices := ns, next := st.next + 1 }
              .next (s.beginTile bay stream st st.next slots reqs)
    | _, _ => .next s

/-! ## Completing a tile -/

/-- A reply reaches a copy stream: the bytes of an inbound tile are engine writes, and an error is a failure of the tile
(06 R92, R100, R101). -/
def State.copyReply (s : State) (bay n : Nat) (rep : Reply) : State :=
  match (s.bay bay).streams.find n, rep.req.origin with
  | some st, .copy tile off =>
    if st.stopped then s
    else
      match rep.err with
      | some e => s.failStream bay n (0x10 + e.num) tile
      | none =>
        let slots := ((st.tiles.find? fun t => t.idx == tile).map (·.slots)).getD []
        let s := if st.inbound then s.putTile bay n st slots off (leBytes rep.req.n (lowBytes rep.val rep.req.n)) else s
        s.onStream bay n fun x =>
          { x with tiles := x.tiles.map fun t =>
              if t.idx == tile then { t with left := t.left - 1, pts := max t.pts rep.wts } else t }
  | _, _ => s

/-- The bytes of the host are the elements of an inbound tile in order, those outside the extents left out. -/
def State.hostTile (s : State) (bay n : Nat) (st : Stream) (t : Tile) (host : List Byte) : State :=
  ((st.desc.accesses t.idx).getD []).zipIdx.foldl (fun s e =>
    s.putTile bay n st t.slots e.1.1 ((List.range (2 ^ st.desc.esz)).map fun i => host.getD (e.2 * 2 ^ st.desc.esz + i) 0)) s

/-- A half of a tile of a kernel-graph copy has ended: the staged tile is written next, or the next tile is read; the entry's
work has ended with the last (21 Table 21-3). -/
def State.finishHalf (s : State) (bay n : Nat) (st : Stream) (c : CopyPair) (t : Tile) : State :=
  let next := if st.inbound then t.idx else t.idx + 1
  if !st.inbound && st.desc.tileCount ≤ t.idx + 1 then
    (s.dropStream bay n).onJob st.job fun j =>
      match j.entries.find c.entry with
      | some e => { j with entries := j.entries.set c.entry { e with finished := true, stamp := max st.port.pts st.port.wHi } }
      | none => j
  else
    s.onStream bay n fun x =>
      { x with desc := c.other, inbound := !st.inbound, next := next, tiles := [],
               pair := x.pair.map fun p => { p with other := st.desc } }

/-- The slots of a tile move on: an inbound slot becomes full, an outbound slot free (06 Table 6-3). -/
def State.finishTile (s : State) (bay n : Nat) (st : Stream) (t : Tile) : State :=
  match st.pair with
  | some c => (s.tally bay (if st.inbound then 0x0C else 0x0D) 1).finishHalf bay n st c t
  | none =>
    let s := (List.range st.handles.length).foldl (fun s i =>
      let b := st.handles.getD i (0, 0)
      let k := t.slots.getD i 0
      s.onHandle b.1 b.2 fun h =>
        if st.inbound then { h.setSlot k .full with slotPts := listSet h.slotPts k t.pts } else h.setSlot k .free) s
    let s := s.onStream bay n fun x => { x with tiles := x.tiles.filter fun u => u.idx != t.idx }
    ((s.tally bay (if st.inbound then 0x0C else 0x0D) 1).progress st.region).settleStream bay n

/-- The transfer of a tile. -/
def isTileOf (bay n tile : Nat) (t : Endpoint) : Bool :=
  match t.what with
  | .tile b k i => b == bay && k == n && i == tile
  | _ => false

/-- The number of a stream in a replay log (26 R393): its maker and its first handle. -/
def State.streamWho (s : State) (st : Stream) : Nat :=
  32 * (match st.pair with
    | some c => 32768 * c.entry + 32766
    | none => s.whoIs st.region st.issuer) + st.head.2

/-- The bytes of an inbound tile from a host: the host's, logged in pass 0; or those that the log holds (26 R393, R395). -/
def State.tileBytesFor (s : State) (st : Stream) (t : Tile) (host : List Byte) : State × Option (List Byte) :=
  let who := s.streamWho st
  let j := s.job st.job
  if j.rr = 2 then
    match j.draw (who / 1048576) fun e => e.kind == 0 && e.who == who && e.seq == t.idx with
    | (j, some e) => (s.onJob st.job fun _ => j, some e.data)
    | (j, none) => (s.onJob st.job fun _ => j, none)
  else if j.rr = 1 then
    (s.onJob st.job fun j => { j with log := j.log ++ [⟨0, who, t.idx, st.port.time, host⟩] }, some host)
  else (s, some host)

/-- COPY_TILE_COMPLETE (06 R92): the last access of a tile has completed. The tile of an inbound stream from a host endpoint
completes with the bytes of the host. -/
def execCopyTileComplete (bay stream : Nat) (host : List Byte) (s : State) : Host.Outcome State Fault Refusal :=
  match (s.bay bay).streams.find stream with
  | none => .next s
  | some st =>
    if st.stopped then .next s
    else if st.desc.ep && st.inbound then
      match st.tiles with
      | [] => .next s
      | t :: _ =>
        let s : State := { s with transfers := s.transfers.filter fun x => !isTileOf bay stream t.idx x }
        match s.tileBytesFor st t host with
        | (s, none) => .next (s.failStream bay stream 0x22 t.idx)
        | (s, some bs) => .next ((s.hostTile bay stream st t bs).finishTile bay stream st t)
    else
      match st.tiles.find? fun t => t.left == 0 with
      | none => .next s
      | some t => .next (s.finishTile bay stream st t)

/-! ## Poisoning (06 R100) -/

/-- Poison every handle of a stream, queue the record, and stop the stream. -/
def State.poisonStream (s : State) (bay n fcode tile : Nat) : State :=
  match (s.bay bay).streams.find n with
  | none => s
  | some st =>
    let s := match st.pair with
      | some c => s.onJob st.job fun j =>
          match j.entries.find c.entry with
          | some e => { j with entries := j.entries.set c.entry { e.fail (BitVec.ofNat 64 fcode) with finished := true } }
          | none => j
      | none => (s.poisonHandles fcode st.handles).post st.region (copyRecord st fcode tile)
    let s : State := { s with transfers := s.transfers.filter fun x => !st.tiles.any fun t => isTileOf bay n t.idx x }
    ((s.stopStream bay n).onStream bay n fun x => { x with bad := none }).unwithholdAll (.stream bay n)

/-- COPY_POISON (06 R100): a failure that the engine has met, or SEVERED where a branch or the circuit of the stream was
sealed (06 Table 6-4). -/
def execCopyPoison (bay stream : Nat) (fcode : BitVec 7) (s : State) : Host.Outcome State Fault Refusal :=
  match (s.bay bay).streams.find stream with
  | none => .next s
  | some st =>
    if st.stopped then .next s
    else if fcode = 0x23#7 && st.handles.any fun b => (s.pe b.1).sealed then .next (s.poisonStream bay stream 0x23 st.next)
    else
      match st.bad with
      | some (c, tile) => if c = fcode.toNat then .next (s.poisonStream bay stream c tile) else .next s
      | none => .next s

end Sys2Proof.Machine
end

