-- ==== Sys2Proof/Machine/PortEv.lean ====
section
/-! DEFINITION. PortEv: what a reply does at its agent: DEVICE_REPLY (11 R178 to R184; 09 R141; 16 R250, R253, R254) and
LINKUNCORR (08 R132). -/

namespace Sys2Proof.Machine

/-- A reply that has reached the place of its agent. -/
def State.replyAt (s : State) (packet : Nat) : Option (Packet × Reply) :=
  match s.packets.find packet with
  | some p =>
    match p.body with
    | .reply r => some (p, r)
    | .req _ => none
  | none => none

/-- A request of a port leaves its flight. -/
def Port.landed (p : Port) (rid : Nat) : Port := { p with flight := p.flight.filter fun q => q.rid != rid }

/-- The request that a port still holds in flight. -/
def Port.inFlight (p : Port) (rid : Nat) : Option Req := p.flight.find? fun q => q.rid == rid

/-- An access of a port, by its number, has returned a timestamp: the commands, copies and calls that were forked after it, and have not
begun, begin with at least that (16 R251, R254). -/
def State.raiseForks (s : State) (pid rid wts : Nat) : State :=
  { s with
      pes := s.pes.mapVals fun _ p =>
        { p with matrix := { p.matrix with queue := p.matrix.queue.map fun c =>
            if c.after == pid && rid < c.id then { c with pts := max c.pts wts } else c } },
      bays := s.bays.mapVals fun _ b =>
        { b with streams := b.streams.mapVals fun _ st =>
            if st.after == pid && rid < st.upto && !st.started then { st with port := { st.port with pts := max st.port.pts wts } } else st },
      dies := s.dies.mapVals fun _ d =>
        { d with copro := { d.copro with queues := d.copro.queues.mapVals fun _ q => q.map fun c =>
            if c.after == pid && rid < c.upto then { c with pts := max c.pts wts } else c } } }

/-- A read joined an older one in a router and its lease does not reach the agent's pts: it is made again as a renew
(11 R179; 16 R253). -/
def mustRenew (p : Port) (r : Reply) : Bool := r.merged && r.err.isNone && r.rts < p.pts

/-- The port after a reply (11 Table 11-3): an error changes no pts. -/
def Port.after_ (p : Port) (r : Reply) : Port :=
  let q := p.landed r.req.rid
  if r.err.isSome then q else { q with pts := ptsAfter p.pts r, wHi := if r.done then max p.wHi r.wts else p.wHi }

/-- The timestamp of an access: the pts that it carried, or the wts of its line (16 R249). -/
def Reply.stamp (r : Reply) : Nat := max r.req.pts r.wts

/-- The registers of an access of a block that has not committed: they will be full, or failed, at the commit. -/
def State.landRegs (s : State) (r : Req) (v : Value) (rep : Reply) : State :=
  match rep.err with
  | none => s.onCur fun f => f.landAll (fun i => .landed i (v.forReg f.kind i) rep.stamp) r.regs
  | some e => s.onCur fun f => f.landAll (fun i => .lost i (memTrap e r)) r.regs

/-- The error of an access enters the region's fault queue, and its agent begins nothing further (09 R141; 11 R181). -/
def State.accessFailed (s : State) (p : Port) (a : Agent) (r : Req) (t : Trap) : State :=
  (s.stopAgent a).post p.region (s.portRecord p a t 1 r.origin.slot)

/-- The value of a load reaches its targets, or its error is a precise fault (11 R179, R181). -/
def State.landTargets (s : State) (r : Req) (rep : Reply) : State :=
  let k := r.origin.slot
  let s := s.onCur fun f => { f with turn := k }
  match rep.err with
  | some e => s.raisePrecise (memTrap e r)
  | none =>
    match s.cur.instr k with
    | some i => s.retire (toEach ((targetsOf i).filter (· != .none)) (r.value rep.val))
    | none => s

/-- The access is one of the block whose turn it is, and that block still runs. -/
def State.stillOpen (s : State) (at_ : PortAt) (r : Req) : Bool :=
  at_ == .cur && s.cur.phase == .running && match r.origin with
    | .load _ _ => true
    | _ => false

/-- A reply of a block's access. -/
def State.blockReply (s : State) (at_ : PortAt) (p : Port) (a : Agent) (r : Req) (rep : Reply) : State :=
  if s.stillOpen at_ r then
    match r.origin, r.regs with
    | .load _ _, [] => s.landTargets r rep
    | _, _ =>
      let s := s.landRegs r (r.value rep.val) rep
      match rep.err with
      | some e => s.accessFailed p a r (memTrap e r)
      | none => s
  else
    match rep.err with
    | none => State.fillRegs a (r.value rep.val) rep.stamp s r.regs
    | some e => (State.failRegs a (memTrap e r) s r.regs).accessFailed p a r (memTrap e r)

/-- The pts of a control thread goes on from block to block (16 R250). -/
def State.threadPts (s : State) (at_ : PortAt) (p : Port) : State :=
  match p.who, at_ with
  | .blk (.ctl r), .tail => s.onRegion r fun g => { g with pts := max g.pts p.pts }
  | _, _ => s

/-- The rest of a reply, once its access is known. -/
def State.landReply (s : State) (at_ : PortAt) (p : Port) (r : Req) (rep : Reply) : State :=
  let q := p.after_ rep
  let s := (s.putPort at_ q).threadPts at_ q
  let s := if rep.done then s.noteAck (s.portWriter p) r.rid rep.wts else s
  let s := if rep.err.isNone then s.raiseForks p.pid r.rid (ptsAfter r.pts rep) else s
  match p.who, at_ with
  | .copy _ _, .stream b n => (s.copyReply b n { rep with req := { r with pts := rep.req.pts } }).pumpStream b n
  | .copy _ _, _ => s
  | .blk a, _ =>
    let s := if rep.err.isNone then s.logAtomic p a r rep.val else s
    let s := s.blockReply at_ q a r rep
    match s.findPort p.pid with
    | (s, some (w, x)) => let y := s.pumpPort x; y.1.putPort w y.2
    | (s, none) => s

/-- Make a load again as a renew. -/
def State.renew (s : State) (at_ : PortAt) (p : Port) (r : Req) : State :=
  let r := { r with renew := true, pts := p.pts }
  let s := s.putPort at_ { p with flight := p.flight.map fun q => if q.rid == r.rid then r else q }
  let bay := match p.who with
    | .blk a => agentBay a
    | .copy b _ => b
  (s.sendReq r).tally bay 0x0B 1

/-- DEVICE_REPLY (11 R178): the response of a device access reaches its agent. -/
def execDeviceReply (packet : Nat) (s : State) : Host.Outcome State Fault Refusal :=
  match s.replyAt packet with
  | none => .next s
  | some (pk, rep) =>
    if pk.at_ ≠ pk.dst then .next s
    else
      match (s.dropPacket packet).findPort rep.req.port with
      | (s, none) => .next s
      | (s, some (at_, p)) =>
        match p.inFlight rep.req.rid with
        | none => .next s
        | some r => if mustRenew p rep then .next (s.renew at_ p r) else .next (s.landReply at_ p r rep)

/-! ## A broken link -/

/-- The block of a thread that waits for the access is abandoned. -/
def State.dropWaiting (s : State) (at_ : PortAt) (r : Req) : State :=
  if s.stillOpen at_ r && r.regs.isEmpty then
    { s.forget (· == s.cur.agent) with cur := { s.cur with live := false }, tails := s.tails ++ s.cur.leftPort }
  else s

/-- The requester takes LINKUNCORR: a node is contained; a thread, an engine or a unit reports through the fault queue. The
access stays applied and its registers become failed (08 R132). -/
def State.linkBroken (s : State) (at_ : PortAt) (p : Port) (r : Req) : State :=
  let t : Trap := trap .linkuncorr
  let s := s.putPort at_ (p.landed r.rid)
  match p.who with
  | .blk a =>
    let s := if s.stillOpen at_ r then s.onCur fun f => f.landAll (fun i => .lost i t) r.regs
      else State.failRegs a t s r.regs
    match agentKey a with
    | some k => if (s.pe k).sealed then s else s.unrecoverableAt p.region k .linkuncorr p.time 0 0
    | none => (s.dropWaiting at_ r).post p.region { s.portRecord p a t 2 r.origin.slot with origin := 7#4 }
  | .copy b n =>
    match at_ with
    | .stream _ _ =>
      let f := (Config.freeValue s.freeCount).toNat % 128
      let s : State := { s with freeCount := s.freeCount + 1 }
      let st := (s.bay b).streams.find n
      let h := (st.map (·.head)).getD (0, 0)
      (s.onStream b n fun x => { x with bad := none }).poisonStream b n f (match r.origin with
          | .copy tile _ => tile
          | _ => 0)
        |>.post p.region { mkRecord .linkuncorr 7 2 h.1 p.job 0 0 with pts := BitVec.ofNat 48 p.pts }
    | _ => s

/-- LINKUNCORR (08 R132): a reply has failed sixteen attempts on one hop. Log entry 36 (DESIGN CHOICE). -/
def execLinkuncorr (packet : Nat) (s : State) : Host.Outcome State Fault Refusal :=
  match s.replyAt packet with
  | none => .next s
  | some (pk, rep) =>
    if pk.resent < 15 then .next s
    else
      match (s.dropPacket packet).findPort rep.req.port with
      | (s, none) => .next s
      | (s, some (at_, p)) =>
        match p.inFlight rep.req.rid with
        | none => .next s
        | some r => .next (s.linkBroken at_ p r)

end Sys2Proof.Machine
end

