-- ==== Sys2Proof/Machine/LocalEv.lean ====
section
/-! DEFINITION. LocalEv: refills and write-backs of local pages (07 R106, R107, R111, R112), waiters for a granule
(07 R109), and the LMSTREAM engines (07 R114; 12 R198). -/

namespace Sys2Proof.Machine

/-! ## Pages and their backing -/

/-- A read of a PE's spill and refill traffic: job tag 0xFFFF, in the copy class (07 R105). -/
def backingReq (s : State) (key a n : Nat) : State × Reply := s.readNow execTag 2 (peRequester key) 0 a n

/-- Read consecutive lines of the backing area, stopping at an error. -/
def State.readBacking (key : Nat) : Nat → State → Nat → State × Except ErrCode (List Byte)
  | 0, s, _ => (s, .ok [])
  | n + 1, s, a =>
    match backingReq s key a 64 with
    | (s, rep) =>
      match rep.err with
      | some e => (s, .error e)
      | none =>
        match State.readBacking key n s (a + 64) with
        | (s, .ok bs) => (s, .ok (leBytes 64 rep.val.toNat ++ bs))
        | r => r

/-- The backing of page n and of its bitmap (07 R105). -/
def pageBacking (lback : W64) (n : Nat) : Nat := lbackPpn lback * 65536 + n * 4096
/-- The bitmap. -/
def bitmapBacking (lback : W64) (n : Nat) : Nat := lbackPpn lback * 65536 + 0x80000 + n * 32

/-- The granules that a bitmap says are full. -/
def bitmapGrans (page : Nat) (bm : Nat) : List Nat :=
  ((List.range 256).filter fun g => bm / 2 ^ g % 2 = 1).map (· + 256 * page)

/-- The bitmap of a page. -/
def Pe.bitmap (p : Pe) (page : Nat) : Nat :=
  (p.full.filter fun g => g / 256 == page).foldl (fun b g => b + 2 ^ (g % 256)) 0

/-- An entry of the forwarding table applied over a page (07 R111). -/
def Pe.applyFwd (p : Pe) (e : FwdEntry) : Pe :=
  let p := (List.range 16).foldl (fun p i =>
    if bitAt e.mask i then { p with lmem := p.lmem.write (16 * e.gran + i) (BitVec.ofNat 8 (bits e.data (8 * i + 7) (8 * i))) }
    else p) p
  let p := if e.mask == BitVec.allOnes 16 then
      { p with softBad := p.softBad.filter (· != e.gran), softCorr := p.softCorr.filter (· != e.gran) } else p
  (if e.fill then p.setFull e.gran true else p).dirty (16 * e.gran / 4096)

/-- A page that has been read from its backing: the frame holds it, and the entries of the forwarding table follow. -/
def Pe.landPage (p : Pe) (job page : Nat) (bs : List Byte) (bm : Nat) : Pe :=
  let e : LptEntry := ⟨BitVec.ofNat 30 (lbackPpn p.lback), BitVec.ofNat 16 job, BitVec.ofNat 8 (lbackGen p.lback), true, false,
    true, false⟩
  let p := { p with lmem := p.lmem.writeBytes (4096 * page) bs,
                    full := (bitmapGrans page bm).foldl (fun l g => insertNat g l) (p.full.filter fun g => g / 256 != page),
                    softBad := p.softBad.filter (fun g => g / 256 != page), softCorr := p.softCorr.filter (fun g => g / 256 != page),
                    lpt := p.lpt.set page e, refills := p.refills.filter fun r => r.page != page }
  let es := p.fwd.filter fun e => e.gran / 256 == page
  es.foldl Pe.applyFwd { p with fwd := p.fwd.filter fun e => e.gran / 256 != page }

/-- The job of the region of a PE. -/
def State.jobOfPe (s : State) (key : Nat) : Nat :=
  match (s.pe key).region with
  | some r => (s.region r).job
  | none => 0

/-- A refill has failed: those who wait for it meet the failure, each at its next try, and a later access claims the frame again; stores
that had entered the table are reported through the fault queue (07 R107; 11 R186). Log entry 15 (DESIGN CHOICE). -/
def State.refillFailed (s : State) (key page : Nat) (e : ErrCode) : State :=
  let p := s.pe key
  let lost := p.fwd.any fun x => x.gran / 256 == page
  let s := s.onPe key fun p =>
    let us := (p.refills.filter fun r => r.page == page).flatMap (·.users)
    { p with refills := p.refills.filter fun r => r.page != page,
             refillErr := if us.isEmpty then p.refillErr else p.refillErr ++ [⟨page, e.num, us⟩],
             fwd := p.fwd.filter fun x => x.gran / 256 != page }
  match p.region with
  | some r =>
    if lost then (s.onPe key fun p => { p with stopped := true }).post r
      (s.ofAgent (.node key) (mkRecord .lmrefill 1 1 key (s.region r).job (BitVec.ofNat 64 e.num) (BitVec.ofNat 64 (4096 * page))))
    else s
  | none => s

/-- PAGE_REFILL (07 R107, R111). -/
def execPageRefill (pe page : Nat) (s : State) : Host.Outcome State Fault Refusal :=
  let p := s.pe pe
  if !p.refills.any (·.page == page) || (p.lptAt page).wb then .next s
  else
    match State.readBacking pe 64 s (pageBacking p.lback page) with
    | (s, .error e) => .next (s.refillFailed pe page e)
    | (s, .ok bs) =>
      match backingReq s pe (bitmapBacking p.lback page) 32 with
      | (s, rep) =>
        match rep.err with
        | some e => .next (s.refillFailed pe page e)
        | none => .next ((s.onPe pe (·.landPage (s.jobOfPe pe) page bs rep.val.toNat)).tally (bayOf pe) 0x19 1)

/-- Write consecutive lines of the backing area; a line that holds an uncorrectable granule is poisoned (07 R112). -/
def State.writeBacking (key : Nat) : Nat → State → Nat → Nat → State
  | 0, s, _, _ => s
  | n + 1, s, a, l =>
    let p := s.pe key
    let x := (s.correct key l 64).writeNow execTag 2 (peRequester key) 0 a 64 (BitVec.ofNat 512 (p.lmem.readNat l 64))
    let bad := (gransOf l 64).any p.softBad.contains
    State.writeBacking key n (if bad then x.1.poisonLine (a / 64) else x.1) (a + 64) (l + 64)

/-- FRAME_WRITEBACK (07 R106): the content of a frame and its bitmap are written to their backing, and the frame is clean. -/
def execFrameWriteback (pe page : Nat) (s : State) : Host.Outcome State Fault Refusal :=
  let p := s.pe pe
  let e := p.lptAt page
  if !e.wb then .next s
  else
    let lb : W64 := packFields 64 [(16, 30, e.bppn.toNat)]
    let s := State.writeBacking pe 64 s (pageBacking lb page) (4096 * page)
    let x := s.writeNow execTag 2 (peRequester pe) 0 (bitmapBacking lb page) 32 (BitVec.ofNat 512 (p.bitmap page))
    .next (x.1.onPe pe fun p => { p with lpt := p.lpt.set page { p.lptAt page with wb := false, d := false } })

/-! ## FULL_EMPTY_WAKE -/

/-- The oldest waiter of a granule that its state satisfies. -/
def Pe.oldestWaiter (p : Pe) (g : Nat) : Option FeWaiter := p.waiters.find? fun w => w.gran == g && w.full == p.isFull g

/-- Run the access of a waiter again: an LDLW, or the commit of an STLF.w. -/
def State.serveWaiter (s : State) (w : FeWaiter) : Host.Outcome State Fault Refusal :=
  let s := s.focus fun f => f.live && f.agent == w.agent
  if !(s.cur.live && s.cur.agent == w.agent) then .next s
  else if w.full then
    let s := s.onCur fun f => { f with turn := w.slot }
    match s.cur.instr w.slot with
    | some (.ldlw p t l z q o) => execLdlw p t l z q o s
    | _ => .next s
  else execBlockCommit s

/-- FULL_EMPTY_WAKE (07 R109): a granule stands in the state that an access waits for, and the oldest is served. -/
def execFullEmptyWake (pe granule : Nat) (s : State) : Host.Outcome State Fault Refusal :=
  match (s.pe pe).oldestWaiter granule with
  | none => .next s
  | some w => s.serveWaiter w

/-! ## LMSTREAM (07 R114; 12 R198) -/

/-- The circuit of an output port has room for one more token. -/
def Pe.portFree (p : Pe) (port : Nat) : Bool := !p.portBusy port

/-- A token of an engine leaves an output port, with a batch of its own. -/
def State.engineSend (s : State) (key port : Nat) (v : Value) (t : LTime) (stamp : Nat) : State :=
  let x := s.sendAt key port v t stamp
  (s.arriveCount key stamp x).progressPe key

/-- An engine has met a fault of local memory: its record enters the fault queue, the node begins no further firing, and the engine goes
on once the record has been answered with a resumption (07 R107, R112, R114; 24 R373). Log entry 105 (DESIGN CHOICE). -/
def State.engineFault (s : State) (key : Nat) (t : Trap) (tm : LTime) (halt : Pe → Pe) : State :=
  let s := s.onPe key fun p => { halt p with stopped := true }
  match (s.pe key).region with
  | some r => s.post r { s.ofAgent (.node key) (mkRecord t.code 1 1 key (s.region r).job t.info0 t.info1) with time := tm }
  | none => s

/-- The source engine stops. -/
def haltSource (p : Pe) : Pe := { p with src := { p.src with hurt := true } }
/-- The sink engine stops. -/
def haltSink (p : Pe) : Pe := { p with snk := { p.snk with hurt := true } }

/-- The source engine sends the 64 bytes that stand at its address. -/
def State.sourcePiece (s : State) (pe : Nat) : State :=
  let e := (s.pe pe).src
  match (s.pe pe).badGran e.addr 64 with
  | some g => s.engineFault pe (uncorrTrap g) e.time haltSource
  | none =>
    let v := Value.wideData (BitVec.ofNat 512 ((s.pe pe).lmem.readNat e.addr 64))
    ((s.correct pe e.addr 64).onPe pe fun p => { p with src := { p.src with addr := e.addr + 64, left := e.left - 64 } }).engineSend
      pe e.port v e.time e.stamp

/-- LMSTREAM_SOURCE_TOKEN (07 R114): the source engine sends its next 64 bytes, or the EOS that ends its stream. -/
def execLmstreamSourceToken (pe : Nat) (s : State) : Host.Outcome State Fault Refusal :=
  let p := s.pe pe
  let e := p.src
  if !e.busy || e.hurt || p.marks || !p.portFree e.port then .next s
  else if e.left = 0 then
    .next (((s.onPe pe fun p => { p with src := { p.src with busy := false } }).engineSend pe e.port
      (.ofKind .eos) e.time e.stamp).followOn pe e.port)
  else
    match s.seekPages (s.jobOfPe pe) pe .source (pagesOf e.addr 64) with
    | (s, .ok true) => .next (s.sourcePiece pe)
    | (s, .ok false) => .next s
    | (s, .error c) => .next (s.engineFault pe (refillTrap c e.addr) e.time haltSource)

/-- The head of a sink's port is consumed, with a batch of its own. -/
def State.sinkConsume (s : State) (key port stamp : Nat) : State :=
  let x := State.consume key (s, ⟨[], []⟩) ⟨port, 1⟩
  ((s.arriveCount key stamp (x.1, x.2.cs)).tally (bayOf key) 0x11 1).progressPe key

/-- The tag of a token in a record: WIDE, KIND and CAP, beside its TIME (09 Table 9-13). -/
def Token.tagBits (t : Token) : Nat := t.val.tagBits

/-- The record STREAMKIND of a sink (12 Table 12-7): the PE, the port and the tag. Log entry 15 (DESIGN CHOICE). -/
def streamkindRecord (s : State) (key port : Nat) (t : Token) : TrapRecord :=
  s.ofAgent (.node key)
    (mkRecord .streamkind 1 1 key (s.jobOfPe key) (packFields 64 [(0, 15, key), (16, 6, port), (32, 5, t.tagBits)]) t.time)

/-- What the sink engine does with a token. -/
def State.sinkTake (s : State) (key : Nat) (e : SnkEngine) (t : Token) : State :=
  let stop := fun (s : State) => s.onPe key fun p => { p with snk := { p.snk with busy := false, bad := none } }
  let done := s.sinkConsume key e.port t.stamp
  match e.bad with
  | some b =>
    if t.val.kind == .eos then
      match (s.pe key).region with
      | some r => (stop done).post r (streamkindRecord s key e.port b)
      | none => stop done
    else done
  | none =>
    if t.val.kind == .eos then stop done
    else if t.val.isData && t.val.wide then
      (if e.left = 0 then done
       else done.onPe key fun p =>
        { p.engineWrite e.addr (leBytes 64 t.val.bits.toNat) with snk := { p.snk with addr := e.addr + 64, left := e.left - 64 } })
    else done.onPe key fun p => { p with snk := { p.snk with bad := some t } }

/-- LMSTREAM_SINK_TOKEN (12 R198). -/
def execLmstreamSinkToken (pe : Nat) (s : State) : Host.Outcome State Fault Refusal :=
  let e := (s.pe pe).snk
  match ((s.pe pe).inport e.port).q with
  | [] => .next s
  | t :: _ =>
    if !e.busy || e.hurt || (s.pe pe).marks || t.val.kind == .mark then .next s
    else if e.bad.isNone && e.left != 0 && t.val.isData && t.val.wide then
      match s.seekPages (s.jobOfPe pe) pe .sink (pagesOf e.addr 64) with
      | (s, .ok true) => .next (s.sinkTake pe e t)
      | (s, .ok false) => .next s
      | (s, .error c) => .next (s.engineFault pe (refillTrap c e.addr) t.time haltSink)
    else .next (s.sinkTake pe e t)

end Sys2Proof.Machine
end

