-- ==== Sys2Proof/Machine/FiringEv.lean ====
section
/-! DEFINITION. FiringEv: how blocks begin: node firings (09 R151 to R154), source firings (20 R299), AG nodes (12 R197) and
control blocks (18 R275); configurations (17 R263 to R265); coalescing ports (17 R271); and the streaming dispatcher
(17 R267 to R269). -/

namespace Sys2Proof.Machine

/-! ## Opening a block -/

/-- A block is in execution for an agent that satisfies a test. -/
def State.running (s : State) (q : Agent → Bool) : Bool := (s.cur :: s.parked).any fun f => f.live && q f.agent

/-- Give a new block the turn; the block that had it goes behind the others. -/
def State.openFrame (s : State) (f : Frame) : State :=
  { s with cur := f, parked := s.parked ++ (if s.cur.live then [s.cur] else []) }

/-- The block word of a node's or rule's trap record: the header, and the offset in the section image (24 Table 24-2). -/
def blockWord (h : Word) (off : Nat) : W64 := packFields 64 [(32, 32, h.toNat), (0, 32, off)]

/-- A block of an agent at a time, with a fresh port (16 R248). -/
def State.newFrame (s : State) (a : Agent) (kind : BlockKind) (rid pe : Nat) (h : Word) (ws : List Word) (addr : W64) (t : LTime)
    (pts : Nat) : Frame :=
  let job := (s.region rid).job
  { Frame.blank with
    live := true, agent := a, kind := kind, region := rid, job := job, pe := pe, header := h, addr := addr, words := ws,
    slots := ws.map fun _ => Slot.blank, time := t, exec := statusExe (s.statusOf a), since := s.nextId,
    port := { Port.blank with pid := s.nextId, who := .blk a, region := rid, job := job, pts := pts, time := t, addr := addr } }

/-- Open a block of a node. -/
def State.openNode (s : State) (a : Agent) (rid key : Nat) (img : List Word) (t : LTime) (pts : Nat) : State :=
  let c := (s.pe key).active
  let h := imageHeader img
  let f := s.newFrame a .node rid key h (imageSlots img) (blockWord h c.nodeOff) t pts
  { s with nextId := s.nextId + 1 }.openFrame { f with ovf := c.ovfPorts t }

/-! ## The firing rule (09 R151 to R153) -/

/-- The least head time over mandatory ports, each of which holds a head. -/
def leastHead (heads : Nat → List Token) : List Nat → Option LTime
  | [] => none
  | p :: ps =>
    match heads p with
    | [] => none
    | t :: _ =>
      match ps with
      | [] => some t.time
      | _ => (leastHead heads ps).map fun u => minTime t.time u

/-- A port yields something to a firing. -/
def Yield.ready : Yield → Bool
  | .later => false
  | _ => true

/-- The stamp that a port's yield carries. -/
def Yield.stamp : Yield → Nat
  | .got _ st _ => st
  | _ => 0

/-- What the kept and optional ports of a block yield at a time, and the mandatory ports of RECV. Port 63 is read through CTR
as by RECVO (14 R228). Log entry 48 (DEDUCED). -/
def yieldsAt (s : State) (f : Frame) (is : List Instr) (t : LTime) : List Yield :=
  (recvPorts is).map (fun p => yieldRecv t (s.heads f p)) ++
  (keptPorts is).map (fun p => yieldKept t (s.portOf f p).frontier (s.heads f p) 0) ++
  (optPorts is ++ if readsBound is then [63] else []).map (fun p => yieldOpt t (s.portOf f p).frontier (s.portOf f p).fstamp (s.heads f p))

/-- The greatest stamp of the tokens that the JOINs of a block will take (16 R250). -/
def State.joinStamp (s : State) (f : Frame) (is : List Instr) : Nat :=
  is.foldl (fun m i => match i with
    | .join pa pb mode _ => (match s.joinNow f pa.toNat pb.toNat mode with
      | some (a, b, .ok j) => max m (j.stamp a b)
      | _ => m)
    | _ => m) 0

/-- The firing of a node that is ready: its time and the stamp that it begins with (09 R151; 16 R250). A JOIN needs a head at
each of its ports, whatever their times (12 R192). Log entry 44 (DEDUCED). -/
def State.readyFiring (s : State) (f : Frame) (is : List Instr) : Option (LTime × Nat) :=
  match leastHead (s.heads f) (mandatoryPorts is) with
  | none => none
  | some t =>
    let ys := yieldsAt s f is t
    if ys.all Yield.ready then
      some (t, ys.foldl (fun m y => max m y.stamp) (s.joinStamp f is))
    else none

/-- A node may begin a firing: it is configured, and neither stopped, ended nor saved, and the lattice operations that its last
firing issued have completed (15 R234). -/
def Pe.mayFire (p : Pe) : Bool :=
  p.active.node.isSome && !p.stopped && !p.sealed && !p.finished && !p.marks && p.lops.isEmpty &&
  !(p.inports.any fun e => e.2.marked)

/-- The region of a key holds it for a section that runs. -/
def State.fireRegion (s : State) (key : Nat) : Option Nat :=
  match (s.pe key).region with
  | some r => if (s.pe key).mayFire && (s.region r).preempt != .saved then some r else none
  | none => none

/-- A frame that stands for the next firing of an agent, for reading its ports. -/
def probe (a : Agent) : Frame := { Frame.blank with agent := a }

/-- NODE_FIRING (09 R151): a node of a PE fires at the least head time over its mandatory ports. Log entry 90 (DESIGN CHOICE). -/
def execNodeFiring (pe : Nat) (s : State) : Host.Outcome State Fault Refusal :=
  match s.fireRegion pe, (s.pe pe).active.node with
  | some rid, some img =>
    let is := (s.pe pe).active.instrs
    if agBase ≤ pe || isSource is || s.running (· == .node pe) then .next s
    else
      match s.readyFiring (probe (.node pe)) is with
      | some (t, st) => .next (s.openNode (.node pe) rid pe img t (max (s.pe pe).stamp st))
      | none => .next s
  | _, _ => .next s

/-- The agent of the next firing of a node. -/
def State.nextAgent (s : State) (key : Nat) : Agent :=
  if key < agBase then .node key else .ag (key - agBase) (Map.get Ag.blank s.ags (key - agBase)).nextFire

/-- A firing of an AG node is admitted. -/
def State.enrol (s : State) (a : Agent) : State :=
  match a with
  | .ag n k => { s with ags := Map.modify Ag.blank s.ags n fun x => ⟨x.inflight ++ [k], k + 1⟩ }
  | _ => s

/-- SOURCE_FIRING (20 R299): a source node fires at the least time among its held capabilities, once port 63, if it reads it, is
ready at that time (09 R151, R154). -/
def execSourceFiring (pe : Nat) (s : State) : Host.Outcome State Fault Refusal :=
  match s.fireRegion pe, (s.pe pe).active.node, leastCap (s.pe pe).caps with
  | some rid, some img, some t =>
    if !isSource (s.pe pe).active.instrs || s.running (agentOnNode pe) then .next s
    else
      let a := s.nextAgent pe
      let ys := yieldsAt s (probe a) (s.pe pe).active.instrs t
      if ys.all Yield.ready then
        .next ((s.enrol a).openNode a rid pe img t (ys.foldl (fun m y => max m y.stamp) (s.pe pe).stamp))
      else .next s
  | _, _, _ => .next s

/-- A firing in flight has issued every instruction that reads a port. Log entry 38 (DEDUCED). -/
def Frame.portsRead (f : Frame) : Bool :=
  (List.range f.words.length).all fun k =>
    match f.instr k with
    | some (.recv _ _ _) | some (.recvk _ _ _) | some (.recvo _ _ _) | some (.join _ _ _ _) =>
      (f.slotAt k).phase == .issued
    | _ => true

/-- AG_ADMIT (12 R197): an AG node admits its next ready firing, oldest time first, up to eight in flight. Log entry 38
(DEDUCED). -/
def execAgAdmit (ag : Nat) (s : State) : Host.Outcome State Fault Refusal :=
  let key := agBase + ag
  match s.fireRegion key, (s.pe key).active.node with
  | some rid, some img =>
    let is := (s.pe key).active.instrs
    let mine := (s.cur :: s.parked).filter fun f => f.live && agentOnNode key f.agent
    if isSource is || 8 ≤ (Map.get Ag.blank s.ags ag).inflight.length || mine.any (fun f => !f.portsRead || s.lastFiring f) then
      .next s
    else
      let a := s.nextAgent key
      match s.readyFiring (probe a) is with
      | some (t, st) => .next ((s.enrol a).openNode a rid key img t (max (s.pe key).stamp st))
      | none => .next s
  | _, _ => .next s

/-! ## CONTROL_BLOCK_FETCH (18 R275) -/

/-- The time of a control block (20 R308). -/
def Region.time (r : Region) : LTime :=
  match leastCap r.caps with
  | some t => t
  | none => epochTime (r.epoch.getD 0)

/-- A record that interrupts the thread waits in the queue (24 R353, R354). -/
def Region.interrupting (r : Region) : Option TrapRecord := r.faultq.find? fun x => !recDeferred x

/-- The thread may fetch its next block. -/
def State.mayFetch (s : State) (rid : Nat) : Bool :=
  let r := s.region rid
  r.live && !r.halted && !r.brkStop && r.preempt == .none && !s.running (· == .ctl rid) &&
  (statusInh r.status || r.interrupting.isNone)

/-- The frame of a control block: it goes on with the port of the thread, whose earlier accesses may still be under way. -/
def State.controlFrame (s : State) (rid : Nat) (h : Word) (ws : List Word) : Frame :=
  let r := s.region rid
  let f := s.newFrame (.ctl rid) .control rid r.rect.home h ws r.pc r.time r.pts
  match s.tails.find? fun p => p.who == .blk (.ctl rid) with
  | some p => { f with port := { p with pts := max p.pts r.pts, time := f.port.time, addr := f.port.addr } }
  | none => f

/-- Open a control block, and forget the port that it goes on with. -/
def State.openControl (s : State) (f : Frame) : State :=
  { s with nextId := s.nextId + 1, tails := s.tails.filter fun p => p.pid != f.port.pid }.openFrame f

/-- A fault at the fetch: the block does not start (18 R275; 09 R160). -/
def State.fetchFault (s : State) (rid : Nat) (h : Word) (ws : List Word) (slot : Nat) (t : Trap) : State :=
  ((s.openControl (s.controlFrame rid h ws)).onCur fun f => { f with turn := slot }).raisePrecise t

/-- The bytes [va, va + n), read by lines. -/
def State.fetchBytes (s : State) (w : Waiter) (rid : Nat) (va : W64) (n : Nat) : Fetched (List Byte) :=
  let o := bits va 5 0
  match State.fetchLines (ceilDiv (o + n) 64) s w rid (va - BitVec.ofNat 64 o) with
  | (s, .ok bs) => (s, .ok ((bs.drop o).take n))
  | (s, .error e) => (s, .error e)

/-- Words from bytes. -/
def wordsOf (bs : List Byte) : List Word := (List.range (bs.length / 4)).map fun k => BitVec.ofNat 32 (bytesFrom bs (4 * k) 4)

/-- CONTROL_BLOCK_FETCH (18 R275): the thread fetches and checks the block at its program counter. -/
def execControlBlockFetch (region : Nat) (s : State) : Host.Outcome State Fault Refusal :=
  let pc := (s.region region).pc
  let w := Waiter.fetch region
  if !s.mayFetch region then .next s
  else if bits pc 1 0 != 0 then .next (s.fetchFault region 0 [] 0 ⟨.align, pc, 0⟩)
  else
    match s.fetchBytes w region pc 4 with
    | (s, .error none) => .next s
    | (s, .error (some t)) => .next (s.fetchFault region 0 [] 0 t)
    | (s, .ok hd) =>
      let h := (wordsOf hd).headD 0
      match s.fetchBytes w region pc (4 * (bits h 29 24 + 2)) with
      | (s, .error none) => .next s
      | (s, .error (some t)) => .next (s.fetchFault region h [] 0 t)
      | (s, .ok bs) =>
        let ws := (wordsOf bs).drop 1
        match blockFault .control h ws with
        | some f => .next (s.fetchFault region h ws f.slot (trap f.code))
        | none => .next (s.openControl (s.controlFrame region h ws))

/-! ## Configurations (17 R264, R265) -/

/-- A box or an output queue of a region holds a token of a circuit. -/
def State.trafficIn (s : State) (r : Region) : Bool :=
  r.nodes.any fun k => (s.pe k).boxes.any (fun e => !e.2.isEmpty) || (s.pe k).outq.any fun e => !e.2.isEmpty

/-- The CONF tokens of a PE wait: a completed configuration has still to be switched in, or, where the PE still runs a section that
drains, the region's traffic is ahead of them (17 R264, R265; 18 R281). -/
def State.confWaits (s : State) (pe : Nat) : Bool :=
  let p := s.pe pe
  p.pending.ended ||
  match p.region with
  | some r => (s.region r).next && p.active.node.isSome && !p.finished && s.trafficIn (s.region r)
  | none => false

/-- END has arrived: a box adds the entries of the image that it ends, when no later END is on its way (18 R423). -/
def Pe.endArrived (p : Pe) : Pe :=
  if p.confq.any fun c => match c with
      | .record w => confType w == 7
      | .tables _ _ _ _ => false then p
  else { p with switch := p.switchNext.foldl (fun m e => Map.set m e.1 e.2) p.switch }

/-- CONF_ARRIVAL (17 R264; 18 R423): a CONF token is applied to the pending configuration of its PE. -/
def execConfArrival (pe : Nat) (s : State) : Host.Outcome State Fault Refusal :=
  match (s.pe pe).confq with
  | [] => .next s
  | c :: cs =>
    let held := s.confWaits pe
    let s0 := s
    let s := s.onPe pe fun p => { p with confq := cs }
    if (s.pe pe).sealed then .next s
    else if held then .next s0
    else
      match c with
      | .tables outp locs no ro =>
        .next (s.onPe pe fun p =>
          { p with pending := { p.pending with outp := outp, locs := locs, nodeOff := no, ruleOffs := ro } })
      | .record w =>
        if badConf w then
          match (s.pe pe).region with
          | some r => .next (s.unrecoverable r pe .conffmt 0 0)
          | none => .next s
        else
          .next (s.onPe pe fun p =>
            let p := { p with pending := p.pending.record w }
            if confType w == 7 then p.endArrived else p)

/-- A register that NREG or VREG names is full (17 R265). -/
def confReg (m : Map Reg) (i : Nat) (bits_ : W512) : Map Reg := m.set i ⟨.full, bits_, false, 0, false⟩

/-- The halves of v registers that a configuration names, over what the registers hold. -/
def confVregs (m : Map Reg) (vs : Map (BitVec 256)) : Map Reg :=
  vs.foldl (fun m e =>
    let old := (Map.get Reg.blank m (e.1 / 2)).bits
    confReg m (e.1 / 2) (insertBits old (256 * (e.1 % 2)) 256 e.2.toNat)) m

/-- The tokens that reached a port before the switch are read by the new block; a port that becomes a coalescing port gathers
them (17 R265, R271). -/
def InPort.switched (ip : InPort) (was is_ : Bool) (th cycle : Nat) : InPort :=
  let ip := { ip with frontier := 0, passed := 0, fstamp := 0, key := none, bound := none }
  if is_ && !was then
    ip.q.foldl (fun p t =>
      let p := p.take true none t cycle
      if th ≤ p.batch.records.length then p.launch 1 else p) { ip with q := [], counts := [], batch := ⟨[], 0⟩ }
  else if was && !is_ then ip.batch.records.foldl (fun p t => p.push t [t.time]) { ip with batch := ⟨[], 0⟩ }
  else ip

/-- A PE switches to its pending configuration (17 R265). A source that DRAIN reached before has ended already (18 R284): `next` says
that the region's next section rides behind. -/
def Pe.switchTo (p : Pe) (next : Bool) (cycle : Nat) : Pe :=
  let c := p.pending
  let own := !next || p.confq.any fun i => i.tables?.isSome
  { p with
    active := { c with nregs := [], vregs := [] }, pending := PeConfig.blank,
    finished := own && p.drained && c.sloc.isSome, firings := 0,
    nregs := c.nregs.foldl (fun m e => confReg m e.1 (e.2.setWidth 512)) p.nregs, vregs := confVregs p.vregs c.vregs,
    inports := p.inports.mapVals fun i ip => ip.switched (p.active.coalesces i) (c.coalesces i) (c.th i) cycle }

/-- The ports of a configuration that its switch subscribes, with their locations (09 R151; 20 R301). -/
def PeConfig.subscribed (c : PeConfig) : List (Nat × Nat) :=
  ((frontierPorts c.instrs ++ (List.range 64).filter c.coalesces).eraseDups).filterMap fun p => (c.iloc p).map fun l => (p, l)

/-- The frontier that the root announces to a port: a coalescing port takes its arrival frontier (20 R301, R307). -/
def Root.frontierFor (r : Root) (l : Nat) (coal : Bool) : LTime := if coal then r.frontier (· != l) l else Map.get 0 r.front l

/-- The root drops the subscriptions and holds of a PE's old ports and takes the new ones; a frontier that has already risen
is announced at once. -/
def Root.resubscribe (r : Root) (pe : Nat) (c : PeConfig) : Root :=
  let keep := fun (x : Nat × Subscriber) => match x.2 with
    | .port k _ => k != pe
    | .bay _ => true
  let new_ := c.subscribed
  { r with
    subs := r.subs.filter keep ++ new_.map fun x => (x.2, .port pe x.1),
    holds := r.holds.filter fun (_, _, _, k, _, _) => k != pe,
    out := (r.out.filter fun a => keep (a.loc, a.to_)) ++ new_.filterMap fun x =>
      let f := r.frontierFor x.2 (c.coalesces x.1)
      let g := Map.get 0 r.front x.2
      if f == 0 && g == 0 then none else some ⟨x.2, f, g, Map.get 0 r.fstamp x.2, .port pe x.1⟩ }

/-- CONFIG_SWITCH (17 R265). -/
def execConfigSwitch (pe : Nat) (s : State) : Host.Outcome State Fault Refusal :=
  let p := s.pe pe
  match p.region with
  | none => .next s
  | some rid =>
    let job := (s.region rid).job
    if !p.pending.ended || p.sealed || p.marks || !(p.active.node.isNone || p.finished) || s.running (agentOnNode pe) then .next s
    else
      let drops := (s.root job).holdCounts pe
      let s := (s.onPe pe (·.switchTo (s.region rid).next s.cycle)).emitCounts (bayOf pe) job rid drops p.stamp
      .next (s.onJob job fun j => { j with root := j.root.resubscribe pe (s.pe pe).active })

/-! ## Coalescing ports (17 R271) -/

/-- COALESCE_LAUNCH (17 R271): the threshold is reached, or the arrival frontier has passed the oldest record. -/
def execCoalesceLaunch (pe port : Nat) (s : State) : Host.Outcome State Fault Refusal :=
  match (s.pe pe).active.launchCause port ((s.pe pe).inport port) with
  | some c => .next (s.onPort pe port (·.launch c))
  | none => .next s

/-- COALESCE_TIMEOUT (17 R271): 4,096 cycles have passed since the oldest record arrived. `State.tick` lets no such batch wait longer
(17 R273). -/
def execCoalesceTimeout (pe port : Nat) (s : State) : Host.Outcome State Fault Refusal :=
  .next (s.onPe pe (·.launchLate s.cycle port))

/-! ## The streaming dispatcher (17 R267 to R269) -/

/-- The block that the dispatcher selects (17 R268). -/
def Streamer.select (x : Streamer) : Option Nat :=
  let live := x.blocks.filter fun e => !e.2.wait.isEmpty
  match live.find? fun e => e.2.pass == 16 with
  | some e => some e.1
  | none => (live.foldl (fun (b : Option (Nat × Nat)) e =>
      match b with
      | none => some (e.1, e.2.wait.length)
      | some (k, n) => if n < e.2.wait.length then some (e.1, e.2.wait.length) else some (k, n)) none).map Prod.fst

/-- PASS after a selection, and the snapshot taken. -/
def Streamer.after (x : Streamer) (b : Nat) : Map StreamBlock :=
  x.blocks.mapVals fun k sb =>
    if k = b then { sb with wait := [], pass := 0 }
    else if sb.wait.isEmpty then sb
    else { sb with pass := min (sb.pass + 1) 16 }

/-- A NODESEG record of a block image (17 Table 17-5). -/
def nodeSegment (ws : List Word) (seg : Nat) : W512 :=
  packFields 512 ([(0, 8, 1), (8, 8, seg)] ++ (List.range 14).map fun k => (64 + 32 * k, 32, (ws.getD (14 * seg + k) 0).toNat))

/-- The CONF tokens of a block image, with the tables of the section (17 R268). -/
def Pe.streamConf (p : Pe) (next : Bool) (ws : List Word) : Pe :=
  { p with confq := p.confq ++
      (.tables (p.configFor next).outp (p.configFor next).locs 0 [] ::
        (List.range (ceilDiv ws.length 14)).map (fun k => .record (nodeSegment ws k)) ++ [.record 7]) }

/-- A token of the dispatcher on its way to port 0 of a PE, with its count. -/
def State.sendThread (s : State) (key : Nat) (v : Value) (t : LTime) (stamp : Nat) : State × List CountChange :=
  (s.onPe key fun p => { p with outq := Map.modify [] p.outq threadTag (· ++ [⟨v, t, stamp⟩]) }, s.portCount key 0 t 1)

/-- The dispatcher sends a token to port 0 of each of some PEs, in one batch. -/
def State.sendThreads (s : State) (rid : Nat) (l : List (Nat × Value)) (t : LTime) : State :=
  let r := s.region rid
  let x := l.foldl (fun (x : State × List CountChange) e =>
    let y := x.1.sendThread e.1 e.2 t r.pts
    (y.1, x.2 ++ y.2)) (s, [])
  x.1.emitCounts rid r.job rid x.2 r.pts

/-- The time of a round. -/
def Region.roundTime (r : Region) (n : Nat) : LTime := timeSet (epochTime (r.epoch.getD 0)) 1 n

/-- STREAM_BLOCK_SELECT (17 R268, R269): the dispatcher selects a block, takes its snapshot, and sends its image and its
threads. -/
def execStreamBlockSelect (region : Nat) (s : State) : Host.Outcome State Fault Refusal :=
  let r := s.region region
  let x := r.streamer
  if !r.live || !x.on || x.inRound || x.ended || r.preempt != .none then .next s
  else
    match x.select with
    | none => .next (s.onRegion region fun r => { r with streamer := { x with ended := true } })
    | some b =>
      if 2047 < x.round then
        .next ((s.onRegion region fun r => { r with streamer := { x with ended := true } }).post region
          (mkRecord .timeovf 8 1 (agentNumber (.ctl region)) r.job 0 0))
      else
        let sb := Map.get ⟨[], [], 0⟩ x.blocks b
        let pes := r.rect.pes
        let n := pes.length
        let sent := sb.wait.zipIdx.map fun e => (pes.getD (e.2 % n) 0, e.1)
        let s := pes.foldl (fun s k => s.onPe k (·.streamConf r.next sb.image)) s
        let s := s.onRegion region fun r =>
          { r with streamer := { x with blocks := x.after b, block := b, inRound := true, open_ := sb.wait } }
        .next (s.sendThreads region (sent.map fun e => (e.1, .data (BitVec.ofNat 64 e.2))) (r.roundTime x.round))

/-- Set a thread's bit in a block's bitmap. -/
def Streamer.mark (x : Streamer) (b slot : Nat) : Streamer :=
  { x with blocks := Map.modify ⟨[], [], 0⟩ x.blocks b fun sb => { sb with wait := insertNat slot sb.wait } }

/-- Every dispatched thread has reported: EOS on port 0 of every PE, and the next round (17 R269). -/
def State.endRound (s : State) (rid : Nat) : State :=
  let r := s.region rid
  if r.streamer.inRound && r.streamer.open_.isEmpty then
    (s.onRegion rid fun r => { r with streamer := { r.streamer with inRound := false, round := r.streamer.round + 1 } }).sendThreads
      rid (r.rect.pes.map fun k => (k, .ofKind .eos)) (r.roundTime r.streamer.round)
  else s

/-- STREAM_THREAD_REPORT (17 R269): a value on output port 63 names the next block of a thread. -/
def execStreamThreadReport (region pe : Nat) (s : State) : Host.Outcome State Fault Refusal :=
  match Map.get [] (s.pe pe).outq dispatchTag with
  | [] => .next s
  | t :: ts =>
    let r := s.region region
    let slot := t.time.toNat
    let s := s.onPe pe fun p => { p with outq := p.outq.set dispatchTag ts }
    let x := { r.streamer with open_ := r.streamer.open_.filter (· != slot) }
    let b := bits t.val.bits 6 0
    if (s.pe pe).region != some region || !r.streamer.on then .next s
    else if t.val.isData && b == 0x7F then .next ((s.onRegion region fun r => { r with streamer := x }).endRound region)
    else if t.val.isData && (x.blocks.find b).isSome then
      .next ((s.onRegion region fun r => { r with streamer := x.mark b slot }).endRound region)
    else
      .next (((s.onRegion region fun r => { r with streamer := x }).post region
        (s.ofAgent (.node pe) (mkRecord .sbbnext 1 1 pe r.job t.val.lo 0))).endRound region)

end Sys2Proof.Machine
end

