-- ==== Sys2Proof/Machine/GovernorEv.lean ====
section
/-! DEFINITION. GovernorEv: the count plane and the root: batches on their way (20 R300), the root's counts and frontiers
(20 R301 to R307), frontier ports (20 R311), return circuits (23 R349), announcements, and the roots of other modules
(20 R306; 26 R387). -/

namespace Sys2Proof.Machine

/-! ## COUNT_BATCH_FORWARD (20 R300) -/

/-- Two batches that a unit received one after the other, as one. -/
def CountBatch.join (a b : CountBatch) : CountBatch :=
  ⟨a.job, sumChanges (a.changes ++ b.changes), max a.stamp b.stamp, a.region, a.opens ++ b.opens⟩

/-- The batch that a unit forwards next, oldest first, and what stays. -/
def forwardOf (merge : Bool) : List CountBatch → Option (CountBatch × List CountBatch)
  | [] => none
  | [a] => some (a, [])
  | a :: b :: l => if merge && a.job == b.job then some (a.join b, l) else some (a, b :: l)

/-- A batch joins the root's queue. -/
def State.toRoot (s : State) (b : CountBatch) : State :=
  s.onJob b.job fun j => { j with root := { j.root with queue := j.root.queue ++ [b] } }

/-- COUNT_BATCH_FORWARD (20 R300): a bay's unit passes a batch to its die's aggregator, an aggregator to the root, and the
root merges two that wait. -/
def execCountBatchForward (unit : CountPlace) (mergeNext : Bool) (s : State) : Host.Outcome State Fault Refusal :=
  match unit with
  | .bay b =>
    match forwardOf mergeNext (s.bay b).batches with
    | some (x, l) =>
      .next ((s.onBay b fun y => { y with batches := l }).onDie (b / 64) fun d => { d with batches := d.batches ++ [x] })
    | none => .next s
  | .die d =>
    match forwardOf mergeNext (s.die d).batches with
    | some (x, l) => .next ((s.onDie d fun y => { y with batches := l }).toRoot x)
    | none => .next s
  | .root =>
    match s.jobs.find? fun e => 2 ≤ e.2.root.queue.length with
    | some e =>
      match forwardOf mergeNext e.2.root.queue with
      | some (x, l) => .next (s.onJob e.1 fun j => { j with root := { j.root with queue := x :: l } })
      | none => .next s
    | none => .next s

/-! ## Counts (20 R297, R301) -/

/-- Apply one change. A count of 0 is no entry. -/
def addCount : List (Nat × LTime × Int) → CountChange → List (Nat × LTime × Int)
  | [], c => if c.delta = 0 then [] else [(c.loc, c.time, c.delta)]
  | d :: ds, c =>
    if d.1 = c.loc ∧ d.2.1 = c.time then
      (if d.2.2 + c.delta = 0 then ds else (d.1, d.2.1, d.2.2 + c.delta) :: ds)
    else d :: addCount ds c

/-- The root's counts after some changes. -/
def Root.count (r : Root) (cs : List CountChange) : Root := { r with counts := cs.foldl addCount r.counts }

/-- A holder has opened an epoch at a source or control location (20 R298). -/
def Horizon.open_ (h : Horizon) (holder e : Nat) : Horizon :=
  { h with opened := h.opened.set holder (max e (Map.get 0 h.opened holder)) }

/-- The horizons after the epochs that a batch opens. -/
def Root.openAll (r : Root) (os : List (Nat × Nat × Nat)) : Root :=
  { r with horizons := r.horizons.map fun h => os.foldl (fun h o => if o.1 = h.loc then h.open_ o.2.1 o.2.2 else h) h }

/-- The locations whose frontier has risen, with the new one (20 R301). -/
def Root.risen (r : Root) : List (Nat × LTime) :=
  (List.range r.nloc).filterMap fun l =>
    let f := r.frontier (fun _ => true) l
    if Map.get 0 r.front l < f then some (l, f) else none

/-- The root takes the new frontiers. -/
def Root.raise (r : Root) (up : List (Nat × LTime)) : Root :=
  { r with front := up.foldl (fun m e => Map.set m e.1 e.2) r.front,
           fstamp := up.foldl (fun m e => Map.set m e.1 r.stamp) r.fstamp }

/-! ## Frontier ports (20 R311) -/

/-- The tag under which the token of a frontier port travels from the root. -/
def frontierTag (port : Nat) : Nat := 4200 + port

/-- What a rise does to a hold: the hold, the changes, and the token with its PE and port. -/
structure HoldMove where
  hold : Nat × Nat × Nat × Nat × Nat × LTime
  cs   : List CountChange
  out  : List (Nat × Nat × Token)

/-- A rise at the watched location moves a hold (20 R311). -/
def holdMoved (up : List (Nat × LTime)) (stamp : Nat) (h : Nat × Nat × Nat × Nat × Nat × LTime) : HoldMove :=
  let (l, own, d, pe, port, t) := h
  match up.find? fun e => e.1 == l with
  | none => ⟨h, [], []⟩
  | some e =>
    let c := timeCut e.2 d
    let u := if t < c then c else t
    ⟨(l, own, d, pe, port, u), [⟨own, u, 1⟩, ⟨own, u, 1⟩, ⟨own, t, -1⟩], [(pe, port, ⟨.data e.2, u, stamp⟩)]⟩

/-- The token of a frontier port leaves the root. -/
def State.sendFrontier (s : State) (x : Nat × Nat × Token) : State :=
  s.onPe x.1 fun p => { p with outq := Map.modify [] p.outq (frontierTag x.2.1) (· ++ [x.2.2]) }

/-- The root of a job counts changes of its own, and sends them on to the roots of the job's other modules (20 R306). -/
def State.countOwn (s : State) (job : Nat) (cs : List CountChange) : State :=
  if cs.isEmpty then s
  else
    s.onJob job fun j =>
      { j with root := { j.root.count cs with
          sent := if j.pkg.peers != 0 then j.root.sent ++ [⟨job, sumChanges cs, j.root.stamp, 0, []⟩] else j.root.sent } }

/-- Raise the frontiers, and move the holds of the frontier ports, until nothing rises. -/
def State.settleRoot (job : Nat) : Nat → State → State
  | 0, s => s
  | n + 1, s =>
    let r := s.root job
    let up := r.risen
    if up.isEmpty then s
    else
      let ms := r.holds.map (holdMoved up r.stamp)
      let r := { r.raise up with holds := ms.map HoldMove.hold }
      let s := (s.onJob job fun j => { j with root := r }).countOwn job (ms.flatMap HoldMove.cs)
      State.settleRoot job n ((ms.flatMap HoldMove.out).foldl State.sendFrontier s)

/-! ## Announcements (20 R301) -/

/-- Two subscribers are the same. -/
def sameSub (a b : Subscriber) : Bool := a == b

/-- The later of two times. -/
def maxTime (a b : LTime) : LTime := if a < b then b else a

/-- What a subscriber has been told, or will be told, of a location: the frontier that concerns it, and F(L). -/
def State.told (s : State) (r : Root) (l : Nat) (w : Subscriber) : LTime × LTime :=
  let at_ := match w with
    | .port k p => (((s.pe k).inport p).frontier, ((s.pe k).inport p).passed)
    | .bay g => ((Map.get (0, 0) (s.region g).fronts l).1, (Map.get (0, 0) (s.region g).fronts l).1)
  (r.out.filter fun a => a.loc == l && sameSub a.to_ w).foldl (fun m a => (maxTime m.1 a.val, maxTime m.2 a.whole)) at_

/-- The frontier that concerns a subscriber: a coalescing port takes its arrival frontier (20 R307). -/
def State.frontierOf (s : State) (r : Root) (l : Nat) : Subscriber → LTime
  | .port k p => r.frontierFor l ((s.pe k).active.coalesces p)
  | .bay _ => Map.get 0 r.front l

/-- The announcements that are due. -/
def State.announcements (s : State) (job : Nat) : List Announce :=
  let r := s.root job
  r.subs.filterMap fun x =>
    let f := s.frontierOf r x.1 x.2
    let g := Map.get 0 r.front x.1
    let old := s.told r x.1 x.2
    if old.1 < f || old.2 < g then some ⟨x.1, f, g, r.stamp, x.2⟩ else none

/-- Announce what has risen. -/
def State.announce (s : State) (job : Nat) : State :=
  let as := s.announcements job
  s.onJob job fun j => { j with root := { j.root with out := j.root.out ++ as } }

/-! ## Return circuits (23 R349) -/

/-- The return circuits of a region that the root has still to close: tags. -/
def Region.openReturns (r : Region) : List Nat :=
  ((r.retTable.filter fun e => e.2.2 != 1).map fun e => e.1 / 8).eraseDups.filter fun t => !r.closed.contains t

/-- The section has been armed, and its region is not drained for a pre-emption. Log entry 54 (DEDUCED). -/
def Region.mayClose (r : Region) : Bool :=
  r.live && r.preempt == .none && (r.sect == .armed || r.sect == .draining || r.sect == .done)

/-- Nothing that leads to a location remains: no pointstamp at the root, and no capability of a source of the section. -/
def State.nothingLeads (s : State) (root : Root) (r : Region) (l : Nat) : Bool :=
  !(root.counts.any fun c => root.leads c.1 l) &&
  r.info.nodes.all fun n =>
    match n.source, r.keyAt n.place with
    | some src, some k => !root.leads src l || (s.pe k).caps.isEmpty
    | _, _ => true

/-- Close one return circuit, when nothing can send on it any longer. -/
def State.closeReturn (job rid : Nat) (s : State) (tag : Nat) : State :=
  let r := s.region rid
  let root := s.root job
  let ls := (s.ends r.rect.home tag).filterMap fun e => (s.pe e.1).active.iloc e.2
  if ls.isEmpty || !ls.all (s.nothingLeads root r) then s
  else
    let t := ls.foldl (fun m l => let f := root.frontier (fun _ => true) l; if m < f then f else m) 0
    let x := s.inject r.rect.home tag ⟨⟨.eos, false, false, 0⟩, t, root.stamp⟩
    (x.1.onRegion rid fun r => { r with closed := tag :: r.closed }).countOwn job x.2

/-- Close the return circuits of a job's regions that nothing leads to. A batch that has not reached the root may still name
what leads there. Log entry 54 (DEDUCED). -/
def State.closeReturns (s : State) (job : Nat) : State :=
  if s.countsMoving job then s
  else
    ((s.regions.filter fun e => e.2.job == job && e.2.mayClose).map Prod.fst).foldl
      (fun s rid => (s.region rid).openReturns.foldl (State.closeReturn job rid) s) s

/-! ## Ending a job (21 R324; 24 R359) -/

/-- The regions of a job. -/
def State.jobRegions (s : State) (job : Nat) : List Nat :=
  (s.regions.filter fun e => e.2.live && e.2.job == job).map Prod.fst

/-- The saved contexts of an aborted job are dropped, and their entries end as failed (21 R324). -/
def State.dropSaves (s : State) (job : Nat) (cause : W64) : State :=
  let away := (s.saves.filter fun c => c.2.live && c.2.job == job && c.2.place.isNone).map fun c => c.2.entry
  let gone := ((s.saves.filter fun e => e.2.live && e.2.job == job && e.2.place.isNone).map Prod.snd).filter
    fun c => !c.region.halted
  let cnt := fun (c : Saved) k => sumCounters (c.pmons.map fun m => Map.get Pmon.blank m k)
  { s with saves := s.saves.mapVals fun _ c => if c.job == job then { c with live := false } else c }.onJob job fun j =>
    let j := gone.foldl (fun (j : Job) (c : Saved) => j.threadEnds c.region (placeDigests c.region c.pes) (cnt c)) j
    { j with entries := j.entries.mapVals fun k e => if away.contains k then { e.fail cause with finished := true } else e }

/-- The executive aborts a job: its bids are withdrawn, every region is contained and its thread ended (21 R324; 24 R354).
The bays are freed as each section entry ends. -/
def State.abortJob (s : State) (job : Nat) (cause : TrapRecord) (status : Byte) : State :=
  let s := ((s.jobRegions job).foldl (fun s r => s.execTake r cause) s).dropSaves job (cause.fcode.setWidth 64)
  { s with bids := s.bids.filter fun b => b.job != job }.onJob job fun j =>
    { j with wsStop := true, outcome := if j.outcome.isSome then j.outcome else some status }

/-! ## ROOT_BATCH_APPLY (20 R301, R304) -/

/-- The pointstamps that the root holds for one job (20 R304). -/
def rootRoom : Nat := 65536

/-- COUNTFULL: no part of the batch is applied, and the job is aborted (20 R304). -/
def State.countFull (s : State) (b : CountBatch) : State :=
  let rec_ := mkRecord .countfull 8 3 (agentNumber (.ctl b.region)) b.job 0 0
  (s.abortJob b.job rec_ 5).event b.job 0 (recWords rec_)

/-- Apply a batch whole; `own` says that it comes from this module, whose root sends it on to the others (20 R306). Log entry
84 (DEDUCED). -/
def State.applyBatch (s : State) (b : CountBatch) (own : Bool) : State :=
  let r := s.root b.job
  let r' := (r.count b.changes).openAll b.opens
  if rootRoom < r'.counts.length then s.countFull b
  else
    let r' := { r' with stamp := max r.stamp b.stamp,
                        sent := if own && (s.job b.job).pkg.peers != 0 then r.sent ++ [b] else r.sent }
    let s := State.settleRoot b.job (r.holds.length + 2) (s.onJob b.job fun j => { j with root := r' })
    (s.announce b.job).closeReturns b.job

/-- ROOT_BATCH_APPLY (20 R301): the root applies the batch at the head of a job's queue whole, and computes frontiers. -/
def execRootBatchApply (job : Nat) (s : State) : Host.Outcome State Fault Refusal :=
  match (s.root job).queue with
  | [] => .next s
  | b :: bs =>
    .next ((s.onJob job fun j => { j with root := { j.root with queue := bs } }).applyBatch b true)

/-- ANNOUNCEMENT_ARRIVAL (20 R301): an announcement reaches its subscriber, with its stamp (16 R250). -/
def execAnnouncementArrival (job idx : Nat) (s : State) : Host.Outcome State Fault Refusal :=
  match (s.root job).out[idx]? with
  | none => .next s
  | some a =>
    let s := s.onJob job fun j => { j with root := { j.root with out := j.root.out.eraseIdx idx } }
    match a.to_ with
    | .port k p =>
      let s := s.onPort k p fun ip =>
        let ip := { ip with passed := maxTime ip.passed a.whole }
        if ip.frontier < a.val then { ip with frontier := a.val, fstamp := a.stamp } else ip
      .next (s.tally (bayOf k) 0x17 1)
    | .bay g =>
      let s := s.onRegion g fun r =>
        if (Map.get (0, 0) r.fronts a.loc).1 < a.val then { r with fronts := r.fronts.set a.loc (a.val, a.stamp) } else r
      .next (s.tally g 0x17 1)

/-! ## Peers (20 R306; 26 R387) -/

/-- A holder of another module, as this root numbers it. Log entry 55 (DESIGN CHOICE). -/
def remoteHolder (peer holder : Nat) : Nat := 65536 * (peer + 1) + holder

/-- The epochs that a batch of another module opens, each with its holder there. -/
def remoteOpens (peer : Nat) (os : List Opening) : List (Nat × Nat × Nat) :=
  os.map fun o => (o.loc, remoteHolder peer o.holder, o.epoch)

/-- PEER_BATCH (20 R306; 26 R387): a batch that another module's root has applied is applied here, in arrival order. Log entry
83 (DESIGN CHOICE). Log entry 84 (DEDUCED). Log entry 55 (DESIGN CHOICE). -/
def execPeerBatch (job : Nat) (changes : PeerChanges) (stamp : Nat) (s : State) : Host.Outcome State Fault Refusal :=
  if !(s.job job).live || (s.job job).pkg.peers == 0 then .next s
  else .next (s.applyBatch ⟨job, sumChanges changes.counts, stamp, 0, remoteOpens changes.peer changes.opens⟩ false)

/-- PEER_CONNECTION_LOSS (26 R387): every module aborts the job, and its host receives EVENT with status PEERLOST. -/
def execPeerConnectionLoss (job : Nat) (s : State) : Host.Outcome State Fault Refusal :=
  if !(s.job job).live || (s.job job).pkg.peers == 0 then .next s
  else .next ((s.abortJob job (mkRecord .jobdeadline 8 3 0 job 0 0) 6).event job 0x06 [])

end Sys2Proof.Machine
end

