-- ==== Sys2Proof/Machine/MatrixEv.lean ====
section
/-! DEFINITION. MatrixEv: what the matrix unit does with its queue: MMA, tile loads, MST, MREL and MJOB, one command at a
time in queue order (14 R220 to R230; 25 R380 to R383). -/

namespace Sys2Proof.Machine

/-! ## Elements and sums (14 R218, R222) -/

/-- The place of a tile buffer. -/
def bufIdx : TileBuf → Nat
  | .ta0 => 0
  | .ta1 => 1
  | .tb0 => 2
  | .tb1 => 3

/-- The value of a code, a NaN widened to binary128 (03 R42 part 3). -/
def Fmt.wide (f : Fmt) (c : Nat) : FVal :=
  match f.decode c with
  | .nan c => .nan (f.convNan fp128 c)
  | v => v

/-- Element k of row or column i of a tile buffer under a type (14 R218). -/
def tileElem (ty : MatType) (buf : List Byte) (i k : Nat) : FVal :=
  match ty with
  | .gx =>
    match gxVals 7 (gxUnpack 7 (leNat ((buf.drop (32 * i + 16 * (k / 16))).take 16))) with
    | none => .nan fp128.nanCode
    | some vs => vs.getD (k % 16) (.fin false 0 0)
  | _ => (matFmt ty).wide (leNat ((buf.drop (32 * i + k * matBytes ty)).take (matBytes ty)))

/-- The code of a NaN. -/
def FVal.nanCode? : FVal → Option Nat
  | .nan c => some c
  | _ => none

/-- The exact sum of terms rounded once to binary128; an exact zero is +0 (03 R39; 14 R222). -/
def sum128 (terms : List FVal) : Nat × Flags :=
  if bothInf terms then fp128.invalid
  else
    match infSign terms with
    | some s => (fp128.signed s fp128.infCode, Flags.none)
    | none => fp128.roundDy .rn false (Dy.sum (terms.map FVal.dy))

/-- One output element of an MMA: γ and the prior element where the mode reads them, a row of A and a column of B
(14 R222). -/
def mmaElem (gamma acc : Option FVal) (row col : List FVal) : Nat × Flags :=
  let ops := gamma.toList ++ acc.toList ++ row ++ col
  let pairs := row.zip col ++ (match gamma, acc with
    | some g, some a => [(g, a)]
    | _, _ => [])
  let zi := if pairs.any fun p => p.1.zeroInf p.2 then Flags.nvOnly else Flags.none
  match ops.filterMap FVal.nanCode? with
  | c :: cs => (fp128.quiet c, zi.or (if (c :: cs).any fp128.signalling then Flags.nvOnly else Flags.none))
  | [] =>
    if zi.nv then fp128.invalid
    else
      sum128 (pairs.map (fun p => p.1.prod p.2) ++ (match gamma, acc with
        | none, some a => [a]
        | _, _ => []))

/-! ## The unit -/

/-- A tile buffer. -/
def Matrix.buf (m : Matrix) (k : Nat) : List Byte := m.bufs.getD k []

/-- Element (i, j) of a physical tile. -/
def Matrix.elem (m : Matrix) (p i j : Nat) : Q128 := (m.tiles.getD p []).getD (8 * i + j) 0

/-- A physical tile replaced. -/
def Matrix.putTile (m : Matrix) (p : Nat) (t : List Q128) : Matrix :=
  { m with tiles := (m.tiles ++ List.replicate (8 - m.tiles.length) []).set p t }

/-- The lowest-numbered free tile (25 R380). -/
def Matrix.freeTile (m : Matrix) : Option Nat := (List.range 8).find? fun p => m.phys.getD p .free == .free

/-- MMA.z maps its name to a free tile; the tile that it held drains, and is free because every earlier command has finished
(14 R221). -/
def Matrix.mapName (m : Matrix) (acc p : Nat) : Matrix :=
  let phys := match m.map.getD acc none with
    | some old => m.phys.set old .free
    | none => m.phys
  { m with map := m.map.set acc (some p), phys := phys.set p .mapped }

/-- The 64 results of an MMA. -/
def mmaTile (ty : MatType) (mode : MmaMode) (m : Matrix) (old : Nat) (a b : List Byte) (gamma : BitVec 32) :
    List (Nat × Flags) :=
  let k := List.range (matDepth ty)
  let rows := (List.range 8).map fun i => k.map (tileElem ty a i)
  let cols := (List.range 8).map fun j => k.map (tileElem ty b j)
  (List.range 64).map fun e =>
    let prior := fp128.wide (m.elem old (e / 8) (e % 8)).toNat
    mmaElem (if mode == .d then some (fp32.wide gamma.toNat) else none) (if mode == .z then none else some prior)
      (rows.getD (e / 8) []) (cols.getD (e % 8) [])

/-- Run an MMA (14 R222); none while no tile is free. -/
def Matrix.mma (m : Matrix) (ty : MatType) (mode : MmaMode) (acc : Nat) (a1 b1 : Bool) (gamma : BitVec 32) : Option Matrix :=
  let run := fun (m : Matrix) (p : Nat) =>
    let rs := mmaTile ty mode m p (m.buf (b2n a1)) (m.buf (2 + b2n b1)) gamma
    { m.putTile p (rs.map fun r => BitVec.ofNat 128 r.1) with mflags := m.mflags.or (flagsOf rs) }
  match mode with
  | .z => m.freeTile.map fun p => run (m.mapName acc p) p
  | _ => (m.map.getD acc none).map (run m)

/-- A block of an output .gx tile (14 R225). -/
def gxUnit (fs : List Nat) (b : Nat) : Nat × Flags :=
  let r := gxEncode 7 ((List.range 16).map fun e => fp32.decode (fs.getD (8 * (2 * b + e / 8) + e % 8) 0))
  (gxPack 7 r.1, r.2)

/-- The output units of a physical tile, with the flags of the conversion (14 R225). -/
def Matrix.unitsOf (m : Matrix) (p : Nat) (ty : MatType) (rnd : Round) : List Nat × Flags :=
  let f := matFmt ty
  let rs := (List.range 64).map fun e => fp128.convert f rnd none (m.elem p (e / 8) (e % 8)).toNat
  let cs := rs.map Prod.fst
  match ty with
  | .gx =>
    let bs := (List.range 4).map (gxUnit cs)
    (bs.map Prod.fst, (flagsOf rs).or (flagsOf bs))
  | _ => ((List.range 8).map fun i => lanesNat f.width ((cs.drop (8 * i)).take 8), flagsOf rs)

/-! ## The head of the queue -/

/-- The command that the unit runs: the head of its queue, while the unit runs. -/
def Pe.command (p : Pe) : Option MatCmd := if p.matrix.stopped || p.matrix.cut then none else p.matrix.queue.head?

/-- Change the unit of a PE. -/
def State.onUnit (s : State) (key : Nat) (g : Matrix → Matrix) : State := s.onPe key fun p => { p with matrix := g p.matrix }

/-- Change the command at the head. -/
def Matrix.onHead (m : Matrix) (g : MatCmd → MatCmd) : Matrix :=
  { m with queue := match m.queue with
      | c :: cs => g c :: cs
      | [] => [] }

/-- The command at the head has finished. -/
def Matrix.pop (m : Matrix) : Matrix := { m with queue := m.queue.drop 1 }

/-- The tag that the accesses of a command carry: that of its issuer (02 R25). -/
def MatCmd.tag (c : MatCmd) : BitVec 16 := if c.exec then 0xFFFF else BitVec.ofNat 16 c.job

/-- What a step of a command comes to. -/
inductive MatStep where
  /-- it waits -/
  | wait
  /-- it has failed, with a code of Table 5-3, or 256 and a code of Table 2-4, or 512 and the code of another fault -/
  | bad (code : Nat)
  /-- it has advanced -/
  | more
  /-- it has reached its end -/
  | last
  deriving DecidableEq, Repr

/-- The information of a matrix record: the code, then the buffer, the unit or the index vector. Log entry 15 (DESIGN CHOICE). -/
def matInfo (c : MatCmd) (code : Nat) : FaultCode × W64 × W64 :=
  match c.op with
  | .load l => (.matload, BitVec.ofNat 64 code, BitVec.ofNat 64 (bufIdx l.buf))
  | .mst _ acc _ _ _ _ => (.matstore, BitVec.ofNat 64 code, packFields 64 [(0, 2, acc), (8, 4, c.row)])
  | _ => (.matjob, packFields 64 [(0, 16, code), (16, 16, c.index.getD 4 0)],
      packFields 64 ((List.range 4).map fun k => (16 * k, 16, c.index.getD k 0)))

/-- A command has failed: the unit stops, its agent begins nothing further, and the record enters the fault queue. RETRY runs
the command from its start, an MJOB from the start of the index vector whose step failed (14 R223). Log entry 51 (DEDUCED). -/
def State.unitFault (s : State) (key rid : Nat) (c : MatCmd) (code : Nat) : State :=
  let i := matInfo c code
  let f := { Frame.blank with agent := c.agent, job := c.job, time := c.time, addr := c.block,
                              port := { Port.blank with pts := c.pts } }
  let rec_ := { s.record f ⟨i.1, i.2.1, i.2.2⟩ 1 c.slot with origin := 4#4 }
  let s := s.onUnit key fun m =>
    { m.onHead (fun c => { c with row := 0, phase := 0 }) with stopped := true }
  (s.stopAgent c.agent).post rid rec_

/-- Settle a step of a command that is no MJOB. Log entry 51 (DEDUCED). -/
def State.settleStep (s : State) (key rid : Nat) (c : MatCmd) : MatStep → State
  | .wait | .more => s
  | .bad code => s.unitFault key rid c code
  | .last =>
    let s := if c.op.loadsDevice then s.joinLoad key (((s.pe key).matrix.queue.head?).getD c) else s
    (s.onUnit key Matrix.pop).progress rid

/-! ## Tile loads (14 R223) -/

/-- A row reaches its buffer. -/
def Matrix.landRow (m : Matrix) (b r : Nat) (bs : List Byte) : Matrix :=
  let old := m.buf b
  { m with bufs := m.bufs.set b (old.take (32 * r) ++ bs ++ old.drop (32 * r + 32)), rows := m.rows.set b (r + 1) }

/-- The virtual address of a row or unit. -/
def rowVa (base stride : W64) (r : Nat) : W64 := BitVec.ofInt 64 (rowAddr base stride r)

/-- The physical address of a row or unit for the command at the head (05 R85). -/
def State.unitAddr (s : State) (key rid : Nat) (c : MatCmd) (va : W64) (write : Bool) : State × Option (Except XlCode Nat) :=
  s.fetchAddr (.matrix key) (.pe key) rid c.job (s.region rid).xroot va write

/-- Read the next row of a device tile load. -/
def State.deviceRow (s : State) (key rid : Nat) (c : MatCmd) (b : Nat) (base stride : W64) : State × MatStep :=
  match s.unitAddr key rid c (rowVa base stride c.row) false with
  | (s, none) => (s, .wait)
  | (s, some (.error e)) => (s, .bad e.num)
  | (s, some (.ok a)) =>
    match s.readNow c.tag 1 (peRequester key) c.pts a 32 with
    | (s, rep) =>
      match rep.err with
      | some e => (s, .bad (256 + e.num))
      | none =>
        (s.onUnit key fun m => (m.landRow b c.row (leBytes 32 rep.val.toNat)).onHead fun c =>
          { c with row := c.row + 1, pts := ptsAfter c.pts rep, wHi := max c.wHi rep.wts },
         if c.row = 7 then .last else .more)

/-- The pages of local rows or units: there, claimed, or failed, with the code that the slice gave or UNCORR of Table 2-4 for a
granule that cannot be corrected (07 R107, R112; log entry 26 (DEDUCED)). -/
def State.localRows (s : State) (key job : Nat) (as : List Nat) (n : Nat) (read : Bool) : State × MatStep :=
  match s.seekPages job key .matrix (as.flatMap fun a => pagesOf a n).eraseDups with
  | (s, .error e) => (s, .bad (256 + e))
  | (s, .ok false) => (s, .wait)
  | (s, .ok true) =>
    if !read then (s, .more)
    else if as.any fun a => ((s.pe key).badGran a n).isSome then (s, .bad (256 + ErrCode.uncorr.num))
    else (as.foldl (fun s a => s.correct key a n) s, .more)

/-- Read the tile of an MLDL as one step in the PE's local order. Log entry 26 (DEDUCED). -/
def State.localTile (s : State) (key : Nat) (c : MatCmd) (b : Nat) (base stride : W64) : State × MatStep :=
  let as := (List.range 8).map fun r => (rowAddr base stride r).toNat
  match s.localRows key c.job as 32 true with
  | (s, .more) =>
    (s.onUnit key fun m =>
      (List.range 8).foldl (fun m r => m.landRow b r ((s.pe key).lmem.readBytes (as.getD r 0) 32)) m, .last)
  | x => x

/-- ROWS of a buffer is 0 as a load begins. -/
def Matrix.clearRows (m : Matrix) (b r : Nat) : Matrix := if r = 0 then { m with rows := m.rows.set b 0 } else m

/-- A command that reads or writes device memory begins when its issuer's accesses up to the commit that queued it have been
answered (16 R254). -/
def State.forkReady (s : State) (c : MatCmd) : Bool := s.portQuiet c.after c.id

/-- A step of a tile load. -/
def State.runLoad (s : State) (key rid : Nat) (c : MatCmd) (l : TileLoad) : State × MatStep :=
  let b := bufIdx l.buf
  let s := s.onUnit key (·.clearRows b c.row)
  if l.loc then s.localTile key c b l.base l.stride
  else if !s.forkReady c then (s, .wait)
  else s.deviceRow key rid c b l.base l.stride

/-- TILE_LOAD_EXECUTE (14 R223): the load at the head of the queue reads its next row; a local load reads its tile. -/
def execTileLoadExecute (pe : Nat) (s : State) : Host.Outcome State Fault Refusal :=
  match (s.pe pe).command, (s.pe pe).region with
  | some c, some rid =>
    match c.op with
    | .load l => let x := s.runLoad pe rid c l; .next (x.1.settleStep pe rid c x.2)
    | _ => .next s
  | _, _ => .next s

/-! ## MMA -/

/-- MMA_EXECUTE (14 R222): the MMA at the head of the queue. A residue that does not match is an unrecoverable fault of the
node (24 R360). -/
def execMmaExecute (pe : Nat) (residueOk : Bool) (s : State) : Host.Outcome State Fault Refusal :=
  match (s.pe pe).command, (s.pe pe).region with
  | some c, some rid =>
    match c.op with
    | .mma ty mode acc a1 b1 g =>
      if !residueOk then .next (s.unrecoverable rid pe .matresidue 0 0)
      else
        match (s.pe pe).matrix.mma ty mode acc a1 b1 g with
        | none => .next s
        | some m => .next (((s.onUnit pe fun _ => m.pop).tally (bayOf pe) 0x03 1).progressPe pe)
    | _ => .next s
  | _, _ => .next s

/-! ## MST (14 R225, R226) -/

/-- The physical tile that a name is mapped to. -/
def Matrix.tileOf (m : Matrix) (acc : Nat) : Nat := (m.map.getD acc none).getD 0

/-- A unit written to device memory, which a later FENCE joins. -/
def State.storeUnit (s : State) (key rid : Nat) (c : MatCmd) (va : W64) (n v : Nat) (final : Bool) : State × MatStep :=
  match s.unitAddr key rid c va true with
  | (s, none) => (s, .wait)
  | (s, some (.error e)) => (s, .bad e.num)
  | (s, some (.ok a)) =>
    match s.writeNow c.tag 1 (peRequester key) c.pts a n (BitVec.ofNat 512 v) with
    | (s, rep) =>
      match rep.err with
      | some e => (s, .bad (256 + e.num))
      | none =>
        ((s.noteAck (c.writer (s.pe key)) c.id rep.wts).onUnit key fun m => m.onHead fun c =>
          { c with row := c.row + 1, pts := ptsAfter c.pts rep, wHi := max c.wHi rep.wts },
         if final then .last else .more)

/-- A step of an MST: its next unit in device memory, or all its units in local memory in their order. -/
def State.runMst (s : State) (key rid : Nat) (c : MatCmd) (ty : MatType) (acc : Nat) (base stride : W64) (rnd : Round)
    (loc : Bool) : State × MatStep :=
  let m := (s.pe key).matrix
  let us := m.unitsOf (m.tileOf acc) ty rnd
  let n := matUnit ty
  let s := s.onUnit key fun m => { m with mflags := m.mflags.or us.2 }
  if loc then
    let as := (List.range (matUnits ty)).map fun u => (rowAddr base stride u).toNat
    match s.localRows key c.job as n false with
    | (s, .more) =>
      (s.onPe key fun p => (List.range (matUnits ty)).foldl (fun p u =>
        p.engineWrite (as.getD u 0) (leBytes n (us.1.getD u 0))) p, .last)
    | x => x
  else if !s.forkReady c then (s, .wait)
  else s.storeUnit key rid c (rowVa base stride c.row) n (us.1.getD c.row 0) (c.row + 1 == matUnits ty)

/-- MST_EXECUTE (14 R226): the MST at the head of the queue writes its next unit. -/
def execMstExecute (pe : Nat) (s : State) : Host.Outcome State Fault Refusal :=
  match (s.pe pe).command, (s.pe pe).region with
  | some c, some rid =>
    match c.op with
    | .mst ty acc base stride rnd loc =>
      let x := s.runMst pe rid c ty acc base stride rnd loc
      .next (x.1.settleStep pe rid c x.2)
    | _ => .next s
  | _, _ => .next s

/-! ## MREL (14 R227) -/

/-- The tokens of a released tile: its units in order, 64 bytes to a token, and EOR. -/
def mrelTokens (units : List Nat) (n : Nat) (t : LTime) (stamp : Nat) : List Token :=
  let bs := units.flatMap fun u => leBytes n u
  ((List.range (bs.length / 64)).map fun k =>
    ⟨.wideData (BitVec.ofNat 512 (leNat ((bs.drop (64 * k)).take 64))), t, stamp⟩) ++ [⟨.ofKind .eor, t, stamp⟩]

/-- MREL begins: its name is unmapped, its tokens stand ready, and its batch counts them. -/
def State.beginMrel (s : State) (key : Nat) (c : MatCmd) (ty : MatType) (acc port : Nat) (rnd : Round) (t : LTime) : State :=
  let m := (s.pe key).matrix
  let p := m.tileOf acc
  let us := m.unitsOf p ty rnd
  let ts := mrelTokens us.1 (matUnit ty) t c.pts
  let cs := ts.flatMap fun x => (s.sendAt key port x.val x.time x.stamp).2
  let s := s.onUnit key fun m =>
    { m with mflags := m.mflags.or us.2, map := m.map.set acc none, phys := m.phys.set p .draining }.onHead fun c =>
      { c with phase := p + 1, tokens := ts }
  s.arriveCount key c.pts (s, cs)

/-- The circuit of an MREL's port has room for a token. -/
def Pe.mrelRoom (p : Pe) (port : Nat) : Bool :=
  match p.tagOf port with
  | some tag => (Map.get [] p.outq tag).isEmpty
  | none => true

/-- The block with this port has not finished its commit: its own tokens leave before those of its MREL (14 R227). -/
def State.committing (s : State) (pid : Nat) : Bool := (s.cur :: s.parked).any fun f => f.live && f.port.pid == pid

/-- MREL_EXECUTE (14 R227): the MREL at the head of the queue converts its tile, and then sends its next token; its tile is
free after the last. -/
def execMrelExecute (pe : Nat) (s : State) : Host.Outcome State Fault Refusal :=
  match (s.pe pe).command with
  | some c =>
    match c.op with
    | .mrel ty acc port rnd t =>
      if c.phase = 0 then
        (if (s.pe pe).marks || s.committing c.after then .next s else .next (s.beginMrel pe c ty acc port rnd t))
      else if !(s.pe pe).mrelRoom port then .next s
      else
        match c.tokens with
        | [] => .next (((s.onUnit pe fun m => { m with phys := m.phys.set (c.phase - 1) .free }.pop).followOn pe port).progressPe pe)
        | x :: xs =>
          let s := (s.sendAt pe port x.val x.time x.stamp).1
          .next (if xs.isEmpty then ((s.onUnit pe fun m => { m with phys := m.phys.set (c.phase - 1) .free }.pop).followOn pe port).progressPe pe
            else s.onUnit pe fun m => m.onHead fun c => { c with tokens := xs })
    | _ => .next s
  | none => .next s

/-! ## MJOB (14 R229) -/

/-- The next index vector, level 0 fastest; none after the last. -/
def nextIndex : List JobLevel → List Nat → Option (List Nat)
  | l :: ls, i :: is => if i + 1 < l.count then some ((i + 1) :: is) else (nextIndex ls is).map fun r => 0 :: r
  | _, _ => none

/-- The index vector of a job: zeros before its first step. -/
def MatCmd.vector (c : MatCmd) (card : JobCard) : List Nat := if c.index.isEmpty then card.levels.map fun _ => 0 else c.index

/-- The next part of an index vector's step: A, B, MMA, MST. Log entry 80 (DEDUCED). -/
def State.nextPhase (s : State) (key : Nat) : State :=
  s.onUnit key (·.onHead fun c => { c with phase := c.phase + 1, row := 0 })

/-- The step of an index vector has ended: the next vector, or the end of the job. -/
def State.nextVector (s : State) (key : Nat) (card : JobCard) (v : List Nat) : State × MatStep :=
  match nextIndex card.levels v with
  | some w => (s.onUnit key (·.onHead fun c => { c with index := w, phase := 0, row := 0 }), .more)
  | none => (s, .last)

/-- A part of the step has ended, waits, fails, or goes on. -/
def State.partDone (s : State) (key : Nat) : MatStep → State × MatStep
  | .last => (s.nextPhase key, .more)
  | x => (s, x)

/-- A tile load of an MJOB: one from a base that is no multiple of 32 fails with ALIGN (14 R223, R229; log entry 15 (DESIGN CHOICE)). -/
def State.jobLoad (s : State) (key rid : Nat) (c : MatCmd) (b : Nat) (base : Int) (stride : W64) : State × MatStep :=
  if base % 32 ≠ 0 then (s, .bad (512 + FaultCode.align.code.toNat))
  else
    let x := (s.onUnit key (·.clearRows b c.row)).deviceRow key rid c b (BitVec.ofInt 64 base) stride
    x.1.partDone key x.2

/-- A step of an MJOB. Log entry 80 (DEDUCED). -/
def State.runJob (s : State) (key rid : Nat) (c : MatCmd) (ty : MatType) (acc : Nat) (card : JobCard) : State × MatStep :=
  let v := c.vector card
  let m := roleCoord card.levels v 2
  let n := roleCoord card.levels v 3
  let k := roleCoord card.levels v 1
  let par := k % 2
  let s := s.onUnit key (·.onHead fun c => { c with index := v })
  if !s.forkReady c then (s, .wait)
  else
    match c.phase with
    | 0 => s.jobLoad key rid c par (tileA card m k) card.ars
    | 1 => s.jobLoad key rid c (2 + par) (tileB card n k) card.brs
    | 2 =>
      (match (s.pe key).matrix.mma ty (if k = 0 then .z else .k) acc (par == 1) (par == 1) 0 with
        | none => (s, .wait)
        | some u =>
          let s := (s.onUnit key fun _ => u).tally (bayOf key) 0x03 1
          if k + 1 = roleCount card.levels 1 then (s.nextPhase key, .more) else s.nextVector key card v)
    | _ =>
      let x := s.runMst key rid c card.otype acc (BitVec.ofInt 64 (tileC card m n)) card.crs card.rnd false
      (match x.2 with
        | .last => x.1.nextVector key card v
        | y => (x.1, y))

/-- MJOB_EXECUTE (14 R229): the job at the head of the queue takes its next step. -/
def execMjobExecute (pe : Nat) (s : State) : Host.Outcome State Fault Refusal :=
  match (s.pe pe).command, (s.pe pe).region with
  | some c, some rid =>
    match c.op with
    | .job ty acc card => let x := s.runJob pe rid c ty acc card; .next (x.1.settleStep pe rid c x.2)
    | _ => .next s
  | _, _ => .next s

/-! ## The marker (14 R230; 25 R382) -/

/-- An MST that has written a unit writes all of them, and an MJOB goes on to its next index vector, before the save; each
stops where a page is withheld. Log entry 80 (DEDUCED). -/
def State.finishPart : Nat → State → Nat → Nat → State
  | 0, s, _, _ => s
  | n + 1, s, key, rid =>
    match (s.pe key).command with
    | none => s
    | some c =>
      let x := match c.op with
        | .mst ty acc base stride rnd loc =>
          if c.row = 0 then (s, MatStep.wait) else s.runMst key rid c ty acc base stride rnd loc
        | .job ty acc card => if c.row = 0 ∧ c.phase = 0 then (s, MatStep.wait) else s.runJob key rid c ty acc card
        | _ => (s, MatStep.wait)
      match x.2 with
      | .more => State.finishPart n x.1 key rid
      | y => x.1.settleStep key rid c y

/-- MATRIX_MARKER (14 R230): the marker has reached the PE, and its matrix unit stops for the save. -/
def execMatrixMarker (pe : Nat) (s : State) : Host.Outcome State Fault Refusal :=
  match (s.pe pe).region with
  | some rid =>
    if !(s.pe pe).marks || (s.pe pe).matrix.cut then .next s
    else .next ((State.finishPart 64 s pe rid).onUnit pe fun m => { m with cut := true })
  | none => .next s

end Sys2Proof.Machine
end

