-- ==== Sys2Proof/Machine/LatticeEv.lean ====
section
/-! DEFINITION. LatticeEv: what lattice operations do after the commit that issued them: PLDEF, PACT and PCOPY at one PE
(15 R236, R237, R244), PSHIFT and PSTEP over the region (15 R239 to R241), and the march engines (15 R245, R246). -/

namespace Sys2Proof.Machine

/-! ## Writing sites (15 R233) -/

/-- Change an entry of the plane table. -/
def Pe.onPlane (p : Pe) (n : Nat) (g : PlaneEntry → PlaneEntry) : Pe := { p with planes := p.planes.set n (g (p.plane n)) }

/-- Store the value of a site in its slot. -/
def Pe.storeSite (p : Pe) (e : PlaneEntry) (b st v : Nat) : Pe :=
  p.lwrite (e.geo.addr b st) (leBytes (e.geo.width / 8) v)

/-- A brick becomes active, with every site set to q. -/
def Pe.wake (p : Pe) (n b : Nat) : Pe :=
  let e := p.plane n
  (List.range e.geo.sites).foldl (fun p st => p.storeSite e b st e.quiet)
    (p.onPlane n fun e => { e with act := insertBits e.act b 1 1 })

/-- A lattice operation writes a site: a value other than q reactivates an inactive brick. -/
def Pe.putSite (n : Nat) (p : Pe) (w : Nat × Nat × Nat) : Pe :=
  let e := p.plane n
  if e.active w.1 then p.storeSite e w.1 w.2.1 w.2.2
  else if w.2.2 = e.quiet then p
  else let q := p.wake n w.1; q.storeSite (q.plane n) w.1 w.2.1 w.2.2

/-- Write sites of a plane: brick, site and value. -/
def Pe.putSites (p : Pe) (n : Nat) (ws : List (Nat × Nat × Nat)) : Pe := ws.foldl (Pe.putSite n) p

/-- The bricks whose slots such writes touch. -/
def PlaneEntry.touched (e : PlaneEntry) (ws : List (Nat × Nat × Nat)) : List Nat :=
  ((ws.filter fun w => e.active w.1 || w.2.2 != e.quiet).map Prod.fst).eraseDups

/-- The bricks that such writes reactivate. -/
def PlaneEntry.woken (e : PlaneEntry) (ws : List (Nat × Nat × Nat)) : Nat :=
  ((ws.filter fun w => !e.active w.1 && w.2.2 != e.quiet).map Prod.fst).eraseDups.length

/-- What an operation finds in the bricks that it needs. -/
inductive Need4 where
  /-- some page is not there yet: it is claimed -/
  | wait (s : State)
  /-- a granule that it reads cannot be corrected, or a refill has failed: an unrecoverable fault of the node (log entry 27) -/
  | bad (s : State)
  | here (s : State)

/-- Have the slots of some bricks of planes of a PE present. Log entry 27 (DEDUCED). -/
def State.needBricks (s : State) (key : Nat) (read write : List (PlaneEntry × List Nat)) : Need4 :=
  let pages := ((read ++ write).flatMap fun x => x.1.pages x.2).eraseDups
  let bad := fun (s : State) (code : Nat) => match (s.pe key).region with
    | some r => Need4.bad (s.unrecoverable r key .softerr (BitVec.ofNat 64 code) 0)
    | none => .wait s
  match s.seekPages (s.jobOfPe key) key .lattice pages with
  | (s, .ok false) => .wait s
  | (s, .error c) => bad s c
  | (s, .ok true) =>
    if read.any fun x => ((s.pe key).badBrick x.1 x.2).isSome then bad s 0
    else .here (read.foldl (fun s x => s.correctBricks key x.1 x.2) s)

/-! ## LATTICE_LOCAL_APPLY (15 R236, R237, R244) -/

/-- The bricks of a map word that a mask names. -/
def maskedBricks (word : Nat) (mask : W64) : List Nat :=
  ((List.range 64).filter (bitAt mask)).map (· + 64 * word)

/-- Set or clear the bits of bricks. -/
def PlaneEntry.setActive (e : PlaneEntry) (bs : List Nat) (on : Bool) : PlaneEntry :=
  { e with act := bs.foldl (fun a b => insertBits a b 1 (b2n on)) e.act }

/-- Every site of a brick equals q. -/
def Pe.quietBrick (p : Pe) (e : PlaneEntry) (b : Nat) : Bool := (p.brickVals e b).all (· == e.quiet)

/-- The operation at the head has completed. -/
def Pe.lopDone (p : Pe) : Pe := { p with lops := p.lops.drop 1 }

/-- PACT of one PE. -/
def State.applyPact (s : State) (key : Nat) (sub : PactSub) (n word : Nat) (mask : W64) : State :=
  let e := (s.pe key).plane n
  let bs := maskedBricks word mask
  match sub with
  | .get => s.onPe key Pe.lopDone
  | .act =>
    let bs := bs.filter fun b => !e.active b
    (match s.needBricks key [] [(e, bs)] with
      | .here s => (s.onPe key fun p => (bs.foldl (fun p b => p.wake n b) p).lopDone)
      | .wait s | .bad s => s)
  | .adopt => s.onPe key fun p => (p.onPlane n fun e => e.setActive bs true).lopDone
  | .deact => s.onPe key fun p => (p.onPlane n fun e => e.setActive bs false).lopDone
  | .tidy =>
    let bs := e.actives.filter fun b => b / 64 == word
    (match s.needBricks key [(e, bs)] [] with
      | .here s => s.onPe key fun p => (p.onPlane n fun e => e.setActive (bs.filter (p.quietBrick e)) false).lopDone
      | .wait s | .bad s => s)

/-- PCOPY of one PE (15 R244). -/
def State.applyPcopy (s : State) (key : Nat) (sub : PcopySub) (src dst : Nat) : State :=
  let a := (s.pe key).plane src
  let b := (s.pe key).plane dst
  if src = dst then s.onPe key Pe.lopDone
  else
    match sub with
    | .copy =>
      (match s.needBricks key [(a, a.actives)] [({ b with act := a.act }, a.actives)] with
        | .here s => s.onPe key fun p =>
          ((a.actives.foldl (fun p k =>
            (List.range a.geo.sites).foldl (fun p st => p.storeSite b k st (p.siteVal a k st)) p) p).onPlane dst
            fun e => { e with act := a.act }).lopDone
        | .wait s | .bad s => s)
    | .swap =>
      s.onPe key fun p =>
        let put := fun (x y : PlaneEntry) => ({ x with desc := insertBits x.desc 0 19 y.geo.base, act := y.act } : PlaneEntry)
        ((p.onPlane src fun _ => put a b).onPlane dst fun _ => put b a).lopDone

/-- A local operation has been applied, unless it waits for pages. -/
def State.lopApplied (s : State) (key : Nat) (t : State) : State :=
  if (t.pe key).lops.length < (s.pe key).lops.length then t.progressPe key else t

/-- LATTICE_LOCAL_APPLY (15 R234): a local operation runs after the commit that issued it, as one step in the PE's local
order. -/
def execLatticeLocalApply (pe : Nat) (s : State) : Host.Outcome State Fault Refusal :=
  match (s.pe pe).lops with
  | [] => .next s
  | x :: _ =>
    match x.op with
    | .pldef n d q => .next ((s.onPe pe fun p => { p with planes := p.planes.set n ⟨d, q, 0⟩ }.lopDone).progressPe pe)
    | .pact sub n w m => .next (s.lopApplied pe (s.applyPact pe sub n w m))
    | .pcopy sub a b => .next (s.lopApplied pe (s.applyPcopy pe sub a b))
    | .pshift _ _ | .pstep _ _ => .next s

/-! ## Collectives (15 R235) -/

/-- A collective operation at the head of a PE's queue, with its time, while it has not begun. -/
def Pe.collective (p : Pe) : Option (LatOp × LTime) :=
  match p.lops with
  | [] => none
  | x :: _ =>
    match x.op with
    | .pshift _ _ | .pstep _ _ => if p.stepRun.live || p.marks || p.sealed then none else some (x.op, x.time)
    | _ => none

/-- The first operand word of an operation. -/
def LatOp.word0 : LatOp → W64
  | .pshift w _ => w
  | .pstep w _ => w
  | _ => 0

/-- The plane whose values a collective sends over the Race: SRC, or RIP. -/
def LatOp.sentPlane : LatOp → Nat
  | .pshift w _ => shiftSrc w
  | .pstep w _ => stepRip w
  | _ => 0

/-- The neighbours of a PE over the Race (08 R131). Log entry 68 (DEDUCED). -/
def Region.raceSides (r : Region) (key : Nat) : List Nat :=
  ((List.range 4).filterMap fun side => neighbour r.rect r.stitch key side).filter (· < agBase)

/-- What a PE has sent for a collective. -/
def Pe.sent (p : Pe) (idx : Nat) : Option RaceData := p.race.find? fun e => e.idx == idx

/-- The Race data that a PE has for its own collective. -/
def Pe.raceIdx (p : Pe) : Nat := p.raceN - 1

/-- The value of a site of the region lattice as a PE has it: its own as it stands (15 R234), another PE's from the Race data of that
PE. -/
def State.raceVal (s : State) (rc : Rect) (key : Nat) (e : PlaneEntry) (c : List Int) : Nat :=
  let g := e.geo
  let o := ownerOfSite rc g (c.getD 0 0).toNat (c.getD 1 0).toNat (c.getD 2 0).toNat
  let bs := g.locate o.2.1 o.2.2.1 o.2.2.2
  if o.1 = key then (s.pe key).siteVal e bs.1 bs.2
  else
    match (s.pe o.1).sent (s.pe key).raceIdx with
    | some x => x.vals.getD (bs.1 * g.sites + bs.2) 0
    | none => 0

/-- The flits that a Race phase sends: their layout, and so their number, is not architectural (08 R119). Log entry 28 (DESIGN
CHOICE). -/
def State.tallyRace (s : State) (key : Nat) : State :=
  let n := (Config.freeValue s.freeCount).toNat % 2 ^ 16
  { s with freeCount := s.freeCount + 1 }.tally (bayOf key) 0x13 n

/-- A PE sends its Race data: the words, the time, and the values of its plane as they stand. -/
def State.sendRace (s : State) (key : Nat) (op : LatOp) (t : LTime) : State :=
  (s.onPe key fun p =>
    let e := p.plane op.sentPlane
    let x : RaceData := ⟨p.raceN, op, t, (List.range e.geo.count).flatMap (p.brickVals e)⟩
    { p with race := x :: p.race.take 2, raceN := p.raceN + 1, raceOpen := true }).tallyRace key

/-- Coordinates in the region lattice as integers. -/
def siteCoords (rc : Rect) (g : Geo) (key b st : Nat) : List Int :=
  let c := regionCoords rc g key b st
  [c.1, c.2.1, c.2.2]

/-- A neighbour's Race data that names another operation, or another time. -/
def State.raceOther (s : State) (r : Region) (key : Nat) (op : LatOp) (t : LTime) : Option RaceData :=
  (r.raceSides key).findSome? fun m =>
    match (s.pe m).sent (s.pe key).raceIdx with
    | some e => if e.op == op && e.time == t then none else some e
    | none => none

/-- Every PE of a list has sent its data for a PE's collective. Log entry 68 (DEDUCED). -/
def State.raceFrom (s : State) (key : Nat) (ks : List Nat) : Bool :=
  ks.all fun m => ((s.pe m).sent (s.pe key).raceIdx).isSome

/-! ## PSHIFT_RUN (15 R239) -/

/-- Where the value of a site comes from: a coordinate vector inside the region lattice, or a boundary value (15 Table 15-5). -/
def shiftFrom (w : W64) (cst : Nat) (ext : List Nat) : List Nat → List Int → Except Nat (List Int)
  | [], u => .ok u
  | a :: as, u =>
    let x := u.getD a 0
    let g : Int := ext.getD a 1
    if 0 ≤ x ∧ x < g then shiftFrom w cst ext as u
    else
      match modeOf w a with
      | 0 => .error 0
      | 1 => shiftFrom w cst ext as (u.set a (if x < 0 then 0 else g - 1))
      | 2 => shiftFrom w cst ext as (u.set a (x % g))
      | 3 => shiftFrom w cst ext as (u.set a (if x < 0 then -x - 1 else 2 * g - 1 - x))
      | _ => .error cst

/-- Where each site of a PE takes its value: brick, site and source. -/
def shiftSources (rc : Rect) (g : Geo) (w cst : W64) (key : Nat) : List (Nat × Nat × Except Nat (List Int)) :=
  (List.range g.count).flatMap fun b => (List.range g.sites).map fun st =>
    let c := siteCoords rc g key b st
    let u := (List.range 3).map fun a => c.getD a 0 - shiftOf w a
    (b, st, shiftFrom w (cst.toNat % 2 ^ g.width) (extents rc g) [0, 1, 2] u)

/-- The PEs whose sites a PE takes. Log entry 68 (DEDUCED). -/
def shiftOwners (rc : Rect) (g : Geo) (xs : List (Nat × Nat × Except Nat (List Int))) : List Nat :=
  (xs.filterMap fun x => match x.2.2 with
    | .ok c => some (ownerOfSite rc g (c.getD 0 0).toNat (c.getD 1 0).toNat (c.getD 2 0).toNat).1
    | .error _ => none).eraseDups

/-- PSHIFT of one PE, when the data of its neighbours, and of the PEs whose sites it takes, has come. -/
def State.applyShift (s : State) (r : Region) (key : Nat) (w cst : W64) : State × Bool :=
  let d := (s.pe key).plane (shiftDst w)
  let g := d.geo
  let xs := shiftSources r.rect g w cst key
  if !s.raceFrom key (r.raceSides key ++ shiftOwners r.rect g xs) then (s, false)
  else
    let e := (s.pe key).plane (shiftSrc w)
    let ws := xs.map fun x => (x.1, x.2.1, match x.2.2 with
      | .ok c => s.raceVal r.rect key e c
      | .error v => v)
    match s.needBricks key [(e, e.actives)] [(d, d.touched ws)] with
    | .wait t => (t, false)
    | .bad t => (t, true)
    | .here s =>
      let t := (s.onPe key fun p => { p.putSites (shiftDst w) ws with raceOpen := false }.lopDone).tally (bayOf key) 0x1F
        (d.woken ws)
      (t.progressPe key, true)

/-! ## PSTEP_RUN (15 R241) -/

/-- RIP of a neighbour differs, or the neighbour lies beyond an unstitched edge (15 Table 15-6). -/
def State.wallAt (s : State) (rc : Rect) (stitch : W64) (key : Nat) (e : PlaneEntry) (own : Nat) (c : List Int) (a : Nat) (d : Int) :
    Bool :=
  let ext := extents rc e.geo
  let u := wrapCell stitch ext (c.set a (c.getD a 0 + d))
  if insideCell ext u then s.raceVal rc key e u != own else true

/-- The six wall bits of a site. -/
def State.walls (s : State) (rc : Rect) (stitch : W64) (key : Nat) (e : PlaneEntry) (own : Nat) (c : List Int) : Nat :=
  ((List.range (if e.geo.dim = 1 then 4 else 6)).map fun i =>
    if s.wallAt rc stitch key e own c (i / 2) (if i % 2 = 0 then -1 else 1) then 2 ^ i else 0).foldl (· + ·) 0

/-- The lanes of one input plane for a group of sites: q beyond the count, 0 above w·L. -/
def State.inkLanes (s : State) (key n lanes : Nat) (sites : List (Nat × Nat)) : W512 :=
  let p := s.pe key
  let e := p.plane n
  ofLanes e.geo.width ((List.range lanes).map fun i =>
    match sites[i]? with
    | some st => p.siteVal e st.1 st.2
    | none => e.quiet)

/-- A lane group with what SITE delivers for it (15 R242). -/
def State.ruleGroup (s : State) (rc : Rect) (stitch : W64) (win : W64) (key lanes rule : Nat) (sites : List (Nat × Nat)) :
    RuleGroup :=
  let e := (s.pe key).plane (stepRip win)
  let g := e.geo
  let cs := sites.map fun st => siteCoords rc g key st.1 st.2
  let at_ := fun (a : Nat) => ofLanes 16 (cs.map fun c => (c.getD a 0).toNat)
  let own := sites.map fun st => (s.pe key).siteVal e st.1 st.2
  { rule := rule, sites := sites, inputs := (stepIns win).map fun n => s.inkLanes key n lanes sites,
    x := at_ 0, y := at_ 1, z := at_ 2, rules := ofLanes 16 own,
    walls := ofLanes 16 ((own.zip cs).map fun x => s.walls rc stitch key e x.1 x.2) }

/-- Split into pieces of at most `n`. -/
def chunks {α : Type} (n : Nat) : Nat → List α → List (List α)
  | 0, _ => []
  | k + 1, l => if l.isEmpty then [] else l.take n :: chunks n k (l.drop n)

/-- The bricks that PSTEP steps at a PE: active in some input plane. -/
def Pe.stepped (p : Pe) (win : W64) : List Nat :=
  (List.range (p.plane (stepRip win)).geo.count).filter fun b => (stepIns win).any fun n => (p.plane n).active b

/-- The lane count (15 R240). -/
def Pe.laneCount (p : Pe) (win wout : W64) : Nat :=
  512 / ((stepIns win ++ stepOuts wout).foldl (fun m n => max m (p.plane n).geo.width) 16)

/-- The lane groups of a PE, by rule, brick and site (15 R241). -/
def State.groupsOf (s : State) (rc : Rect) (stitch : W64) (win wout : W64) (key : Nat) : List RuleGroup :=
  let p := s.pe key
  let e := p.plane (stepRip win)
  let lanes := p.laneCount win wout
  let sites := (p.stepped win).flatMap fun b => (List.range e.geo.sites).map fun st => (b, st)
  (List.range 8).flatMap fun k =>
    if (p.active.rules.find k).isNone then []
    else
      let mine := sites.filter fun st => p.siteVal e st.1 st.2 == k
      (chunks lanes mine.length mine).map (s.ruleGroup rc stitch win key lanes k)

/-- PSTEP of one PE begins, when the rims of its neighbours have come: every value is read as it stands. -/
def State.beginStep (s : State) (r : Region) (key : Nat) (win wout : W64) (t : LTime) : State × Bool :=
  if !s.raceFrom key (r.raceSides key) then (s, false)
  else
    let p := s.pe key
    match s.needBricks key ((stepRip win :: stepIns win).map fun n => (p.plane n, (p.plane n).actives)) [] with
    | .wait t => (t, false)
    | .bad t => (t, true)
    | .here s =>
      let run : StepRun := ⟨true, wout, t, (s.pe key).laneCount win wout, s.groupsOf r.rect r.stitch win wout key, [],
        Flags.none⟩
      ((s.onPe key fun p => { p with stepRun := run }).tally (bayOf key) 0x1E ((s.pe key).stepped win).length, true)

/-- The operand words of an operation. -/
def LatOp.words : LatOp → List W64
  | .pshift w c => [w, c]
  | .pstep a b => [a, b]
  | _ => []

/-- What RACEMISMATCH names beside its own time: the first operand words of the two that differ, or, where none does, the word and
the other time (15 Table 15-7; log entry 15 (DESIGN CHOICE)). -/
def raceInfo (op : LatOp) (e : RaceData) : W64 × W64 :=
  ((op.words.zip e.op.words).find? fun x => x.1 != x.2).getD (op.word0, e.time)

/-- One PE's part of its collective: it sends its data; it finds that a neighbour has sent other words or another time
(RACEMISMATCH, 15 R235); or it goes on with the data of its neighbours. -/
def State.raceTurn (s : State) (r : Region) (rid key : Nat) (op : LatOp) (t : LTime) : State × Bool :=
  let p := s.pe key
  if !p.raceOpen then
    let e := p.plane op.sentPlane
    match s.needBricks key [(e, e.actives)] [] with
    | .wait u => (u, false)
    | .bad u => (u, true)
    | .here u => (u.sendRace key op t, true)
  else
    match s.raceOther r key op t with
    | some e => (s.unrecoverableAt rid key .racemismatch t (raceInfo op e).1 (raceInfo op e).2, true)
    | none =>
      match op with
      | .pshift w c => s.applyShift r key w c
      | .pstep a b => s.beginStep r key a b t
      | _ => (s, false)

/-- The first PE of a list whose collective can go on does so; pages that others wait for are claimed. -/
def State.raceTurns (want : LatOp → Bool) (r : Region) (rid : Nat) : List Nat → State → State
  | [], s => s
  | k :: ks, s =>
    match (s.pe k).collective with
    | some (op, t) =>
      if want op then
        let x := s.raceTurn r rid k op t
        if x.2 then x.1 else State.raceTurns want r rid ks x.1
      else State.raceTurns want r rid ks s
    | none => State.raceTurns want r rid ks s

/-- A PSHIFT. -/
def LatOp.isShift : LatOp → Bool
  | .pshift _ _ => true
  | _ => false

/-- PSHIFT_RUN (15 R235, R239): a PE of a region whose PSHIFT is due sends its data, or applies the shift. Log entry 15 (DESIGN
CHOICE). -/
def execPshiftRun (region : Nat) (s : State) : Host.Outcome State Fault Refusal :=
  let r := s.region region
  .next (State.raceTurns LatOp.isShift r region r.rect.pes s)

/-- The next lane group of a PE fires (15 R241). -/
def State.fireGroup (s : State) (rid key : Nat) (g : RuleGroup) : State :=
  let p := s.pe key
  let img := Map.get [] p.active.rules g.rule
  let h := imageHeader img
  let f := s.newFrame (.rule key) .rule rid key h (imageSlots img) (blockWord h (Map.get 0 p.active.ruleOffs g.rule)) p.stepRun.time
    p.stamp
  { s with nextId := s.nextId + 1 }.openFrame { f with group := g, lanes := p.stepRun.lanes }

/-- The writes that a PSTEP has gathered for one plane. -/
def StepRun.writesOf (x : StepRun) (n : Nat) : List (Nat × Nat × Nat) :=
  (x.writes.filter fun w => w.plane == n).map fun w => (w.brick, w.site, w.val.toNat)

/-- Every group of a PE has fired: its writes are applied together, and its flags join the node's (15 R241). -/
def State.endStep (s : State) (key : Nat) : State :=
  let x := (s.pe key).stepRun
  let outs := (stepOuts x.wout).eraseDups
  match s.needBricks key [] (outs.map fun n => ((s.pe key).plane n, ((s.pe key).plane n).touched (x.writesOf n))) with
  | .wait s | .bad s => s
  | .here s =>
    let woken := outs.foldl (fun n k => n + ((s.pe key).plane k).woken (x.writesOf k)) 0
    (s.onPe key fun p =>
      let p := outs.foldl (fun (p : Pe) n => p.putSites n (x.writesOf n)) p
      { p with stepRun := StepRun.blank, raceOpen := false, status := statusOr p.status x.flags }.lopDone).tally (bayOf key) 0x1F woken
      |>.progressPe key

/-- The PE of a region whose PSTEP goes on next: one whose next group may fire, or whose writes are due. -/
def State.stepDue (s : State) (r : Region) : Option Nat :=
  r.rect.pes.find? fun k =>
    let p := s.pe k
    p.stepRun.live && !p.marks && !p.stopped && (p.stepRun.groups.isEmpty || !s.running (· == .rule k))

/-- PSTEP_RUN (15 R235, R241): a PE of a region fires the next lane group of its PSTEP, or applies its writes; or one whose
PSTEP is due sends its data, or begins. -/
def execPstepRun (region : Nat) (s : State) : Host.Outcome State Fault Refusal :=
  let r := s.region region
  match s.stepDue r with
  | some k =>
    (match (s.pe k).stepRun.groups with
      | [] => .next (s.endStep k)
      | g :: _ => .next (s.fireGroup region k g))
  | none => .next (State.raceTurns (fun op => !op.isShift) r region r.rect.pes s)

/-! ## MARCH_HANDOFF (15 R245, R246) -/

/-- The ray of a PE that has still to march, with its place. -/
def Pe.nextRay (p : Pe) : Option (Nat × Ray) := findIdx (fun (r : Ray) => r.result.isNone) p.march 0

/-- MARCH_HANDOFF (15 R246): a ray that a PE has issued visits the next PE on its way, whose sites it reads in one step. -/
def execMarchHandoff (pe : Nat) (s : State) : Host.Outcome State Fault Refusal :=
  match (s.pe pe).nextRay, (s.pe pe).region with
  | some (i, x), some rid =>
    let r := s.region rid
    let g := ((s.pe pe).plane x.plane).geo
    let put := fun (s : State) (y : Ray) => s.onPe pe fun p => { p with march := p.march.set i y }
    (match rayPe r.rect r.stitch g x with
      | none => .next (put s (marchAt r.rect r.stitch g pe (s.pe pe) 1 x))
      | some k =>
        let e := (s.pe k).plane x.plane
        match s.needBricks k [(e, e.actives)] [] with
        | .wait s | .bad s => .next s
        | .here s => .next (put s (marchAt r.rect r.stitch e.geo k (s.pe k) 70000 x)))
  | _, _ => .next s

end Sys2Proof.Machine
end

