-- ==== Sys2Proof/Machine/Micro.lean ====
section
/-! DEFINITION. Micro: the default microcode of the coprocessors (22 R341 to R348, R350): raster coverage, depth and blend,
tessellation, texture filter, ray traversal and acceleration-structure builds. -/

namespace Sys2Proof.Machine

/-! ## A call in a unit -/

/-- What a unit knows of the call that it runs. -/
structure Serving where
  die    : Nat
  code   : Nat
  n      : Nat
  region : Nat
  job    : Nat
  pe     : Nat
  xroot  : W64
  deriving DecidableEq, Repr

/-- The machine as the call has left it, and the call's pts (16 R257). -/
structure MicSt where
  s   : State
  pts : Nat

/-- Why a call goes no further. -/
inductive MicEnd where
  /-- a withheld translation holds it -/
  | hold
  /-- it still runs: the unit times out at last -/
  | runs
  /-- BADCALL -/
  | bad
  /-- UNITFAULT -/
  | trap
  /-- XLATE, with a code of Table 5-3 -/
  | xlate (code : Nat)
  /-- MEMERR, with a code of Table 2-4 -/
  | mem (code : Nat)
  deriving DecidableEq, Repr

/-- A part of a call: it changes the machine, and it ends or goes on. -/
abbrev Mic (α : Type) := ExceptT MicEnd (StateM MicSt) α

/-- The physical address of an access of a unit (22 R338; 05 R85). -/
def micAddr (x : Serving) (va : W64) (write : Bool) : Mic Nat := do
  let m ← get
  let w := Waiter.unit x.die x.code x.n
  let who := Translator.unit x.die x.code x.n
  let r := m.s.fetchAddr w who x.region x.job x.xroot va write
  set { m with s := r.1 }
  match r.2 with
  | none => throw .hold
  | some (.error c) => throw (.xlate c.num)
  | some (.ok a) => pure a

/-- What a reply does to a call. -/
def micReply (rep : Reply) : Mic W512 := do
  match rep.err with
  | some e => throw (.mem e.num)
  | none =>
    modify fun m => { m with pts := ptsAfter m.pts rep }
    pure rep.val

/-- Read n bytes that lie within one line. -/
def micRead1 (x : Serving) (va : W64) (n : Nat) : Mic (List Byte) := do
  let a ← micAddr x va false
  let m ← get
  let r := m.s.readNow (BitVec.ofNat 16 x.job) 1 ⟨1, unitNumber x.die x.code x.n⟩ m.pts a n
  set { m with s := r.1 }
  let v ← micReply r.2
  pure (leBytes n v.toNat)

/-- The issuer of a unit's writes: the call, on behalf of its caller (16 R248). -/
def Serving.writer (x : Serving) : Writer := ⟨.node x.pe, false, 0, x.region, x.job⟩

/-- Write bytes that lie within one line; later FENCEs find the write acknowledged (16 R252). -/
def micWrite1 (x : Serving) (va : W64) (bs : List Byte) : Mic Unit := do
  let a ← micAddr x va true
  let m ← get
  let r := m.s.writeNow (BitVec.ofNat 16 x.job) 1 ⟨1, unitNumber x.die x.code x.n⟩ m.pts a bs.length (BitVec.ofNat 512 (leNat bs))
  let s := if r.2.err.isNone then r.1.noteAck x.writer r.1.nextId r.2.wts else r.1
  set { m with s := s }
  let _ ← micReply r.2

/-- The pieces of [va, va + n), split at line boundaries. -/
def linePieces (va : W64) (n : Nat) : List (Nat × Nat) :=
  let o := bits va 5 0
  (List.range (ceilDiv (o + n) 64)).map fun k =>
    let lo := if k = 0 then 0 else 64 * k - o
    (lo, min n (64 * k + 64 - o) - lo)

/-- Read n bytes. -/
def micRead (x : Serving) (va : W64) (n : Nat) : Mic (List Byte) := do
  let ps ← (linePieces va n).mapM fun p => micRead1 x (va + BitVec.ofNat 64 p.1) p.2
  pure ps.flatten

/-- Write bytes. -/
def micWrite (x : Serving) (va : W64) (bs : List Byte) : Mic Unit := do
  let _ ← (linePieces va bs.length).mapM fun p => micWrite1 x (va + BitVec.ofNat 64 p.1) ((bs.drop p.1).take p.2)

/-- Read a little-endian number of n bytes. -/
def micNat (x : Serving) (va : W64) (n : Nat) : Mic Nat := do
  let bs ← micRead x va n
  pure (leNat bs)

/-- What a call returns: a status and the words after the header. -/
abbrev Answer := Nat × List W64

/-- A number as a word. -/
def w64 (n : Nat) : W64 := BitVec.ofNat 64 n

/-- Two halves as a word. -/
def halves (lo hi : Nat) : W64 := packFields 64 [(0, 32, lo), (32, 32, hi)]

/-- Halves k of the words of a record: half 2j is [31:0] of word j. -/
def recHalf (r : W512) (k : Nat) : Nat := bits r (32 * k + 31) (32 * k)

/-! ## Raster coverage (22 R341, R342) -/

/-- A vertex of raw 24.8 coordinates. -/
structure Vtx where
  x : Int
  y : Int
  deriving DecidableEq, Repr

/-- The vertex of a word: X at [31:0], Y at [63:32], both signed. -/
def vtxOf (w : W64) : Vtx := ⟨(BitVec.ofNat 32 (bits w 31 0)).toInt, (BitVec.ofNat 32 (bits w 63 32)).toInt⟩

/-- The coordinates lie in [−2^30, 2^30). -/
def Vtx.fits (v : Vtx) : Bool := -(2 ^ 30) ≤ v.x && v.x < 2 ^ 30 && -(2 ^ 30) ≤ v.y && v.y < 2 ^ 30

/-- The edge function E. -/
def edgeFn (a b p : Vtx) : Int := (b.x - a.x) * (p.y - a.y) - (b.y - a.y) * (p.x - a.x)

/-- A top or a left edge. -/
def inclEdge (a b : Vtx) : Bool := b.y < a.y || (b.y == a.y && a.x < b.x)

/-- The sample of pixel bit k of the tile at (tx, ty). -/
def sampleAt (tx ty k : Nat) : Vtx := ⟨((tx + k % 8) * 256 + 128 : Nat), ((ty + k / 8) * 256 + 128 : Nat)⟩

/-- What coverage gives: CF of a culled triangle, A before the exchange, the vertices after it, whether they were exchanged,
and the covered pixels in ascending order. -/
structure Cover where
  cf    : Nat
  area  : Int
  vs    : List Vtx
  swap  : Bool
  pixels : List Nat
  deriving DecidableEq, Repr

/-- Coverage of a tile (22 R341). -/
def coverOf (v0 v1 v2 : Vtx) (cull tx ty : Nat) : Cover :=
  let a := edgeFn v0 v1 v2
  if a = 0 then ⟨4, a, [v0, v1, v2], false, []⟩
  else if (cull = 1 ∧ a < 0) ∨ (cull = 2 ∧ 0 < a) then ⟨2, a, [v0, v1, v2], false, []⟩
  else
    let u1 := if a < 0 then v2 else v1
    let u2 := if a < 0 then v1 else v2
    let es := [(v0, u1), (u1, u2), (u2, v0)]
    ⟨0, a, [v0, u1, u2], decide (a < 0), (List.range 64).filter fun k =>
      let p := sampleAt tx ty k
      es.all fun e => 0 < edgeFn e.1 e.2 p || (edgeFn e.1 e.2 p == 0 && inclEdge e.1 e.2)⟩

/-- What RAST answers. -/
def rastAnswer (c : Cover) : Answer :=
  (if c.cf = 0 then 0 else 2,
   [w64 (c.pixels.foldl (fun m k => m + 2 ^ k) 0), BitVec.ofInt 64 c.area,
    packFields 64 [(0, 8, c.pixels.length), (8, 3, c.cf)]])

/-- Words of a record that are not all zero. -/
def usesWords (r : W512) (ks : List Nat) : Bool := ks.any fun k => recWord r k != 0

/-- RAST (22 R341, R342). Log entry 85 (DEDUCED). -/
def micRast (x : Serving) (r : W512) : Mic Answer := do
  let f := callFunc r
  let tw := recWord r (if f = 1 then 4 else 5)
  let go := fun (v0 v1 v2 : Vtx) => rastAnswer (coverOf v0 v1 v2 (bits tw 33 32) (bits tw 15 0) (bits tw 31 16))
  if f != 1 && f != 2 then throw .bad
  if bits tw 63 34 != 0 || bits tw 33 32 == 3 then throw .bad
  if f = 1 then
    let vs := [vtxOf (recWord r 1), vtxOf (recWord r 2), vtxOf (recWord r 3)]
    if usesWords r [5, 6, 7] || !vs.all Vtx.fits then throw .bad
    pure (go (vtxOf (recWord r 1)) (vtxOf (recWord r 2)) (vtxOf (recWord r 3)))
  else
    let is := [recHalf r 6, recHalf r 7, recHalf r 8]
    let base := recWord r 1
    if usesWords r [6, 7] || recHalf r 5 != 0 || recHalf r 9 != 0 || base.toNat % 8 != 0 then throw .bad
    if is.any (fun i => recHalf r 4 ≤ i) then pure (2, [0, 0, packFields 64 [(8, 3, 1)]])
    else
      let vs ← is.mapM fun i => do
        let n ← micNat x (base + w64 (8 * i)) 8
        pure (vtxOf (w64 n))
      if !vs.all Vtx.fits then throw .bad
      pure (go (vs.getD 0 ⟨0, 0⟩) (vs.getD 1 ⟨0, 0⟩) (vs.getD 2 ⟨0, 0⟩))

/-! ## Depth and blend (22 R343, R350) -/

/-- A quotient of dyadic numbers rounded once; an exact zero is +0, or −0 in `.rm` (03 R39). -/
def Fmt.quot (f : Fmt) (rnd : Round) (num den : Dy) : Nat :=
  if num.n = 0 then f.signed (zeroSign rnd) 0
  else
    let n := den.n.natAbs
    let k := f.fb + 3 + log2n n
    let m := num.n.natAbs * 2 ^ k
    (f.round rnd (decide (num.n < 0) != decide (den.n < 0)) (jam (m / n) (m % n != 0)) (num.e - den.e - k - 1)).1

/-- A code that is finite. -/
def Fmt.finite (f : Fmt) (c : Nat) : Bool :=
  match f.decode c with
  | .fin _ _ _ => true
  | _ => false

/-- The depth of a pixel: vertices and depths after the exchange (22 R343). -/
def depthAt (vs : List Vtx) (zs : List Nat) (area : Int) (p : Vtx) : Nat :=
  let v := fun k => vs.getD k ⟨0, 0⟩
  let term := fun (a b z : Nat) => Dy.mul ⟨edgeFn (v a) (v b) p, 0⟩ (fp32.decode (zs.getD z 0)).dy
  fp32.quot .rn (Dy.sum [term 1 2 0, term 2 0 1, term 0 1 2]) ⟨area.natAbs, 0⟩

/-- The depth comparison: NaN fails all but always. -/
def zTest (op z zs : Nat) : Bool :=
  match op with
  | 0 => true
  | 1 => (fp32.cmp .lt z zs).1
  | 2 => (fp32.cmp .le z zs).1
  | 3 => (fp32.cmp .lt zs z).1
  | 4 => (fp32.cmp .le zs z).1
  | _ => false

/-- Channel c of an RGBA8 word. -/
def chan (w c : Nat) : Nat := w / 256 ^ c % 256

/-- Over (22 R343). -/
def blendOver (src d : Nat) : Nat :=
  let a := chan src 3
  let mix := fun (p q : Nat) => (p * a + q * (255 - a) + 127) / 255
  mix (chan src 0) (chan d 0) + 256 * mix (chan src 1) (chan d 1) + 65536 * mix (chan src 2) (chan d 2) +
    16777216 * mix 255 (chan d 3)

/-- The coverage of a ZB record. -/
def zbCover (r : W512) : Cover :=
  let w := recWord r 6
  coverOf (vtxOf (recWord r 1)) (vtxOf (recWord r 2)) (vtxOf (recWord r 3)) (bits w 33 32) (bits w 15 0) (bits w 31 16)

/-- A ZB record breaks Table 22-7. -/
def badZb (r : W512) : Bool :=
  let w := recWord r 6
  callFunc r != 1 || bits w 63 40 != 0 || bits w 33 32 == 3 || 5 < bits w 36 34 || bits w 39 38 ≥ 2 ||
  !([vtxOf (recWord r 1), vtxOf (recWord r 2), vtxOf (recWord r 3)].all Vtx.fits) ||
  !([recHalf r 8, recHalf r 9, recHalf r 10].all fp32.finite) || (recWord r 7).toNat % 64 != 0

/-- The fragments of a held call (22 R336). -/
def zbFragments (r : W512) : Nat := if badZb r then 0 else (zbCover r).pixels.length

/-- A pixel that is covered and lies in the surface: whether it passed. -/
def zbPixel (x : Serving) (r : W512) (c : Cover) (zs : List Nat) (cb db : W64) (width k : Nat) : Mic Bool := do
  let w := recWord r 6
  let px := bits w 15 0 + k % 8
  let py := bits w 31 16 + k / 8
  let off := w64 (4 * (py * width + px))
  let z := depthAt c.vs zs c.area (sampleAt (bits w 15 0) (bits w 31 16) k)
  let pass ← if db = 0 then pure (bits w 36 34 != 5)
    else do
      let old ← micNat x (db + off) 4
      pure (zTest (bits w 36 34) z old)
  if !pass then pure false
  else
    if bitAt w 37 && db != 0 then micWrite x (db + off) (leBytes 4 z)
    let src := recHalf r 11
    if bits w 39 38 = 1 then
      let d ← micNat x (cb + off) 4
      micWrite x (cb + off) (leBytes 4 (blendOver src d))
    else micWrite x (cb + off) (leBytes 4 src)
    pure true

/-- ZB FRAG (22 R343): pixels in ascending 8j + i. -/
def micZb (x : Serving) (r : W512) : Mic Answer := do
  if badZb r then throw .bad
  let c := zbCover r
  if c.cf != 0 then pure (2, [0, 0, packFields 64 [(8, 3, c.cf)]])
  else
    let surf := recWord r 7
    let ds ← micRead x surf 24
    let cb := w64 (leNat (ds.take 8))
    let db := w64 (leNat ((ds.drop 8).take 8))
    let wd := leNat ((ds.drop 16).take 2)
    let ht := leNat ((ds.drop 18).take 2)
    if cb.toNat % 4 != 0 || db.toNat % 4 != 0 then throw .bad
    let w := recWord r 6
    let z := fun k => recHalf r (8 + k)
    let zs := if c.swap then [z 0, z 2, z 1] else [z 0, z 1, z 2]
    let ins := c.pixels.filter fun k => bits w 15 0 + k % 8 < wd && bits w 31 16 + k / 8 < ht
    let ps ← ins.mapM (zbPixel x r c zs cb db wd)
    pure (0, [packFields 64 [(0, 8, (ps.filter id).length), (8, 8, ins.length)]])

/-! ## Tessellation (22 R344) -/

/-- idx(a, b). -/
def tessIdx (a b : Nat) : Nat := a * (a + 1) / 2 + b

/-- The vertices of a patch: a and b in the order of their index. -/
def tessVerts (n : Nat) : List (Nat × Nat) := (List.range (n + 1)).flatMap fun a => (List.range (a + 1)).map fun b => (a, b)

/-- The primitives of a patch. -/
def tessPrims (n : Nat) : List (List Nat) :=
  (List.range n).flatMap fun a => (List.range (a + 1)).flatMap fun b =>
    [tessIdx a b, tessIdx (a + 1) b, tessIdx (a + 1) (b + 1)] ::
      (if b < a then [[tessIdx a b, tessIdx (a + 1) (b + 1), tessIdx a (b + 1)]] else [])

/-- A component of a vertex. -/
def tessComp (n a b : Nat) (p : Nat → Nat) : Nat :=
  let term := fun (k i : Nat) => Dy.mul ⟨k, 0⟩ (fp32.decode (p i)).dy
  fp32.quot .rn (Dy.sum [term (n - a) 0, term (a - b) 1, term b 2]) ⟨n, 0⟩

/-- TESS PATCH (22 R344). -/
def micTess (x : Serving) (r : W512) : Mic Answer := do
  let w5 := recWord r 5
  let ps := (List.range 9).map fun k => recHalf r (2 + k)
  let n := bits w5 37 32 + 1
  let vout := recWord r 6
  if callFunc r != 1 || bitAt w5 63 || !ps.all fp32.finite || vout.toNat % 4 != 0 then throw .bad
  let vs := tessVerts n
  let qs := tessPrims n
  let nv := min vs.length (bits w5 62 51)
  let np := min qs.length (bits w5 50 38)
  let _ ← (List.range nv).mapM fun v => do
    let ab := vs.getD v (0, 0)
    let bs := (List.range 3).flatMap fun c => leBytes 4 (tessComp n ab.1 ab.2 fun i => ps.getD (3 * i + c) 0)
    micWrite x (vout + w64 (12 * v)) bs
  let _ ← (List.range np).mapM fun k => micWrite x (recWord r 7 + w64 (12 * k)) ((qs.getD k []).flatMap (leBytes 4))
  pure (if nv < vs.length || np < qs.length then 1 else 0, [halves vs.length qs.length, halves nv np])

/-! ## Texture filter (22 R345) -/

/-- The texel that a coordinate names. -/
def wrapTexel (clamp : Bool) (i : Int) (n : Nat) : Nat :=
  if clamp then (min (max i 0) (n - 1)).toNat else (i % n).toNat

/-- One bilinear sample. -/
def micSample (x : Serving) (base : W64) (lw lh : Nat) (cu cv : Bool) (u v : Int) : Mic Nat := do
  let us := u - 0x8000
  let vs := v - 0x8000
  let iu := us / 65536
  let iv := vs / 65536
  let fu := (us / 256 % 256).toNat
  let fv := (vs / 256 % 256).toNat
  let texel := fun (k l : Int) =>
    micNat x (base + w64 (4 * (wrapTexel cv (iv + l) (2 ^ lh) * 2 ^ lw + wrapTexel cu (iu + k) (2 ^ lw)))) 4
  let t00 ← texel 0 0
  let t10 ← texel 1 0
  let t01 ← texel 0 1
  let t11 ← texel 1 1
  pure (((List.range 4).map fun c =>
    ((chan t00 c * (256 - fu) * (256 - fv) + chan t10 c * fu * (256 - fv) + chan t01 c * (256 - fu) * fv +
      chan t11 c * fu * fv + 0x8000) / 65536) * 256 ^ c).foldl (· + ·) 0)

/-- TFIL SAMPLE (22 R345). Log entry 85 (DEDUCED). -/
def micTfil (x : Serving) (r : W512) : Mic Answer := do
  let w2 := recWord r 2
  let base := recWord r 1
  if callFunc r != 1 || bits w2 63 12 != 0 || bitAt w2 9 || bitAt w2 11 || base.toNat % 4 != 0 || bits (recWord r 7) 63 2 != 0
  then throw .bad
  let cs ← (List.range (bits (recWord r 7) 1 0 + 1)).mapM fun k =>
    micSample x base (bits w2 3 0) (bits w2 7 4) (bitAt w2 8) (bitAt w2 10)
      (BitVec.ofNat 32 (recHalf r (6 + 2 * k))).toInt (BitVec.ofNat 32 (recHalf r (7 + 2 * k))).toInt
  let c := fun k => cs.getD k 0
  pure (0, [halves (c 0) (c 1), halves (c 2) (c 3)])

/-! ## Ray traversal (22 R346, R347) -/

/-- A product of values; 0 × ∞ is a NaN. Log entry 29 (DEDUCED). -/
def FVal.times (a b : FVal) : FVal :=
  match a, b with
  | .nan c, _ => .nan c
  | _, .nan c => .nan c
  | a, b => if a.zeroInf b then .nan fp32.nanCode else a.prod b

/-- The negation. -/
def FVal.minus : FVal → FVal
  | .inf s => .inf (!s)
  | .fin s m e => .fin (!s) m e
  | v => v

/-- RoundTo(f, rn, Exact(sum)): a NaN among the terms, or infinities of both signs, give a NaN (log entry 29 (DEDUCED)). -/
def Fmt.sumOf (f : Fmt) (ts : List FVal) : FVal :=
  if bothInf ts || ts.any (fun t => t.nanCode?.isSome) then .nan f.nanCode
  else
    match infSign ts with
    | some s => .inf s
    | none => f.decode (f.roundDy .rn false (Dy.sum (ts.map FVal.dy))).1

/-- R32 of a quotient. Log entry 29 (DEDUCED). -/
def FVal.over (a b : FVal) : FVal :=
  match a, b with
  | .fin _ _ _, .fin t n _ =>
    if n = 0 then (if a.dy.n = 0 then .nan fp32.nanCode else .inf (a.isNeg != t))
    else fp32.decode (fp32.quot .rn a.dy b.dy)
  | .inf s, .fin t _ _ => .inf (s != t)
  | .fin s _ _, .inf t => .fin (s != t) 0 0
  | _, _ => .nan fp32.nanCode

/-- The FP32 code of a value that is one of FP32. -/
def FVal.code32 : FVal → Nat
  | .nan c => c
  | .inf s => fp32.signed s fp32.infCode
  | .fin s m e => (fp32.round .rn s m e).1

/-- a < b of values: −1, 0 or 1; none with a NaN. -/
def FVal.cmp3 (a b : FVal) : Option Int :=
  match a, b with
  | .nan _, _ => none
  | _, .nan _ => none
  | .inf s, .inf t => some (if s = t then 0 else if s then -1 else 1)
  | .inf s, _ => some (if s then -1 else 1)
  | _, .inf t => some (if t then 1 else -1)
  | a, b => some (Dy.cmp a.dy b.dy)

/-- a ≤ b. Log entry 29 (DEDUCED). -/
def FVal.le3 (a b : FVal) : Bool :=
  match a.cmp3 b with
  | some c => c ≤ 0
  | none => false

/-- a < b. Log entry 29 (DEDUCED). -/
def FVal.lt3 (a b : FVal) : Bool :=
  match a.cmp3 b with
  | some c => c < 0
  | none => false

/-- The value zero. -/
def FVal.zero : FVal := .fin false 0 0

/-- A ray: origin, direction and interval, all finite. -/
structure March where
  o    : List FVal
  d    : List FVal
  tmin : FVal
  tmax : FVal
  deriving DecidableEq, Repr

/-- Component a of the origin. -/
def March.org (m : March) (a : Nat) : FVal := m.o.getD a .zero
/-- Component a of the direction. -/
def March.dir (m : March) (a : Nat) : FVal := m.d.getD a .zero

/-- (b − o)/d rounded one way; an infinite bound keeps its sign against d. -/
def slabEnd (rnd : Round) (b o d : FVal) : FVal :=
  match b with
  | .nan c => .nan c
  | .inf s => .inf (s != d.isNeg)
  | _ => fp32.decode (fp32.quot rnd (Dy.add b.dy o.dy.neg) d.dy)

/-- The near and the far end of an axis' slab; none when it is empty (22 R346). -/
def slab (lo hi o d : FVal) : Option (FVal × FVal) :=
  if d.dy.n = 0 then (if lo.le3 o && o.le3 hi then some (.inf true, .inf false) else none)
  else
    let n1 := slabEnd .rm lo o d
    let n2 := slabEnd .rm hi o d
    let f1 := slabEnd .rp lo o d
    let f2 := slabEnd .rp hi o d
    match n1.cmp3 n2 with
    | none => none
    | some _ => some (if n1.le3 n2 then n1 else n2, if f1.le3 f2 then f2 else f1)

/-- The greatest of some values. -/
def maxVal (vs : List FVal) : FVal := vs.foldl (fun m v => if m.lt3 v then v else m) (.inf true)
/-- The least. -/
def minVal (vs : List FVal) : FVal := vs.foldl (fun m v => if v.lt3 m then v else m) (.inf false)

/-- A child box: its near end when it is entered. -/
def March.enters (m : March) (box : List FVal) (tcur : FVal) : Option FVal :=
  let ss := (List.range 3).map fun a => slab (box.getD a .zero) (box.getD (3 + a) .zero) (m.org a) (m.dir a)
  if ss.any Option.isNone then none
  else
    let es := ss.filterMap id
    let near := maxVal (es.map Prod.fst)
    if (maxVal [near, m.tmin]).le3 (minVal (es.map Prod.snd ++ [tcur])) then some near else none

/-- The axes of the shear: kx, ky, kz (22 R347). -/
def March.axes (m : March) : Nat × Nat × Nat :=
  let mag := fun a => ({ (m.dir a).dy with n := (m.dir a).dy.n.natAbs } : Dy)
  let k1 := if Dy.cmp (mag 0) (mag 1) < 0 then 1 else 0
  let kz := if Dy.cmp (mag k1) (mag 2) < 0 then 2 else k1
  let kx := (kz + 1) % 3
  let ky := (kx + 1) % 3
  if (m.dir kz).dy.n < 0 then (ky, kx, kz) else (kx, ky, kz)

/-- A vertex after the shear: P.x, P.y and Z. -/
structure Sheared where
  x : FVal
  y : FVal
  z : FVal
  deriving DecidableEq, Repr

/-- Shear a vertex. -/
def March.shear (m : March) (v : List FVal) : Sheared :=
  let (kx, ky, kz) := m.axes
  let sx := (m.dir kx).over (m.dir kz)
  let sy := (m.dir ky).over (m.dir kz)
  let sz := (FVal.fin false 1 0).over (m.dir kz)
  let a := fun k => fp32.sumOf [v.getD k .zero, (m.org k).minus]
  ⟨fp32.sumOf [a kx, (sx.times (a kz)).minus], fp32.sumOf [a ky, (sy.times (a kz)).minus], fp32.sumOf [sz.times (a kz)]⟩

/-- f(P, Q): in FP32, and in FP64 where that is zero. -/
def crossFn (p q : Sheared) : FVal :=
  let ts := [p.x.times q.y, (p.y.times q.x).minus]
  let e := fp32.sumOf ts
  match e with
  | .fin _ 0 _ => fp64.sumOf ts
  | v => v

/-- A hit: distance, barycentrics of the second and third vertex, and the side. -/
structure RayHit where
  t    : FVal
  bu   : FVal
  bv   : FVal
  side : Nat
  deriving DecidableEq, Repr

/-- Test one triangle from its three edge values and depths. -/
def triangleHit (u v w za zb zc : FVal) (side : Nat) : Option RayHit :=
  let pos := [u, v, w].all fun e => FVal.zero.le3 e
  let neg := [u, v, w].all fun e => e.le3 .zero
  let det := fp32.sumOf [u, v, w]
  match det.cmp3 .zero with
  | none => none
  | some c =>
    if (pos || neg) && c != 0 then
      let t := (fp32.sumOf [u.times za, v.times zb, w.times zc]).over det
      some ⟨t, v.over det, w.over det, side⟩
    else none

/-- The hits of a pair, T0 before T1 (22 R347). -/
def March.pairHits (m : March) (vs : List (List FVal)) (two : Bool) : List RayHit :=
  let p := fun k => m.shear (vs.getD k [])
  let e12 := crossFn (p 1) (p 2)
  let t0 := triangleHit e12 (crossFn (p 2) (p 0)) (crossFn (p 0) (p 1)) (p 0).z (p 1).z (p 2).z 0
  let t1 := triangleHit (crossFn (p 1) (p 3)) (crossFn (p 3) (p 2)) e12.minus (p 2).z (p 1).z (p 3).z 1
  t0.toList ++ (if two then t1.toList else [])

/-- Where a traversal stands. -/
structure Walk22 where
  stack : List W64
  best  : Option (RayHit × Nat)
  tcur  : FVal
  visits : Nat
  deriving DecidableEq, Repr

/-- Accept the hits of a pair in order. -/
def acceptHits (m : March) (prim : Nat) : List RayHit → Walk22 → Walk22
  | [], s => s
  | h :: hs, s =>
    acceptHits m prim hs
      (if m.tmin.le3 h.t && h.t.le3 m.tmax && (s.best.isNone || h.t.lt3 s.tcur) then
        { s with best := some (h, prim), tcur := h.t } else s)

/-- FP32 values of bytes. -/
def floatsOf (bs : List Byte) (n : Nat) : List FVal := (List.range n).map fun k => fp32.decode (leNat ((bs.drop (4 * k)).take 4))

/-- The address of a child word. -/
def childAddr (w : W64) : W64 := sext64 55 (bits w 54 0)

/-- Test the pairs of a leaf in order; ANY ends at the first accepted hit. -/
def leafPairs (x : Serving) (m : March) (any : Bool) (a : W64) : List Nat → Walk22 → Mic Walk22
  | [], s => pure s
  | k :: ks, s => do
    if any && s.best.isSome then pure s
    else
      let bs ← micRead x (a + w64 (64 * k)) 64
      let vs := (List.range 4).map fun i => floatsOf (bs.drop (12 * i)) 3
      let hs := m.pairHits vs (leNat ((bs.drop 52).take 1) % 2 == 1)
      let hs := if any then hs.filter (fun h => m.tmin.le3 h.t && h.t.le3 m.tmax) |>.take 1 else hs
      leafPairs x m any a ks (acceptHits m (leNat ((bs.drop 48).take 4)) hs s)

/-- A child word that breaks Table 22-10. -/
def badChild (w : W64) : Bool := bitAt w 55 || bits w 5 0 != 0

/-- Push what a node's children leave to visit, the nearer on top. Log entry 59 (DEDUCED). -/
def pushChildren (m : March) (bs : List Byte) (s : Walk22) : Option Walk22 :=
  let cw := fun (k : Nat) => w64 (leNat ((bs.drop (48 + 8 * k)).take 8))
  let en := fun (k : Nat) => if cw k = 0 then none else m.enters (floatsOf (bs.drop (24 * k)) 6) s.tcur
  let st := match en 0, en 1 with
    | none, none => s.stack
    | some _, none => cw 0 :: s.stack
    | none, some _ => cw 1 :: s.stack
    | some n0, some n1 => if n1.lt3 n0 then cw 1 :: cw 0 :: s.stack else cw 0 :: cw 1 :: s.stack
  if 65 < st.length then none else some { s with stack := st }

/-- Visit what the stack holds, its top first. The top is the child visited next; 64 entries may wait below it. Log entry 59
(DEDUCED). -/
def traverse (x : Serving) (m : March) (any : Bool) : Nat → Walk22 → Mic Walk22
  | 0, _ => throw .runs
  | n + 1, s => do
    match s.stack with
    | [] => pure s
    | w :: st =>
      if any && s.best.isSome then pure s
      else
        let s := { s with stack := st }
        if bitAt w 63 then
          let s ← leafPairs x m any (childAddr w) (List.range (bits w 62 56 + 1)) s
          traverse x m any n s
        else
          let bs ← micRead x (childAddr w) 64
          let cw := fun (k : Nat) => w64 (leNat ((bs.drop (48 + 8 * k)).take 8))
          if badChild (cw 0) || badChild (cw 1) then throw .bad
          match pushChildren m bs { s with visits := s.visits + 1 } with
          | none => throw .trap
          | some s => traverse x m any n s

/-- RTRAV CLOSEST and ANY (22 R346). -/
def micRtrav (x : Serving) (r : W512) : Mic Answer := do
  let f := callFunc r
  let cs := (List.range 6).map fun k => recHalf r (2 + k)
  let ts := [recHalf r 8, recHalf r 9]
  let v := fun (c : Nat) => fp32.decode c
  let m : March := ⟨(cs.take 3).map v, (cs.drop 3).map v, v (recHalf r 8), v (recHalf r 9)⟩
  if (f != 1 && f != 2) || usesWords r [6, 7] || !(cs ++ ts).all fp32.finite || m.d.all (fun e => e.dy.n == 0) then throw .bad
  let root := packFields 64 [(0, 55, (recWord r 5).toNat)]
  if !canonical (recWord r 5) then throw (.xlate XlCode.noncanon.num)
  let s ← traverse x m (f == 2) (2 ^ 24) ⟨[root], none, m.tmax, 0⟩
  match s.best with
  | none => pure (0, [0, 0, halves 0 s.visits])
  | some (h, prim) =>
    pure (0, [halves h.t.code32 prim, halves h.bu.code32 h.bv.code32, halves (1 + 2 * h.side) s.visits])

/-! ## Acceleration-structure builds (22 R348) -/

/-- A pair as BUILD sees it: its bytes, its box (min x, y, z, max x, y, z as FP32 codes) and its Morton code. -/
structure BuildPair where
  bytes : List Byte
  box   : List Nat
  code  : Nat
  deriving DecidableEq, Repr

/-- The lesser and the greater of two FP32 codes. -/
def minCode (a b : Nat) : Nat := if fp32.order b a < 0 then b else a
/-- The greater. -/
def maxCode (a b : Nat) : Nat := if fp32.order a b < 0 then b else a

/-- The union of two boxes. -/
def unionBox (a b : List Nat) : List Nat :=
  (List.range 6).map fun k => if k < 3 then minCode (a.getD k 0) (b.getD k 0) else maxCode (a.getD k 0) (b.getD k 0)

/-- The union of some boxes. -/
def unionAll : List (List Nat) → List Nat
  | [] => []
  | b :: bs => bs.foldl unionBox b

/-- The FP32 codes of the vertices of a pair: v3 only where T1 is present. -/
def pairVerts (bs : List Byte) : List (List Nat) :=
  (List.range (if leNat ((bs.drop 52).take 1) % 2 = 1 then 4 else 3)).map fun i =>
    (List.range 3).map fun c => leNat ((bs.drop (12 * i + 4 * c)).take 4)

/-- Twice the centroid of a box along an axis. -/
def centroid2 (box : List Nat) (a : Nat) : Dy :=
  Dy.add (fp32.decode (box.getD a 0)).dy (fp32.decode (box.getD (3 + a) 0)).dy

/-- The quantised coordinate of a centroid between bounds. -/
def mortonAxis (c lo hi : Dy) : Nat :=
  let num := Dy.add c lo.neg
  let den := Dy.add hi lo.neg
  if den.n = 0 then 0
  else
    let e := min num.e den.e
    let n := num.n.natAbs * 2 ^ (num.e - e).toNat
    let d := den.n.natAbs * 2 ^ (den.e - e).toNat
    min 1023 (1024 * n / d)

/-- Bits of a coordinate spread three apart. -/
def spread3 (q : Nat) : Nat := (List.range 10).foldl (fun m i => m + (q / 2 ^ i % 2) * 2 ^ (3 * i)) 0

/-- Insert by code; equal codes keep their order. -/
def insertPair (p : BuildPair) : List BuildPair → List BuildPair
  | [] => [p]
  | q :: qs => if p.code < q.code then p :: q :: qs else q :: insertPair p qs

/-- The least and the greatest of some dyadic numbers. -/
def boundsOf (ds : List Dy) : Dy × Dy :=
  match ds with
  | [] => (Dy.zero, Dy.zero)
  | d :: ds => ds.foldl (fun b x => (if Dy.cmp x b.1 < 0 then x else b.1, if Dy.cmp b.2 x < 0 then x else b.2)) (d, d)

/-- The pairs with their codes, sorted. -/
def sortPairs (ps : List BuildPair) : List BuildPair :=
  let bs := (List.range 3).map fun a => boundsOf (ps.map fun p => centroid2 p.box a)
  let q := fun (p : BuildPair) (a : Nat) =>
    let b := bs.getD a (Dy.zero, Dy.zero)
    mortonAxis (centroid2 p.box a) b.1 b.2
  let coded := ps.map fun p => { p with code := 4 * spread3 (q p 0) + 2 * spread3 (q p 1) + spread3 (q p 2) }
  coded.foldl (fun l p => insertPair p l) []

/-- Where a range splits: the first index of its upper part. -/
def splitAt (ps : List BuildPair) (lo hi : Nat) : Nat :=
  let code := fun i => (ps.getD i ⟨[], [], 0⟩).code
  let x := code lo ^^^ code hi
  if x = 0 then (lo + hi + 1) / 2
  else
    let b := log2n x
    match (List.range (hi + 1 - lo)).find? fun k => code (lo + k) / 2 ^ b % 2 = 1 with
    | some k => lo + k
    | none => (lo + hi + 1) / 2

/-- The box of a range. -/
def rangeBox (ps : List BuildPair) (lo hi : Nat) : List Nat := unionAll (((ps.drop lo).take (hi + 1 - lo)).map (·.box))

/-- A node: boxes and child words. -/
structure BuildNode where
  box0 : List Nat
  box1 : List Nat
  cw0  : W64
  cw1  : W64
  deriving DecidableEq, Repr

/-- The child word of a leaf. -/
def leafWord (pout : W64) (lo hi : Nat) : W64 :=
  packFields 64 [(63, 1, 1), (56, 7, hi - lo), (0, 55, (pout + w64 (64 * lo)).toNat)]

/-- The nodes of a range of more than four pairs in preorder, the first with number `k`. -/
def buildNodes (ps : List BuildPair) (out pout : W64) : Nat → Nat → Nat → Nat → List BuildNode
  | 0, _, _, _ => []
  | n + 1, k, lo, hi =>
    let m := splitAt ps lo hi
    let left := if m - lo ≤ 4 then [] else buildNodes ps out pout n (k + 1) lo (m - 1)
    let k2 := k + 1 + left.length
    let right := if hi + 1 - m ≤ 4 then [] else buildNodes ps out pout n k2 m hi
    let at_ := fun (j : Nat) => packFields 64 [(0, 55, (out + w64 (64 * j)).toNat)]
    ⟨rangeBox ps lo (m - 1), rangeBox ps m hi, if left.isEmpty then leafWord pout lo (m - 1) else at_ (k + 1),
      if right.isEmpty then leafWord pout m hi else at_ k2⟩ :: (left ++ right)

/-- The 64 bytes of a node. -/
def BuildNode.bytes (b : BuildNode) : List Byte :=
  (b.box0 ++ b.box1).flatMap (leBytes 4) ++ leBytes 8 b.cw0.toNat ++ leBytes 8 b.cw1.toNat

/-- A free value (log entry 12 (DESIGN CHOICE)). -/
def micFree : Mic W64 := do
  let m ← get
  set { m with s := { m.s with freeCount := m.s.freeCount + 1 } }
  pure (Config.freeValue m.s.freeCount)

/-- The box of an empty child: the manual states no value (log entry 30 (DESIGN CHOICE)). -/
def freeBox : Mic (List Nat) := (List.range 6).mapM fun _ => do
  let v ← micFree
  pure (v.toNat % 2 ^ 32)

/-- ASB BUILD (22 R348). Log entry 85 (DEDUCED). Log entry 107 (DESIGN CHOICE). -/
def micAsb (x : Serving) (r : W512) : Mic Answer := do
  let np := recHalf r 4
  let out := recWord r 3
  let maxn := recHalf r 8
  let pout := recWord r 5
  if callFunc r != 1 || usesWords r [6, 7] || recHalf r 5 != 0 || recHalf r 9 != 0 || np = 0 || 2 ^ 20 < np ||
    out.toNat % 64 != 0 || pout.toNat % 64 != 0 then throw .bad
  let raw ← (List.range np).mapM fun i => micRead x (recWord r 1 + w64 (64 * i)) 64
  if raw.any (fun bs => (pairVerts bs).any fun v => !v.all fp32.finite) then throw .bad
  let ps := sortPairs (raw.map fun bs => ⟨bs, unionAll ((pairVerts bs).map fun v => v ++ v), 0⟩)
  let _ ← (List.range np).mapM fun i => micWrite x (pout + w64 (64 * i)) (ps.getD i ⟨[], [], 0⟩).bytes
  let nodes ← if np ≤ 4 then do
      let b ← freeBox
      pure [⟨rangeBox ps 0 (np - 1), b, leafWord pout 0 (np - 1), 0⟩]
    else pure (buildNodes ps out pout np 0 0 (np - 1))
  let _ ← (List.range (min nodes.length maxn)).mapM fun k =>
    micWrite x (out + w64 (64 * k)) (nodes.getD k ⟨[], [], 0, 0⟩).bytes
  pure (if maxn < nodes.length then 1 else 0, [halves nodes.length (min nodes.length maxn)])

/-- Run a call in its unit: a reserved bit of its header makes it BADCALL (22 Tables 22-1, 22-3; CALLQ has refused such a
record before, a batch's has not been checked). Log entry 85 (DEDUCED). -/
def microcode (x : Serving) (q : Queue) (r : W512) : Mic Answer := do
  if bitAt r 22 || bits r 9 8 != 0 then throw .bad
  match q with
  | .rast => micRast x r
  | .zb => micZb x r
  | .tess => micTess x r
  | .tfil => micTfil x r
  | .rtrav => micRtrav x r
  | .asb => micAsb x r

/-- The return record (22 Tables 22-2, 22-3). -/
def returnRecord (r : W512) (unit : Nat) (a : Answer) : W512 :=
  packFields 512 ([(32, 32, callSeq r), (24, 8, callDom r), (16, 8, callFunc r), (8, 8, unit), (0, 8, a.1)] ++
    a.2.zipIdx.map fun p => (64 * (p.2 + 1), 64, p.1.toNat))

end Sys2Proof.Machine
end

