-- ==== Sys2Proof/Machine/CoproEv.lean ====
section
/-! DEFINITION. CoproEv: the coprocessor queues and units: taking a call, its return, held ZB calls, faults inside a unit and
the marker (22 R325 to R340, R425). -/

namespace Sys2Proof.Machine

/-- The units of each type on a die (22 R325). -/
def unitCount : Queue → Nat
  | .rast => 4
  | .zb => 8
  | .tess => 2
  | .tfil => 8
  | .rtrav => 8
  | .asb => 2

/-- The key of a unit in its die's map. -/
def unitKey (q : Queue) (n : Nat) : Nat := 8 * queueCode q + n

/-- The calls of a queue, in arrival order. -/
def Copro.queue (c : Copro) (q : Queue) : List Call := Map.get [] c.queues (queueCode q)

/-- A unit. -/
def Copro.unit (c : Copro) (q : Queue) (n : Nat) : Unit_ := Map.get Unit_.blank c.units (unitKey q n)

/-- Change the coprocessors of a die. -/
def State.onCopro (s : State) (d : Nat) (g : Copro → Copro) : State := s.onDie d fun x => { x with copro := g x.copro }

/-- Change a unit. -/
def State.onCoUnit (s : State) (d : Nat) (q : Queue) (n : Nat) (g : Unit_ → Unit_) : State :=
  s.onCopro d fun c => { c with units := Map.modify Unit_.blank c.units (unitKey q n) g }

/-- A unit of a die. -/
def State.unit (s : State) (d : Nat) (q : Queue) (n : Nat) : Unit_ := (s.die d).copro.unit q n

/-- The ordering domain by which a ZB call with `.ord` is given to a unit: its DOM, or for a batch one of its own, for which
the entry's index stands (22 R325; 21 Table 21-2). -/
def Call.domain (c : Call) : Nat :=
  match c.batch with
  | some b => b.2.1
  | none => callDom c.record

/-- The bay whose counters count a call. -/
def Call.bay (c : Call) : Nat := bayOf c.pe

/-- Count changes of a call; the calls of a batch are not counted (21 Table 21-3). -/
def State.countCall (s : State) (c : Call) (cs : List CountChange) : State :=
  if c.batch.isSome then s else s.emitCounts c.bay c.job c.region cs c.pts

/-- SYS_XROOT of a call: of its region, or of the batch's job (22 R338). -/
def State.callRoot (s : State) (c : Call) : W64 :=
  if c.batch.isSome then (s.job c.job).xroot else (s.region c.region).xroot

/-! ## A call in its unit -/

/-- The calls of a job that a unit holds return ABORTED, and the unit discards the job's state (22 R337). -/
def Unit_.reset (u : Unit_) (job n cycle : Nat) : Unit_ :=
  let gone := u.held.filter fun h => h.2.job == job
  { u with resident := none, control := [], held := u.held.filter (fun h => h.2.job != job),
           ready := u.ready ++ gone.map fun h => ⟨h.2, cycle, some (returnRecord h.2.record n (0x11, [])), h.2.pts⟩ }

/-- A call ends with an answer; `fault` says that it faulted inside the unit (22 R331, R337). -/
def State.endCall (s : State) (d : Nat) (q : Queue) (n : Nat) (r : Running) (a : Answer) (fault : Bool) : State :=
  let s := s.unwithholdAll (.unit d (queueCode q) n)
  s.onCoUnit d q n fun u =>
    let u := { u with running := none,
                      ready := u.ready ++ [{ r with ret := some (returnRecord r.call.record n a), since := s.cycle }] }
    if fault then u.reset r.call.job n s.cycle else u

/-- Run a call, from its start: its accesses are made here, in order (log entry 16 (DEDUCED)). A call held by a withheld
translation has made none, and starts again (22 R338). Log entry 73 (DEDUCED). -/
def State.serve (s : State) (d : Nat) (q : Queue) (n : Nat) (r : Running) : State :=
  let x : Serving := ⟨d, queueCode q, n, r.call.region, r.call.job, r.call.pe, s.callRoot r.call⟩
  let m := ((microcode x q r.call.record).run.run ⟨s, r.pts⟩ : Except MicEnd Answer × MicSt)
  let t := m.2.s
  let r' := { r with pts := m.2.pts }
  let keep := s.onCoUnit d q n fun u => { u with running := some r }
  match m.1 with
  | .ok a => t.endCall d q n r' a false
  | .error .hold =>
    let keep := if r.call.batch.isSome || t.withheld == s.withheld then keep else keep.tally r.call.bay 0x1B 1
    { keep with withheld := t.withheld }
  | .error .runs => keep
  | .error .bad => t.endCall d q n r' (3, []) false
  | .error .trap => t.endCall d q n r' (0x10, []) true
  | .error (.xlate c) => t.endCall d q n r' (0x12, [w64 c]) false
  | .error (.mem c) => t.endCall d q n r' (0x13, [w64 c]) false

/-! ## CALL_TAKE (22 R325, R334, R336, R339) -/

/-- The call that a unit takes next: the head of the queue, calls behind a marker apart (22 R340); a ZB call with `.ord` goes
to unit DOM mod 8 alone. -/
def Copro.next (c : Copro) (q : Queue) (n : Nat) : Option Call :=
  match (c.queue q).find? fun x => !c.cut.contains (queueCode q, x.region) with
  | some x => if q == .zb && x.ord && x.domain % 8 != n then none else some x
  | none => none

/-- The fragments that a ZB unit holds (22 R336). -/
def Unit_.fragments (u : Unit_) : Nat := (u.held.map Prod.fst).sum

/-- A unit holds a ZB call, or the hold buffer overflows (22 R334, R336). -/
def State.holdCall (s : State) (d n : Nat) (c : Call) : State :=
  let k := zbFragments c.record
  if 16384 < (s.unit d .zb n).fragments + k then s.endCall d .zb n ⟨c, s.cycle, none, c.pts⟩ (0x14, []) true
  else s.onCoUnit d .zb n fun u => { u with held := u.held ++ [(k, c)] }

/-- The image that a job has bound for a unit type (22 R339). -/
def State.image (s : State) (job : Nat) (q : Queue) : Option W64 :=
  (s.bindings.find? fun b => b.1 == job && b.2.1 == q).map fun b => b.2.2

/-- The words of a control store (01 Table 1-1). -/
def controlWords : Nat := 16384

/-- The image of a control store in device memory, as an access finds it (24 R377). -/
def State.controlImage (s : State) (base : W64) : List W64 :=
  (List.range controlWords).map fun i => BitVec.ofNat 64 (leNat (s.coherentBytes (base.toNat + 8 * i) 8))

/-- A unit loads an image, or goes back to the default microcode (22 R339). -/
def State.loadControl (s : State) (d : Nat) (q : Queue) (n : Nat) (image : Option W64) : State :=
  let ws := (image.map s.controlImage).getD []
  s.onCoUnit d q n fun u => { u with resident := image, control := ws }

/-- The number under which a withheld translation of a restored call stands until a unit takes the call. -/
def noUnit : Nat := 8

/-- A unit takes over the withheld translations of a call that a restore has put back in its queue (05 R81). -/
def State.claimHold (s : State) (d : Nat) (q : Queue) (n : Nat) (c : Call) : State :=
  { s with withheld := s.withheld.map fun w =>
      if w.waiter == .unit d (queueCode q) noUnit && w.region == c.region then { w with waiter := .unit d (queueCode q) n } else w }

/-- The call leaves its queue for a unit, and its counts move to the hold location (22 R330); those of a call that was taken before stay
there (22 R340). -/
def State.takeCall (s : State) (d : Nat) (q : Queue) (n : Nat) (c : Call) : State :=
  let s := s.onCopro d fun x => { x with queues := x.queues.set (queueCode q) ((x.queue q).erase c) }
  if c.taken then s.claimHold d q n c else s.countCall c [⟨c.qloc, c.time, -1⟩, ⟨c.hloc, c.time, 1⟩]

/-- CALL_TAKE (22 R325): an idle unit takes the next call and runs or holds it; a unit whose call waits for a translation goes
on with it. A call begins once the writes of its firing are acknowledged (16 R254). A unit first loads the image that the
call's job has bound; what such microcode does is not the manual's to say. Log entry 73 (DEDUCED). -/
def execCallTake (die : Nat) (queue : Queue) (unit : Nat) (s : State) : Host.Outcome State Fault Refusal :=
  if unitCount queue ≤ unit then .next s
  else
    match (s.unit die queue unit).running with
    | some r => .next (s.serve die queue unit r)
    | none =>
      match (s.die die).copro.next queue unit with
      | none => .next s
      | some c =>
        if !s.portQuiet c.after c.upto then .next s
        else
          match s.image c.job queue with
          | some b =>
            if (s.unit die queue unit).resident == some b then .refused .customMicrocode
            else .next (s.loadControl die queue unit (some b))
          | none =>
            let s := (s.loadControl die queue unit none).takeCall die queue unit c
            if queue == .zb && c.ord && c.batch.isNone then .next (s.holdCall die unit c)
            else .next (s.serve die queue unit ⟨c, s.cycle, none, c.pts⟩)

/-! ## ZB_RELEASE (22 R334) -/

/-- A held call comes before another: by time, domain and SEQ. -/
def Call.before (a b : Call) : Bool :=
  if a.time != b.time then a.time < b.time
  else if callDom a.record != callDom b.record then callDom a.record < callDom b.record
  else callSeq a.record < callSeq b.record

/-- The first held call whose frontier has passed, in the order of release; equal ones in the order taken. -/
def State.released (s : State) (u : Unit_) : Option (Nat × Call) :=
  (u.held.filter fun h => h.2.time < Map.get 0 (s.root h.2.job).front h.2.qloc).foldl
    (fun m h => match m with
      | none => some h
      | some b => if h.2.before b.2 then some h else some b) none

/-- ZB_RELEASE (22 R334): the unit applies the next held call whose frontier has passed its time. -/
def execZbRelease (die unit : Nat) (s : State) : Host.Outcome State Fault Refusal :=
  let u := s.unit die .zb unit
  if u.running.isSome then .next s
  else
    match s.released u with
    | none => .next s
    | some h =>
      let s := s.onCoUnit die .zb unit fun u => { u with held := u.held.erase h }
      .next (s.serve die .zb unit ⟨h.2, s.cycle, none, h.2.pts⟩)

/-! ## UNIT_TIMEOUT (22 R337) -/

/-- The cycles after which a call faults in its unit. -/
def unitLimit : Nat := 2 ^ 24

/-- UNIT_TIMEOUT (22 R337): a call that has run 2^24 unit cycles returns UNITFAULT. -/
def execUnitTimeout (die : Nat) (queue : Queue) (unit : Nat) (s : State) : Host.Outcome State Fault Refusal :=
  match (s.unit die queue unit).running with
  | none => .next s
  | some r => if s.cycle < r.since + unitLimit then .next s else .next (s.endCall die queue unit r (0x10, []) true)

/-! ## CALL_RETURN (22 R331, R333, R425) -/

/-- The calls of one type on a die that have not returned, with the cycle at which a finished one ended. -/
def Copro.calls (c : Copro) (q : Queue) : List (Call × Option Nat) :=
  (c.queue q).map (·, none) ++ (List.range 8).flatMap fun n =>
    let u := c.unit q n
    u.held.map (fun h => (h.2, none)) ++ u.running.toList.map (fun r => (r.call, none)) ++
      u.ready.map fun r => (r.call, some r.since)

/-- Two calls return on one circuit of one region. -/
def Call.sameCircuit (a b : Call) : Bool :=
  a.batch.isNone && b.batch.isNone && a.region == b.region && callCirc a.record == callCirc b.record &&
  !callNr a.record && !callNr b.record

/-- A finished call may return: no call of its circuit has an earlier time, and none of its time has ended before it
(22 R331). -/
def Copro.mayReturn (c : Copro) (q : Queue) (r : Running) : Bool :=
  (c.calls q).all fun x =>
    !x.1.sameCircuit r.call || !(x.1.time < r.call.time ||
      (x.1.time == r.call.time && match x.2 with
        | some e => e < r.since
        | none => false))

/-- The record of an ERR return (22 R425), with the pts of the call, which is an agent of its own (16 R257). Log entry 76 (DEDUCED). -/
def State.coprRecord (s : State) (r : Running) (ret : W512) : TrapRecord :=
  { s.ofAgent (.node r.call.pe) (mkRecord .coprerr 5 1 r.call.pe r.call.job (recWord ret 0) (recWord ret 1)) with
    time := r.call.time, pts := BitVec.ofNat 48 r.pts }

/-- A return record reports ERR (22 R328). -/
def retErr (ret : W512) : Bool := 16 ≤ bits ret 7 0

/-- A region's call returns: its token enters the return circuit at the home PE, and its counts move (22 R328, R330, R332). Log entry 76
(DEDUCED). -/
def State.returnCall (s : State) (r : Running) (ret : W512) : State :=
  let c := r.call
  let down : List CountChange := [⟨c.hloc, c.time, -1⟩]
  let x := if callNr c.record then (s, [])
    else s.inject (s.region c.region).rect.home (callCirc c.record)
      ⟨⟨if retErr ret then .err else .data, true, false, ret⟩, c.time, r.pts⟩
  let s := ((x.1.emitCounts c.bay c.job c.region (down ++ x.2) r.pts).tally c.bay 0x15 1).progress c.region
  if retErr ret then s.post c.region (s.coprRecord r ret) else s

/-- Change an entry of a kernel graph. -/
def State.onEntry (s : State) (job e : Nat) (g : WsEntry → WsEntry) : State :=
  s.onJob job fun j =>
    match j.entries.find e with
    | some x => { j with entries := j.entries.set e (g x) }
    | none => j

/-- The waiter that stands for the write of a batch's return record: the unit, beside the calls that it runs. -/
def retWaiter (d : Nat) (q : Queue) (n : Nat) : Waiter := .unit d (8 + queueCode q) n

/-! ## The hub's own accesses (21 R313; 22 R333; 05 R85) -/

/-- Translate the pieces of an access of the hub, in order. -/
def State.hubAddrs (w : Waiter) (job : Nat) (write : Bool) (va : W64) :
    State → List (Nat × Nat) → State × Option (Except Nat (List Nat))
  | s, [] => (s, some (.ok []))
  | s, p :: ps =>
    match s.fetchAddr w .hub hubRegion job (s.job job).xroot (va + w64 p.1) write with
    | (s, none) => (s, none)
    | (s, some (.error c)) => (s, some (.error c.num))
    | (s, some (.ok a)) =>
      match State.hubAddrs w job write va s ps with
      | (s, some (.ok as)) => (s, some (.ok (a :: as)))
      | r => r

/-- Read n bytes for a job, or the number of what failed: a code of Table 5-3, or 0x10 and a code of Table 2-4. -/
def State.hubRead (s : State) (w : Waiter) (job cls : Nat) (va : W64) (n : Nat) : State × Option (Except Nat (List Byte)) :=
  let ps := linePieces va n
  match State.hubAddrs w job false va s ps with
  | (s, none) => (s, none)
  | (s, some (.error c)) => (s, some (.error c))
  | (s, some (.ok as)) =>
    let x := (as.zip (ps.map Prod.snd)).foldl (fun (m : State × Except Nat (List Byte)) p =>
      match m.2 with
      | .error _ => m
      | .ok bs =>
        let y := m.1.readNow (BitVec.ofNat 16 job) cls hubRequester 0 p.1 p.2
        match y.2.err with
        | some e => (y.1, .error (0x10 + e.num))
        | none => (y.1, .ok (bs ++ leBytes p.2 y.2.val.toNat))) (s, .ok [])
    (x.1, some x.2)

/-- Write bytes for a job with a pts: the greatest timestamp of the writes, or the number of what failed. -/
def State.hubWrite (s : State) (w : Waiter) (job cls pts : Nat) (va : W64) (bs : List Byte) : State × Option (Except Nat Nat) :=
  let ps := linePieces va bs.length
  match State.hubAddrs w job true va s ps with
  | (s, none) => (s, none)
  | (s, some (.error c)) => (s, some (.error c))
  | (s, some (.ok as)) =>
    let x := (as.zip ps).foldl (fun (m : State × Except Nat Nat) p =>
      match m.2 with
      | .error _ => m
      | .ok hi =>
        let d := (bs.drop p.2.1).take p.2.2
        let y := m.1.writeNow (BitVec.ofNat 16 job) cls hubRequester pts p.1 p.2.2 (BitVec.ofNat 512 (leNat d))
        match y.2.err with
        | some e => (y.1, .error (0x10 + e.num))
        | none => (y.1, .ok (max hi y.2.wts))) (s, .ok 0)
    (x.1, some x.2)

/-- A return record of a batch is written at RETS + 64i through the hub's translator (22 R333; 05 R85): the machine, and
whether it has been written or has failed. -/
def State.writeReturn (s : State) (w : Waiter) (job e i pts : Nat) (ret : W512) : State × Bool :=
  match (s.job job).entries.find e with
  | none => (s, true)
  | some x =>
    match s.hubWrite w job 1 pts (recWord x.raw 3 + w64 (64 * i)) (leBytes 64 ret.toNat) with
    | (s, none) => (s, false)
    | (s, some (.error c)) => (s.onEntry job e fun x => { x.fail (w64 c) with count := x.count + 1 }, true)
    | (s, some (.ok hi)) =>
      ((s.onEntry job e fun x =>
          { (if retErr ret then x.fail (w64 (bits ret 7 0)) else x) with count := x.count + 1, stamp := max x.stamp (max pts hi) }).onJob job fun j =>
        { j with wHi := max j.wHi hi }, true)

/-- CALL_RETURN (22 R331): the first finished call of a unit that may return does so. Log entry 61 (DEDUCED). -/
def execCallReturn (die : Nat) (queue : Queue) (unit : Nat) (s : State) : Host.Outcome State Fault Refusal :=
  let c := (s.die die).copro
  match findIdx (c.mayReturn queue) (c.unit queue unit).ready 0 with
  | none => .next s
  | some (k, r) =>
    let ret := r.ret.getD 0
    let gone := fun (s : State) => s.onCoUnit die queue unit fun u => { u with ready := u.ready.eraseIdx k }
    match r.call.batch with
    | none => .next ((gone s).returnCall r ret)
    | some (job, e, i) =>
      let x := s.writeReturn (retWaiter die queue unit) job e i r.pts ret
      .next (if x.2 then gone x.1 else x.1)

/-! ## QUEUE_MARKER (22 R340) -/

/-- QUEUE_MARKER (22 R340): the marker of a region reaches a queue: its calls stay there, and no unit takes them. -/
def execQueueMarker (die : Nat) (queue : Queue) (region : Nat) (s : State) : Host.Outcome State Fault Refusal :=
  match (s.region region).preempt with
  | .draining _ =>
    .next (s.onCopro die fun c =>
      if c.cut.contains (queueCode queue, region) then c else { c with cut := c.cut ++ [(queueCode queue, region)] })
  | _ => .next s

end Sys2Proof.Machine
end

