-- ==== Sys2Proof/Machine/Areas.lean ====
section
/-! DEFINITION. Areas: the device memory that the executive takes for a job: backing areas (07 R105), save areas (24 R365), and
the areas of record and replay (26 R393, R394). Which pages it takes is the executive's own choice (log entry 31). -/

namespace Sys2Proof.Machine

/-- The 64 KiB pages of device memory. -/
def devicePages : Nat := 2 ^ 24

/-- A run of pages is free: every owner tag in it is 0 (02 R25). -/
def State.pagesFree (s : State) (first n : Nat) : Bool :=
  first + n ≤ devicePages && !(s.owner.any fun e => inRange e.1 first n && e.2 != 0)

/-- The pages at which a free run may end: the end of memory, and each page that is not free, from above. -/
def State.runEnds (s : State) : List Nat := devicePages :: ((s.owner.filter fun e => e.2 != 0).map Prod.fst).reverse

/-- The highest free run of n pages. Log entry 31 (DESIGN CHOICE). -/
def State.findPages (s : State) (n : Nat) : Option Nat :=
  ((s.runEnds.filter (n ≤ ·)).map (· - n)).find? fun a => s.pagesFree a n

/-- Give the owner tag of a run of pages. -/
def State.tagPages (s : State) (first n : Nat) (tag : BitVec 16) : State :=
  (List.range n).foldl (fun s i => s.ownerWrite (first + i) tag) s

/-- Zero a run of pages: storage, sectors held in slices, and poison. -/
def State.zeroPages (s : State) (first n : Nat) : State :=
  let lo := 65536 * first
  let hi := lo + 65536 * n
  { s with mem := s.mem.filter fun e => !(lo ≤ e.1 && e.1 < hi),
           poison := s.poison.filter fun l => !(lo ≤ 64 * l && 64 * l < hi),
           slices := s.slices.mapVals fun _ c => { c with lines := c.lines.filter fun e => !(lo ≤ 64 * e.1 && 64 * e.1 < hi) } }

/-- The executive takes a run of pages for a job, under tag 0xFFFF, and zeroes it. Log entry 31 (DESIGN CHOICE). -/
def State.takePages (s : State) (job n : Nat) : State × Option Nat :=
  match s.findPages n with
  | none => (s, none)
  | some a => (((s.zeroPages a n).tagPages a n execTag).onJob job fun j => { j with areas := (a, n) :: j.areas }, some a)

/-- The executive gives back what it has taken for a job. Log entry 62 (DEDUCED). -/
def State.dropAreas (s : State) (job : Nat) : State :=
  ((s.job job).areas.foldl (fun s a => s.tagPages a.1 a.2 0) s).onJob job fun j => { j with areas := [] }

/-- The pages of one backing area (07 R105): 0x8_1000 bytes. Log entry 31 (DESIGN CHOICE). -/
def backingPages : Nat := 9

/-- SYS_LBACK of the PE at a place of its region (07 Table 7-1); each context has an area of its own, with generation 0. -/
def lbackAt (first place : Nat) : W64 := packFields 64 [(16, 30, first + backingPages * place)]

end Sys2Proof.Machine
end

