-- ==== Sys2Proof/Machine/SchedEv.lean ====
section
/-! DEFINITION. SchedEv: the Windshaft, which reads the kernel graph and runs its entries (21 R313 to R319), and the Sluice,
which gives bays to sections (21 R320 to R324). -/

namespace Sys2Proof.Machine

/-! ## The entry (21 Tables 21-1, 21-2) -/

/-- Word k of an entry. -/
def WsEntry.word (e : WsEntry) (k : Nat) : W64 := recWord e.raw k
/-- TYPE: 0 join, 1 section, 2 copy, 3 coprocessor batch, 4 host signal. -/
def WsEntry.type (e : WsEntry) : Nat := bits (e.word 0) 63 60
/-- The predecessors. -/
def WsEntry.preds (e : WsEntry) : List Nat :=
  (List.range (bits (e.word 0) 56 54)).map fun k => bits (e.word 1) (16 * k + 15) (16 * k)
/-- FW. -/
def WsEntry.waitsFrontier (e : WsEntry) : Bool := bitAt (e.word 6) 63
/-- The calls of a batch. -/
def WsEntry.ncall (e : WsEntry) : Nat := bits (e.word 4) 15 0 + 1

/-- The condition of Table 21-1 or 21-2 that an entry breaks: 1 word 0, 2 the predecessors, 3 the frontier words, 4 the words
of its type. The numbers are the model's (log entry 15 (DESIGN CHOICE)). -/
def WsEntry.broken (e : WsEntry) : Option Nat :=
  let w := e.word
  let np := bits (w 0) 56 54
  if bits (w 0) 53 0 != 0 || 4 < e.type || 4 < np then some 1
  else if (e.preds.any fun p => e.idx ≤ p) || ((List.range 4).any fun k => np ≤ k && bits (w 1) (16 * k + 15) (16 * k) != 0) then
    some 2
  else if bits (w 6) 62 10 != 0 || (!e.waitsFrontier && w 7 != 0) then some 3
  else
    let zero := fun (ks : List Nat) => ks.all fun k => w k == 0
    let ok := match e.type with
      | 0 => zero [2, 3, 4, 5]
      | 1 => (w 2).toNat % 64 == 0 && bits (w 3) 31 12 == 0 && (!bitAt (w 3) 8 || bits (w 3) 7 6 == 0) && (w 4).toNat % 4 == 0
      | 2 => (w 2).toNat % 16 == 0 && (w 3).toNat % 16 == 0 && bits (w 4) 63 8 == 0 && zero [5]
      | 3 => bits (w 4) 63 22 == 0 && bits (w 4) 18 16 < 6 && zero [5]
      | _ => bits (w 4) 63 4 == 0 && bits (w 4) 3 0 ≤ 8 && zero [5]
    if ok then none else some 4

/-- A fresh entry. -/
def WsEntry.of (idx : Nat) (raw : W512) : WsEntry :=
  { idx := idx, raw := raw, ready := false, age := 0, inPool := false, started := false, finished := false, failed := false,
    cause := 0, done := false, region := none, issued := 0, count := 0, stamp := 0 }

/-! ## Stopping a job's graph (21 R315, R319) -/

/-- Nothing more is dispatched for the job. -/
def Job.stops (j : Job) : Bool := j.wsStop || j.outcome.isSome || j.entries.any fun e => e.2.failed

/-- The graph stops: bids that have not been admitted are withdrawn, and their entries never run (21 R315). -/
def State.stopGraph (s : State) (job : Nat) : State :=
  { s with bids := s.bids.filter fun b => b.job != job || b.ctx.isSome }.onJob job fun j => { j with wsStop := true }

/-- WSENTRY: the entry, and the failed condition with the code of a failed read (21 R315; log entry 15 (DESIGN CHOICE)). -/
def State.wsEntryFault (s : State) (job idx cond info : Nat) : State :=
  let rec_ := mkRecord .wsentry 8 3 0 job (w64 idx) (w64 (cond + 256 * info))
  (s.stopGraph job).event job 0 (recWords rec_)

/-! ## WS_ENTRY_READ (21 R313 to R316) -/

/-- The entries that the Windshaft has read and that are not complete. -/
def Job.heldEntries (j : Job) : Nat := (j.entries.filter fun e => !e.2.done).length

/-- WS_ENTRY_READ (21 R313, R315, R316): the next entry of a job is read and checked. A withheld read waits without limit. -/
def execWsEntryRead (job : Nat) (s : State) : Host.Outcome State Fault Refusal :=
  let j := s.job job
  if !j.live || j.stops || j.pkg.nentry ≤ j.next || 4096 ≤ j.heldEntries then .next s
  else
    match s.hubRead (.hubEntry job) job 5 (j.pkg.kgbase + w64 (64 * j.next)) 64 with
    | (s, none) => .next s
    | (s, some (.error c)) => .next (s.wsEntryFault job j.next 9 c)
    | (s, some (.ok bs)) =>
      let e := WsEntry.of j.next (BitVec.ofNat 512 (leNat bs))
      match e.broken with
      | some c => .next (s.wsEntryFault job j.next c 0)
      | none => .next (s.onJob job fun j => { j with entries := j.entries.set j.next e, next := j.next + 1 })

/-! ## Readiness (21 R316) -/

/-- An entry is ready: its predecessors are complete, and the frontier that it waits for has passed. -/
def Job.readyNow (j : Job) (e : WsEntry) : Bool :=
  !e.ready && !j.stops &&
  (e.preds.all fun p => match j.entries.find p with
    | some x => x.done
    | none => false) &&
  (!e.waitsFrontier || e.word 7 < Map.get 0 j.root.front (bits (e.word 6) 9 0))

/-- A job and an entry come before another, by index and then by job. -/
def insertReady (x : Nat × Nat) : List (Nat × Nat) → List (Nat × Nat)
  | [] => [x]
  | y :: ys => if x.2 < y.2 || (x.2 == y.2 && x.1 < y.1) then x :: y :: ys else y :: insertReady x ys

/-- Number the entries that have become ready in this cycle, in ascending index (21 R316). -/
def State.numberReady (s : State) : State :=
  let new_ := s.jobs.flatMap fun j => if j.2.live then (j.2.entries.filter fun e => j.2.readyNow e.2).map fun e => (j.1, e.1) else []
  (new_.foldl (fun l x => insertReady x l) []).foldl (fun s x =>
    { s with wsAge := s.wsAge + 1 }.onEntry x.1 x.2 fun e => { e with ready := true, age := s.wsAge }) s

/-! ## Dispatch (21 R317, R318, Table 21-3) -/

/-- The pts with which the agents of a copy or a batch begin: the fork edges from its predecessors, the greatest timestamp of their
accesses (21 R318; log entry 32 (DEDUCED)). -/
def State.startPts (s : State) (job : Nat) (e : WsEntry) : Nat :=
  e.preds.foldl (fun m p => match (s.job job).entries.find p with
    | some x => max m x.stamp
    | none => m) 0

/-- A descriptor's words. -/
def descWords (bs : List Byte) : List W64 := (List.range 16).map fun k => BitVec.ofNat 64 (bytesFrom bs (8 * k) 8)

/-- The condition of R315 that two descriptors break: 6 R87, 7 unequal tiles, 8 a tile beyond 4,096 bytes. -/
def copyBroken (sw dw : List W64) (attached : Nat → Bool) : Option Nat :=
  let a := unpackDesc sw
  let b := unpackDesc dw
  match descFault sw (2 ^ 64) attached, descFault dw (2 ^ 64) attached with
  | none, none =>
    if a.tileBytes != b.tileBytes || a.tileCount != b.tileCount then some 7 else if 4096 < a.tileBytes then some 8 else none
  | _, _ => some 6

/-- The bay of a copy entry. -/
def WsEntry.bay (e : WsEntry) : Nat :=
  64 * bits (e.word 4) 7 6 + 8 * bits (e.word 4) 2 0 + bits (e.word 4) 5 3

/-- The stream pair of a copy entry (21 Table 21-3). -/
def pairStream (s : State) (job idx bay n : Nat) (e : WsEntry) (a b : Desc) : Stream :=
  { live := true, issuer := .ctl hubRegion, region := hubRegion, job := job, desc := a, inbound := true, handles := [],
    head := (0, 0), next := 0, credits := [], notices := [], tiles := [], stopped := false, closing := false, after := 0, upto := 0, started := true,
    bad := none, again := [], pair := some ⟨idx, b, []⟩,
    port := { Port.blank with pid := s.nextId, who := .copy bay n, region := hubRegion, job := job, pts := s.startPts job e } }

/-- A copy entry starts on the engine of its bay, once the engine can hold one more stream (06 R95; 21 R315). -/
def State.startCopy (s : State) (job : Nat) (e : WsEntry) : State :=
  match freeStream (s.bay e.bay) with
  | none => s
  | some n =>
    match s.hubRead (.hubEntry job) job 5 (e.word 2) 128 with
    | (s, none) => s
    | (s, some (.error c)) => (s.onEntry job e.idx fun x => { x with done := true }).wsEntryFault job e.idx 9 c
    | (s, some (.ok sb)) =>
      match s.hubRead (.hubEntry job) job 5 (e.word 3) 128 with
      | (s, none) => s
      | (s, some (.error c)) => (s.onEntry job e.idx fun x => { x with done := true }).wsEntryFault job e.idx 9 c
      | (s, some (.ok db)) =>
        match copyBroken (descWords sb) (descWords db) fun i => ((s.job job).endpts.find i).isSome with
        | some c => (s.onEntry job e.idx fun x => { x with done := true }).wsEntryFault job e.idx c 0
        | none =>
          let st := pairStream s job e.idx e.bay n e (unpackDesc (descWords sb)) (unpackDesc (descWords db))
          ({ s with nextId := s.nextId + 1 }.onBay e.bay fun b => { b with streams := b.streams.set n st }).onEntry job e.idx
            fun x => { x with started := true }

/-- The record of call i of a batch as it enters the queue: with ORD, its SEQ is i (21 Table 21-2). Log entry 42 (DEDUCED). -/
def batchRecord (ord : Bool) (i : Nat) (bs : List Byte) : W512 :=
  let r := BitVec.ofNat 512 (leNat bs)
  if ord then insertBits r 32 32 i else r

/-- A batch issues its next call, in record order, when its queue has room (21 Table 21-3; 22 R325). Log entry 42 (DEDUCED). -/
def State.issueBatch (s : State) (job : Nat) (e : WsEntry) : State :=
  let w := e.word 4
  let q := (queueOf (bits w 18 16)).getD .rast
  let d := bits w 21 20
  if 64 ≤ ((s.die d).copro.queue q).length then s
  else
    match s.hubRead (.hubEntry job) job 5 (e.word 2 + w64 (64 * e.issued)) 64 with
    | (s, none) => s
    | (s, some (.error c)) =>
      s.onEntry job e.idx fun x => { x.fail (w64 c) with started := true, count := x.count + (x.ncall - x.issued), issued := x.ncall }
    | (s, some (.ok bs)) =>
      let c : Call := { queue := q, ord := bitAt w 19, record := batchRecord (bitAt w 19) e.issued bs, time := 0, job := job,
                        region := hubRegion, pe := 0, pts := s.startPts job e, after := 0, upto := 0, batch := some (job, e.idx, e.issued),
                        qloc := 0, hloc := 0, taken := false }
      (s.onCopro d fun x => { x with queues := Map.modify [] x.queues (queueCode q) (· ++ [c]) }).onEntry job e.idx fun x =>
        { x with started := true, issued := x.issued + 1 }

/-- A signal is sent as an EPATOM with no target (12 R199); a range check that fails is a failed signal. A replay pass discards
it (26 Table 26-4). -/
def State.sendSignal (s : State) (job : Nat) (e : WsEntry) : State :=
  let w := e.word 2
  let off := bits w 55 0
  let bad := match (s.job job).endpts.find (bits w 63 56) with
    | some ext => off % 8 != 0 || ext < off + 8
    | none => true
  if bad then s.onEntry job e.idx fun x => { x.fail (w64 0x22) with started := true, finished := true }
  else if (s.job job).rr == 2 then s.onEntry job e.idx fun x => { x with started := true, finished := true }
  else
    let t : Endpoint := ⟨s.nextId, job, .ctl hubRegion, hubRegion, .signal job e.idx, 0⟩
    { s with nextId := s.nextId + 1, transfers := s.transfers ++ [t] }.onEntry job e.idx fun x => { x with started := true }

/-- The bid of a section entry (21 R320). -/
def Job.bidOf (j : Job) (job : Nat) (e : WsEntry) : Bid :=
  let w := e.word 3
  { job := job, entry := e.idx, prio := min (bits (e.word 0) 59 57) j.pkg.ceiling, age := e.age, w := bits w 5 3 + 1,
    h := bits w 2 0 + 1, dies := if bitAt w 8 then List.range 4 else [bits w 7 6], bypass := 0, ctx := none }

/-- An entry that is in the pool starts, or goes on to start. -/
def State.dispatchEntry (s : State) (job : Nat) (e : WsEntry) : State :=
  match e.type with
  | 0 => s.onEntry job e.idx fun x => { x with started := true, finished := true, done := true, stamp := s.startPts job e }
  | 1 => s
  | 2 => s.startCopy job e
  | 3 => s.issueBatch job e
  | _ => s.sendSignal job e

/-- An entry of the pool has still to start, or has calls to issue. -/
def WsEntry.pends (e : WsEntry) : Bool :=
  e.inPool && !e.done && !e.failed &&
  (match e.type with
    | 2 => !e.started
    | 3 => e.issued < e.ncall
    | _ => false)

/-- The entries of the ready pool, over all jobs (21 R317). -/
def State.poolSize (s : State) : Nat := (s.jobs.map fun j => (j.2.entries.filter fun e => e.2.inPool && !e.2.done).length).sum

/-- The oldest ready entry that has not entered the pool: its job and index. -/
def State.oldestReady (s : State) : Option (Nat × WsEntry) :=
  (s.jobs.flatMap fun j => if j.2.live && !j.2.stops then (j.2.entries.filter fun e => e.2.ready && !e.2.inPool).map fun e => (j.1, e.2)
    else []).foldl (fun m x => match m with
      | none => some x
      | some y => if x.2.age < y.2.age then some x else some y) none

/-- An entry enters the pool: it is dispatched, or bids (21 R317). -/
def State.enterPool (s : State) (job : Nat) (e : WsEntry) : State :=
  let s := s.onEntry job e.idx fun x => { x with inPool := true }
  if e.type = 1 then { s with bids := s.bids ++ [(s.job job).bidOf job e] } else s.dispatchEntry job { e with inPool := true }

/-- The executive drains every context of the module: nothing is dispatched or admitted until it is done (26 R392, R395). -/
def State.draining (s : State) : Bool :=
  s.conns.any fun c => c.2.waiting.any fun w =>
    w.1 == 0x05#8 || w.1 == 0x06#8 || (w.1 == 0x08#8 && w.2.2.getD 2 0 == 0)

/-- WS_POOL_ENTER (21 R317): the oldest ready entry enters the pool when a place is free; an entry in the pool that waits for its
engine or its queue goes on. -/
def execWsPoolEnter (job : Nat) (s : State) : Host.Outcome State Fault Refusal :=
  let j := s.job job
  let stuck := j.entries.find? fun e => e.2.pends && (e.2.started || !j.stops)
  if s.draining then .next s
  else match stuck, s.oldestReady with
  | _, some (k, e) =>
    if k == job && s.poolSize < 1024 then .next (s.enterPool job e)
    else
      match stuck with
      | some x => .next (s.dispatchEntry job x.2)
      | none => .next s
  | some x, none => .next (s.dispatchEntry job x.2)
  | none, none => .next s

/-! ## WS_ENTRY_COMPLETE (21 R318, R319) -/

/-- No write of a region's agents is still under way (21 R318): no port has one, no stream runs, no matrix command waits, no
call runs, and no transfer to a host is open. Log entry 69 (DEDUCED). -/
def State.regionQuiet (s : State) (rid : Nat) : Bool :=
  let r := s.region rid
  !s.running (fun a => a == .ctl rid || (match agentKey a with
    | some k => r.nodes.contains k
    | none => false)) &&
  (s.ports.all fun p => p.region != rid || (p.outbox ++ p.flight).all fun q => !q.op.writes) &&
  (s.bays.all fun b => b.2.streams.all fun e => e.2.region != rid || e.2.stopped || !e.2.live) &&
  (r.nodes.all fun k => (s.pe k).region != some rid || (s.pe k).matrix.queue.isEmpty) &&
  (s.dies.all fun d => d.2.copro.units.all fun u =>
    !(u.2.running.toList.map (·.call) ++ u.2.ready.map (·.call) ++ u.2.held.map Prod.snd).any fun c => c.region == rid) &&
  s.transfers.all fun t => t.region != rid

/-- The streams of a region leave their engines. -/
def State.dropStreams (s : State) (q : Stream → Bool) : State :=
  (s.bays.flatMap fun b => (b.2.streams.filter fun e => q e.2).map fun e => (b.1, e.1)).foldl (fun s x => s.dropStream x.1 x.2) s

/-- The greatest stamp of a region's agents, for the join edge of its completion (21 R318). Log entry 32 (DEDUCED). -/
def State.regionStamp (s : State) (rid : Nat) : Nat :=
  let r := s.region rid
  r.nodes.foldl (fun m k => max m (max (s.pe k).stamp (s.pe k).wHi)) (max r.pts (max r.wHi r.ctlWHi))

/-- A section has ended: the bays that it still holds are returned, the digests are kept, and the region is gone (21 R323; 26
R396). Log entry 69 (DEDUCED). -/
def State.endSection (s : State) (rid : Nat) : State :=
  let r := s.region rid
  let hi := s.regionStamp rid
  let x := if r.released then (s, []) else s.release rid
  let s := (x.1.emitCounts (rid % 256) r.job rid x.2 hi).dropStreams fun st => st.region == rid
  let s := s.onJob r.job fun j =>
    { j.keepDigests [(threadKey r.entry, r.digest)] with
        wHi := max j.wHi hi,
        entries := j.entries.mapVals (fun i e => if i == r.entry then { e with stamp := max e.stamp hi } else e),
        root := { j.root with subs := j.root.subs.filter (fun x => x.2 != .bay rid), out := j.root.out.filter fun a => a.to_ != .bay rid } }
  { s with regions := s.regions.drop rid, withheld := s.withheld.filter fun w => w.region != rid }

/-- The region of a section entry. -/
def State.entryRegion (s : State) (job idx : Nat) : Option Nat :=
  (s.regions.find? fun r => r.2.live && r.2.job == job && r.2.entry == idx).map Prod.fst

/-- No write of the stream pair of a copy entry is still under way (21 R318). -/
def State.copyQuiet (s : State) (job idx : Nat) : Bool :=
  s.bays.all fun b => b.2.streams.all fun e =>
    e.2.job != job || (e.2.pair.map CopyPair.entry) != some idx || (e.2.port.outbox ++ e.2.port.flight).all fun q => !q.op.writes

/-- An entry's work has ended and its writes are acknowledged (21 R318). -/
def State.entryEnded (s : State) (job : Nat) (e : WsEntry) : Bool :=
  e.started && !e.done &&
  (match e.type with
    | 1 => (match s.entryRegion job e.idx with
      | some rid => (s.region rid).halted && s.regionQuiet rid
      | none => e.finished)
    | 3 => e.issued == e.ncall && e.count == e.ncall
    | 2 => e.finished && s.copyQuiet job e.idx
    | _ => e.finished)

/-- An entry has been dispatched; the section of one has been released too, which its thread's halt implies (17 R260; 18 R278; log
entry 62 (DEDUCED)). -/
def WsEntry.dispatched (e : WsEntry) : Bool :=
  e.done || (e.type != 1 && e.started && !(e.type == 3 && e.issued < e.ncall))

/-- The job ends (17 R260): its last entry has been dispatched and every section has been released; or the executive has
aborted it, and what was dispatched has ended. A graph that has stopped at a failure (21 R315, R319) ends in neither way before
the abort. Log entry 62 (DEDUCED). -/
def Job.exhausted (j : Job) : Bool :=
  if j.outcome.isSome then j.entries.all fun e => e.2.done || !e.2.started
  else j.next == j.pkg.nentry && j.entries.all fun e => e.2.dispatched

/-- Every entry of an ended job has completed. -/
def Job.settled (j : Job) : Bool := j.wsDone && j.entries.all fun e => e.2.done || !e.2.started

/-- The report of a pass (27 R409): the tag, the pass, and the regions in kernel-graph entry order. Log entry 71 (DEDUCED). -/
def State.passReport (s : State) (job : Nat) : State :=
  let j := s.job job
  s.event job 0x00 (packFields 64 [(16, 16, job), (8, 8, j.pass), (0, 8, j.snaps.length)] :: j.snaps.flatMap Prod.snd)

/-- The job has ended: its outcome is fixed, the host that submitted it is told, and the executive's areas are given back;
those of a recorded job stay for its replay (17 R260; 26 R385). Log entry 43 (DEDUCED). Log entry 62 (DEDUCED). -/
def State.endJob (s : State) (job : Nat) : State :=
  let j := s.job job
  let st : Byte := if j.entries.any fun e => e.2.failed then 0x05 else 0x00
  let s := if j.outcome.isSome || j.rr == 2 then s else s.event job st [w64 job]
  let s := s.onJob job fun j =>
    { j with wsDone := true, outcome := if j.outcome.isSome then j.outcome else some st,
             digests := if j.rr == 1 then j.pathDig else j.digests }
  let s : State := { s with saves := s.saves.filter fun c => c.2.job != job }
  if j.rr == 0 then s.dropAreas job else s.passReport job

/-- Close a job that has nothing left to run. -/
def State.settleJob (s : State) (job : Nat) : State :=
  if (s.job job).wsDone || !(s.job job).exhausted then s else s.endJob job

/-- WSFAIL: the entry and the cause (21 R319). Log entry 41 (DESIGN CHOICE). -/
def State.wsFail (s : State) (job : Nat) (e : WsEntry) : State :=
  if (s.job job).outcome.isSome then s.stopGraph job
  else (s.stopGraph job).event job 0 (recWords (mkRecord .wsfail 8 3 0 job (w64 e.idx) e.cause))

/-- WS_ENTRY_COMPLETE (21 R318, R319): an entry completes, or fails with WSFAIL; the job may end with it. -/
def execWsEntryComplete (job entry : Nat) (s : State) : Host.Outcome State Fault Refusal :=
  match (s.job job).entries.find entry with
  | none => .next (s.settleJob job)
  | some e =>
    if !s.entryEnded job e then .next (s.settleJob job)
    else
      let s := match s.entryRegion job entry with
        | some rid => s.endSection rid
        | none => s.dropStreams fun st => st.job == job && st.stopped && (st.pair.map CopyPair.entry) == some entry
      let s := if e.failed then s.wsFail job e else s
      .next ((s.onEntry job entry fun x => { x with done := true, stamp := max x.stamp (s.startPts job e) }).settleJob job)

/-! ## The Sluice (21 R320 to R324) -/

/-- The bays held by regions (21 R321, R323): those of a section that has not released them. -/
def State.heldBays (s : State) : List Nat := s.regions.flatMap fun r => if r.2.live && !r.2.released then r.2.rect.bays else []

/-- A bay can be given to a section: no region holds it, its frames are unpinned, and it is not gated off (21 R323; 26 R404). -/
def State.bayFree (s : State) (held : List Nat) (b : Nat) : Bool :=
  !held.contains b && (s.bay b).power != .off &&
  (List.range 64).all fun i =>
    !((s.pe (peOf (b / 64) (8 * (b % 8) + i % 8) (8 * (b / 8 % 8) + i / 8))).lpt.any fun e => e.2.pin)

/-- The bays of a rectangle. -/
def baysAt (d bx by_ w h : Nat) : List Nat := (List.range (w * h)).map fun k => 64 * d + 8 * (by_ + k / w) + bx + k % w

/-- The positions that a bid may take, in the order of R321: dies rising, then by, then bx. -/
def Bid.positions (b : Bid) : List (Nat × Nat × Nat) :=
  (List.range 4).flatMap fun d =>
    if b.dies.contains d then
      (List.range (9 - b.h)).flatMap fun y => (List.range (9 - b.w)).map fun x => (d, x, y)
    else []

/-- The first position where a bid's rectangle is free. -/
def State.placeFor (s : State) (b : Bid) : Option (Nat × Nat × Nat) :=
  let held := s.heldBays
  b.positions.find? fun p => (baysAt p.1 p.2.1 p.2.2 b.w b.h).all (s.bayFree held)

/-- A bid comes before another in rank (21 R320). -/
def Bid.outranks (a b : Bid) : Bool := b.prio < a.prio || (a.prio == b.prio && a.age < b.age)

/-- Put a bid in its rank. -/
def insertBid (x : Bid) : List Bid → List Bid
  | [] => [x]
  | y :: ys => if x.outranks y then x :: y :: ys else y :: insertBid x ys

/-- A number for a region beside that of its bay: a thread that has released its bays keeps running its blocks under it (18
R286; 21 R323). Log entry 89 (DESIGN CHOICE). -/
def State.spareRegion (s : State) (rid : Nat) : Nat :=
  (((List.range 255).map fun k => 256 * (k + 1) + rid % 256).find? fun n => (s.regions.find n).isNone).getD (65280 + rid % 256)

/-- A region's thread keeps running under another number. Log entry 89 (DESIGN CHOICE). -/
def State.moveRegion (s : State) (a b : Nat) : State :=
  let ag := fun (x : Agent) => if x == .ctl a then .ctl b else x
  let port := fun (p : Port) => if p.region == a then
    { p with region := b, who := match p.who with
        | .blk x => .blk (ag x)
        | w => w } else p
  let frame := fun (f : Frame) => if f.agent == .ctl a then { f with agent := .ctl b, region := b, port := port f.port } else f
  let waiter := fun (w : Waiter) => match w with
    | .slot x n => .slot (ag x) n
    | .fetch r => if r == a then .fetch b else w
    | _ => w
  let sub := fun (x : Subscriber) => if x == .bay a then .bay b else x
  { s with
      regions := (s.regions.drop a).set b (s.region a),
      cur := frame s.cur, parked := s.parked.map frame, tails := s.tails.map port,
      withheld := s.withheld.map fun w => if w.region == a then { w with region := b, waiter := waiter w.waiter } else w,
      transfers := s.transfers.map fun t => if t.region == a then { t with region := b, agent := ag t.agent, what := match t.what with
        | .atomic w o x rs y => .atomic w o x rs (ag y)
        | x => x } else t,
      jobs := s.jobs.mapVals fun _ j =>
        { j with entries := j.entries.mapVals (fun _ e => if e.region == some a then { e with region := some b } else e),
                 root := { j.root with subs := j.root.subs.map (fun x => (x.1, sub x.2)),
                                       out := j.root.out.map fun x => { x with to_ := sub x.to_ } } } }

/-- A PE or AG node as a section receives it (17 R259, R265; 21 Table 21-4): local memory and its page table stay as they
are. -/
def Pe.admitTo (p : Pe) (rid : Nat) (lback status : W64) : Pe :=
  { Pe.blank with region := some rid, lmem := p.lmem, full := p.full, softBad := p.softBad, softCorr := p.softCorr, lpt := p.lpt, fwd := p.fwd,
                  refills := p.refills, lback := lback, status := status }

/-- The status register with which the agents of a job begin: DBG where the job is debugged (24 Table 24-3). -/
def Job.status0 (j : Job) : W64 := place 64 13 1 (b2n j.pkg.debug)

/-- The first contents of local memory are placed in the backing areas (07 R105; 17 Table 17-1). -/
def State.loadBacking (s : State) (job entry first : Nat) : State :=
  (s.job job).pkg.backing.foldl (fun s x =>
    if x.1 == entry then s.storeBytes (65536 * (first + backingPages * x.2.1) + x.2.2.1) x.2.2.2 else s) s

/-- Bays come to hold a region: clocked, with their counters at zero (26 R398, R404). -/
def State.wakeBays (s : State) (bs : List Nat) : State :=
  bs.foldl (fun s b => s.onBay b fun x => { x with pmon := [], power := .on, cut := false }) s

/-- Clear the way for a region at a number. -/
def State.clearRegion (s : State) (rid : Nat) : State :=
  if (s.region rid).live then s.moveRegion rid (s.spareRegion rid) else s

/-- Admission of a section (21 R322, Table 21-4): the bays are held, the executive writes SYS_REGION, SYS_XROOT and SYS_LBACK, and
the thread starts with its operands. Without room for its backing areas the section is not admitted. -/
def State.admitSection (s : State) (b : Bid) (p : Nat × Nat × Nat) : Option State :=
  match (s.job b.job).entries.find b.entry with
  | none => none
  | some e =>
    let rid := 64 * p.1 + 8 * p.2.2 + p.2.1
    match s.takePages b.job (backingPages * (64 * b.w * b.h)) with
    | (_, none) => none
    | (s, some first) =>
      let s := (s.clearRegion rid).loadBacking b.job b.entry first
      let j := s.job b.job
      let full := fun (w : W64) => Reg.ofValue (.data w) 0
      let r : Region := { Region.blank with
        live := true, job := b.job, entry := b.entry, sysreg := sysRegion p.1 p.2.1 p.2.2 b.w b.h, xroot := j.xroot,
        backing := first, stitch := place 64 0 3 (bits (e.word 3) 11 9), pc := e.word 4,
        g := [(0, full (e.word 2)), (1, full (w64 (bits (e.word 3) 63 32))), (2, full (e.word 5))],
        pts := 0, status := j.status0,
        wdog := packFields 64 [(32, 32, j.pkg.budget), (8, 24, j.pkg.stall)], bypass := b.bypass }
      let s : State := { s with regions := s.regions.set rid r }
      let s := r.rect.pes.foldl (fun s k => s.onPe k (·.admitTo rid (lbackAt first (r.rect.index k)) j.status0)) s
      let s := r.rect.ags.foldl (fun s k => s.onPe k (·.admitTo rid 0 j.status0)) s
      some ((s.wakeBays r.rect.bays).onEntry b.job b.entry fun x => { x with started := true, region := some rid })

/-- A saved context is admitted: its bays are held, and the restore follows (21 R324; 24 Table 24-8). -/
def State.admitContext (s : State) (c : Nat) (b : Bid) (p : Nat × Nat × Nat) : Option State :=
  match s.saves.find c with
  | none => none
  | some sv =>
    let rid := 64 * p.1 + 8 * p.2.2 + p.2.1
    let s := s.clearRegion rid
    let r : Region := { Region.blank with live := true, job := sv.job, entry := sv.entry,
                                          sysreg := sysRegion p.1 p.2.1 p.2.2 b.w b.h, preempt := .saved }
    let s : State := { s with regions := s.regions.set rid r, saves := s.saves.set c { sv with place := some rid } }
    some (s.wakeBays r.rect.bays)

/-- Admit a bid at a position. -/
def State.admitBid (s : State) (b : Bid) (p : Nat × Nat × Nat) : Option State :=
  match b.ctx with
  | none => s.admitSection b p
  | some c => s.admitContext c b p

/-- One bid of a decision: admitted where it fits and no blocking bid outranks it; each waiting bid above it is then bypassed
once more (21 R321). `ahead` holds the waiting bids of higher rank. -/
def State.considerBid (sa : State × List Bid) (b : Bid) : State × List Bid :=
  let (s, ahead) := sa
  match (if ahead.any fun c => 8 ≤ c.bypass then none else s.placeFor b).bind fun p => s.admitBid b p with
  | some t => (t, ahead.map fun c => { c with bypass := c.bypass + 1 })
  | none => (s, ahead ++ [b])

/-- SLUICE_DECISION (21 R321): the Sluice walks the bids in rank order. -/
def execSluiceDecision (s : State) : Host.Outcome State Fault Refusal :=
  if s.draining then .next s
  else
    let x := (s.bids.foldl (fun l b => insertBid b l) []).foldl State.considerBid (s, [])
    .next { x.1 with bids := x.2 }

end Sys2Proof.Machine
end

