-- ==== Sys2Proof/Machine/FaultEv.lean ====
section
/-! DEFINITION. FaultEv: entry of the handler with a queued record (24 R354), a full fault queue (24 R353), watchdogs and
deadlines (24 R357 to R359), and resuming from a BREAK (24 R372). -/

namespace Sys2Proof.Machine

/-! ## Waiting at issue (24 R354) -/

/-- An instruction that can be blocked, once it has issued, on a condition that only another agent, an engine or the Governor
satisfies (24 R354). -/
def waitsIssue : Option Instr → Bool
  | some (.read _ _ _ _) => true
  | some (.ldlw _ _ _ _ _ _) => true
  | some (.bufget _ _ _ _) => true
  | some (.cpywait _ _ _ _) => true
  | some (.xlate _ _ _ _ _) => true
  | some (.frontWait _ _ _) => true
  | some (.sectSinkw _ _ _) => true
  | some (.sectGred _ _ _) => true
  | some (.sectRelease _) => true
  | some (.lmarch _ _ _ _) => true
  | some (.sectCfgload _) => true
  | _ => false

/-- A device access of a block is in flight: of an instruction that waits for it, or of a deferred write (24 R354). -/
def Frame.accessing (f : Frame) : Bool :=
  (f.slots.any fun sl => sl.phase == .inflight) || (f.port.outbox ++ f.port.flight).any fun r => f.since ≤ r.rid

/-- A block is waiting at issue, or STLF.w holds its commit; none of its device accesses is in flight (24 R354). -/
def State.waitsAtIssue (s : State) (f : Frame) : Bool :=
  f.phase == .running && !f.accessing &&
  (((List.range 64).any fun k => (f.slotAt k).phase == .blocked && waitsIssue (f.instr k)) ||
   (f.complete && f.emptyWait (s.pe f.pe)))

/-- The block of an agent, if one is in execution. -/
def State.frameOf (s : State) (q : Agent → Bool) : Option Frame := (s.cur :: s.parked).find? fun f => f.live && q f.agent

/-! ## HANDLER_ENTRY (24 R354) -/

/-- A record leaves the queue. -/
def Region.unqueue (r : Region) (x : TrapRecord) : Region := { r with faultq := r.faultq.erase x }

/-- The thread enters its handler with a record, or the executive takes it where the handler is disabled (24 R354); it fetches
elsewhere, so a fetch that was withheld is given up. -/
def State.takeRecord (s : State) (rid : Nat) (x : TrapRecord) (epc : W64) : State :=
  let s := (s.unwithholdAll (.fetch rid)).onRegion rid (·.unqueue x)
  if bitAt (s.region rid).tvec 63 then s.enterHandler rid x epc else s.execTake rid x

/-- HANDLER_ENTRY (24 R354): between blocks, or from a block that is waiting at issue, which is abandoned uncommitted. -/
def execHandlerEntry (region : Nat) (s : State) : Host.Outcome State Fault Refusal :=
  let r := s.region region
  if !r.live || r.halted || r.brkStop || r.preempt != .none || statusInh r.status then .next s
  else
    match r.interrupting, s.frameOf (· == .ctl region) with
    | none, _ => .next s
    | some x, none => .next (s.takeRecord region x r.pc)
    | some x, some f =>
      if s.waitsAtIssue f then .next ((s.dropFrame (· == .ctl region)).takeRecord region x f.addr) else .next s

/-- QOVF (24 R353): a record arrives while all 32 entries are held; it is lost, and the region stops. -/
def execQovf (region : Nat) (_record : TrapRecord) (s : State) : Host.Outcome State Fault Refusal :=
  let r := s.region region
  if r.live && !r.overflow && 32 ≤ r.faultq.length then .next (s.qovf region) else .next s

/-! ## Watchdogs (24 R357, R358) -/

/-- DLEFT (24 Table 24-6). -/
def wdogLeft (w : W64) : Nat := bits w 63 32
/-- The stall limit. -/
def wdogStall (w : W64) : Nat := bits w 31 8
/-- EXP. -/
def wdogExp (w : W64) : Bool := bitAt w 0

/-- The cycles that a thread has to halt after its watchdog has expired (24 R358). -/
def haltGrace : Nat := 2 ^ 20

/-- A region's watchdog runs: the region is held, not pre-empted, and has not expired. Log entry 40 (DEDUCED). -/
def Region.watched (r : Region) : Bool := r.live && !r.released && !r.halted && r.preempt == .none && !wdogExp r.wdog

/-- A watchdog has expired (24 R358): EXP, the containment with class DEADLINE, and the record for the thread's handler. Log
entry 40 (DEDUCED). -/
def State.expire (s : State) (rid : Nat) (c : FaultCode) : State :=
  let job := (s.region rid).job
  let s := s.onRegion rid fun r => { r with wdog := r.wdog ||| 1, wdogHalt := some (s.cycle + haltGrace) }
  let s := s.contain rid clsDeadline c.code.toNat (agentNumber (.ctl rid)) (s.configured rid)
  s.post rid (mkRecord c 8 3 (agentNumber (.ctl rid)) job 0 0)

/-- DEADLINE (24 R358): DLEFT has reached 0. Log entry 79 (DESIGN CHOICE). -/
def execDeadline (region : Nat) (s : State) : Host.Outcome State Fault Refusal :=
  let r := s.region region
  if r.watched && wdogLeft r.wdog == 0 then .next (s.expire region .deadline) else .next s

/-- The stall count has reached its limit, in units of 1,024 cycles; 0 disables it (24 Table 24-6). Log entry 79 (DESIGN
CHOICE). -/
def Region.stalled (r : Region) : Bool := wdogStall r.wdog != 0 && 1024 * wdogStall r.wdog ≤ r.stallCnt

/-- STALL (24 R358). -/
def execStall (region : Nat) (s : State) : Host.Outcome State Fault Refusal :=
  let r := s.region region
  if r.watched && r.stalled then .next (s.expire region .stall) else .next s

/-- The grace of a thread whose watchdog has expired is over. -/
def Region.graceOver (r : Region) (cycle : Nat) : Bool :=
  r.live && !r.halted && match r.wdogHalt with
    | some c => c ≤ cycle
    | none => false

/-- HALT_GRACE_EXPIRY (24 R358): the executive aborts the section. -/
def execHaltGraceExpiry (region : Nat) (s : State) : Host.Outcome State Fault Refusal :=
  let r := s.region region
  if r.graceOver s.cycle then
    .next (s.execTake region (mkRecord (if wdogLeft r.wdog == 0 then .deadline else .stall) 8 3 (agentNumber (.ctl region)) r.job 0 0))
  else .next s

/-! ## The job budget (24 R359) -/

/-- A job holds at least one region. -/
def State.holdsRegion (s : State) (job : Nat) : Bool := s.regions.any fun r => r.2.live && r.2.job == job && !r.2.released

/-- JOBDEADLINE (24 R359): the job budget has run out while the job holds a region. Log entry 41 (DESIGN CHOICE). -/
def execJobdeadline (job : Nat) (s : State) : Host.Outcome State Fault Refusal :=
  let j := s.job job
  if j.live && j.outcome.isNone && s.holdsRegion job && j.pkg.jbudget ≤ j.budget then
    let rec_ := mkRecord .jobdeadline 8 3 0 job 0 0
    .next ((s.abortJob job rec_ 5).event job 0 (recWords rec_))
  else .next s

/-! ## BREAK_RESUME (24 R372) -/

/-- BREAK_RESUME (24 R372): the executive sets SKIPBK and resumes the agent, whose block runs again. Log entry 39 (DEDUCED). -/
def execBreakResume (agent : Agent) (s : State) : Host.Outcome State Fault Refusal :=
  match agent with
  | .ctl r =>
    if (s.region r).brkStop then
      .next (s.onRegion r fun x => { x with brkStop := false, status := statusSet x.status 12 true })
    else .next s
  | a =>
    match agentKey a with
    | some k =>
      if (s.pe k).brkStop then
        .next (s.onPe k fun p => { p with brkStop := false, stopped := false, status := statusSet p.status 12 true })
      else .next s
    | none => .next s

end Sys2Proof.Machine
end

