-- ==== Sys2Proof/Machine/SaveArea.lean ====
section
/-! DEFINITION. SaveArea: the save area of a context in device memory: its layout (24 R365, Table 24-7), its tags (24 R367), and
the check of them (24 R368). -/

namespace Sys2Proof.Machine

/-! ## SipHash-2-4 (24 R367) -/

/-- The four words of SipHash's state. -/
structure SipState where
  a : W64
  b : W64
  c : W64
  d : W64
  deriving DecidableEq, Repr

/-- One round. -/
def SipState.round (v : SipState) : SipState :=
  let a := v.a + v.b
  let b := v.b.rotateLeft 13 ^^^ a
  let a := a.rotateLeft 32
  let c := v.c + v.d
  let d := v.d.rotateLeft 16 ^^^ c
  let a := a + d
  let d := d.rotateLeft 21 ^^^ a
  let c := c + b
  let b := b.rotateLeft 17 ^^^ c
  ⟨a, b, c.rotateLeft 32, d⟩

/-- Take in one word: two rounds. -/
def SipState.absorb (v : SipState) (m : W64) : SipState :=
  let w := (SipState.round { v with d := v.d ^^^ m }).round
  { w with a := w.a ^^^ m }

/-- SipHash-2-4 of a message of whole words, `n` bytes long in all. -/
def sipHash (key : BitVec 128) (ws : List W64) (n : Nat) : W64 :=
  let k0 : W64 := key.extractLsb' 0 64
  let k1 : W64 := key.extractLsb' 64 64
  let v : SipState := ⟨k0 ^^^ 0x736F6D6570736575#64, k1 ^^^ 0x646F72616E646F6D#64, k0 ^^^ 0x6C7967656E657261#64,
                       k1 ^^^ 0x7465646279746573#64⟩
  let v := (ws.foldl SipState.absorb v).absorb (place 64 56 8 n)
  let v := (SipState.round (SipState.round (SipState.round (SipState.round { v with c := v.c ^^^ 0xFF#64 }))))
  v.a ^^^ v.b ^^^ v.c ^^^ v.d

/-- The tag of a page: its address, the job tag with GEN, and its bytes (24 R367). -/
def pageTag (key : BitVec 128) (addr job gen : Nat) (bs : List Byte) : W64 :=
  sipHash key (w64 addr :: packFields 64 [(0, 16, job), (16, 8, gen)] ::
    (List.range 512).map fun k => BitVec.ofNat 64 (bytesFrom bs (8 * k) 8)) 4112

/-! ## The layout (24 R365, Table 24-7) -/

/-- Where the tag area begins. -/
def tagArea (nb : Nat) : Nat := 0x20000 + nb * 0x410000
/-- The 64 KiB pages of a save area: its contents and its tags. -/
def savePages (nb : Nat) : Nat := ceilDiv (tagArea nb + 8 * (tagArea nb / 4096)) 65536
/-- Where bay k begins. -/
def saveBay (k : Nat) : Nat := 0x20000 + k * 0x410000
/-- Where PE p of bay k begins. -/
def savePe (k p : Nat) : Nat := saveBay k + 0x10000 + p * 0x10000

/-- Words at an offset. -/
def wordsAt (o : Nat) (ws : List W64) : Nat × List Byte := (o, ws.flatMap fun w => leBytes 8 w.toNat)

/-- Items whose layout is not architectural (24 R424). Log entry 9 (DESIGN CHOICE). -/
def ownLayout (o size seed : Nat) : Nat × List Byte := (o, (Config.saveLayout o size seed).take size)

/-- The state of a register in two bits: 00 empty, 01 full, 10 failed. -/
def regCode (r : Reg) : Nat :=
  match r.st with
  | .empty => 0
  | .full => 1
  | .failed _ => 2

/-- The states of registers, packed. -/
def regCodes (m : Map Reg) (n : Nat) : List Byte :=
  leBytes (ceilDiv n 4) (packFields 512 ((List.range n).map fun i => (2 * i, 2, regCode (Map.get Reg.blank m i))) : W512).toNat

/-- The code of a section's state, in the order of Table 18-3, with NEXT above it. Log entry 52 (DEDUCED). -/
def sectWord (r : Region) : W64 := packFields 64 [(0, 3, sectCode r.sect), (3, 1, b2n r.next)]

/-- GEN of a region: that of its home PE's SYS_LBACK, which a restore keeps (07 Table 7-1; 24 R367, Table 24-8). -/
def State.genOf (s : State) (r : Region) : Nat := bits (s.pe r.rect.home).lback 15 8

/-- The region's own items. The 64 status words of the dispatcher fill their 512 bytes: the restore logic keeps the round
number (log entry 52 (DEDUCED)). Log entry 52 (DEDUCED). -/
def regionItems (s : State) (r : Region) (queued held : List Call) : List (Nat × List Byte) :=
  let d := r.rect.d
  [wordsAt 0 [r.sysreg, r.stitch, sectWord r, w64 r.job, w64 (s.genOf r), w64 (bits (featWord d) 5 0)],
   wordsAt 0x100 [r.pc, w64 r.pts, r.status, r.tvec, r.epc, r.wdog, w64 r.rstack.length],
   wordsAt 0x200 r.rstack,
   wordsAt 0x300 ((List.range 64).map fun i => (Map.get Reg.blank r.g i).bits.setWidth 64),
   (0x500, regCodes r.g 64),
   wordsAt 0x600 ((List.range 8).flatMap fun i => [Map.get 0 r.caps i, match r.capLoc.find i with
     | some l => packFields 64 [(63, 1, 1), (16, 3, l.2), (0, 10, l.1)]
     | none => 0]),
   wordsAt 0x680 ((r.capHi.map fun e => packFields 64 [(63, 1, 1), (32, 20, e.2), (0, 10, e.1)]).take 16),
   wordsAt 0x800 (r.faultq.flatMap recWords),
   wordsAt 0x1000 ((List.range 64).map fun b => r.streamer.word b)] ++
  (((queued.map fun c => (c, 0)) ++ held.map fun c => (c, 1)).zipIdx.map fun (x : (Call × Nat) × Nat) =>
    (0x2000 + 128 * x.2, leBytes 64 x.1.1.record.toNat ++ leBytes 8 x.1.1.time.toNat ++
      [BitVec.ofNat 8 x.1.2, BitVec.ofNat 8 (queueCode x.1.1.queue), BitVec.ofNat 8 d])) ++
  r.streamer.blocks.map fun b => (0x18000 + 512 * b.1, leBytes 512 (b.2.wait.foldl (fun m t => m ||| 2 ^ t) 0))

/-- A configuration. -/
def configItems (o : Nat) (c : PeConfig) : List (Nat × List Byte) :=
  let blk := fun (ws : List Word) => ws.flatMap fun w => leBytes 4 w.toNat
  (match c.node with
    | some ws => [(o, (blk ws).take 0x200)]
    | none => []) ++
  (c.rules.map fun e => (o + 0x200 * (e.1 + 1), (blk e.2).take 0x200)) ++
  [wordsAt (o + 0x1200) [c.groups.setWidth 64, c.coalMask]]

/-- The channel state of a PE: the tokens of its ports, port by port (24 R362). -/
def channelItems (o : Nat) (p : Pe) : List (Nat × List Byte) :=
  ((p.inports.flatMap fun e => (e.2.q ++ e.2.batch.records).map fun t => (e.1, t)).zipIdx.map fun x =>
    let t := x.1.2
    (o + 96 * x.2, leBytes 64 t.val.bits.toNat ++ leBytes 8 t.time.toNat ++ [BitVec.ofNat 8 t.tagBits, BitVec.ofNat 8 x.1.1] ++
      leBytes 6 t.stamp))

/-- The items of one PE. -/
def peItems (o seed : Nat) (p : Pe) : List (Nat × List Byte) :=
  configItems o p.active ++ configItems (o + 0x1400) p.pending ++
  [wordsAt (o + 0x2800) ((List.range 16).map fun i => (Map.get Reg.blank p.nregs i).bits.setWidth 64),
   (o + 0x2880, (List.range 8).flatMap fun i => leBytes 64 (Map.get Reg.blank p.vregs i).bits.toNat),
   (o + 0x2A80, regCodes (p.nregs ++ p.vregs.map fun e => (16 + e.1, e.2)) 24),
   ownLayout (o + 0x2B00) 0x100 seed, ownLayout (o + 0x2C00) 0x200 seed,
   wordsAt (o + 0x2E00) ((List.range 64).map fun i => (p.inport i).frontier)] ++
  channelItems (o + 0x3000) p ++
  [wordsAt (o + 0x7800) [p.matrix.mstat], ownLayout (o + 0x7840) 0x200 seed, (o + 0x7C00, p.matrix.bufs.flatten.take 1024)] ++
  (p.matrix.tiles.zipIdx.map fun t => (o + 0x8000 + 1024 * t.2, t.1.flatMap fun q => leBytes 16 q.toNat)) ++
  [ownLayout (o + 0xA000) 0x500 seed, ownLayout (o + 0xA800) 0x800 seed,
   wordsAt (o + 0xB000) ((List.range 128).map fun n => match p.lpt.find n with
     | some e => e.word
     | none => 0),
   ownLayout (o + 0xB400) 0x200 seed,
   (o + 0xB600, (List.range 65).flatMap fun i => leBytes 4 (Map.get 0 p.active.locs i).toNat),
   (o + 0xB800, (List.range 64).flatMap fun i => leBytes 2 (Map.get 0 p.active.outp i).toNat)] ++
  (p.switch.map fun e => (o + 0xC000 + 2 * e.1, leBytes 2 e.2.toNat))

/-- The items of one bay: its engine's streams and its counters. Log entry 52 (DEDUCED). -/
def bayItems (k seed : Nat) (b : Bay) : List (Nat × List Byte) :=
  (b.streams.map fun e => ownLayout (saveBay k + 512 * e.1) 512 seed) ++
  [wordsAt (saveBay k + 0x4000) ((List.range 4).map fun i => (Map.get Pmon.blank b.pmon i).word)]

/-- Everything that is saved of a region. -/
def State.saveItems (s : State) (rid : Nat) (queued held : List Call) : List (Nat × List Byte) :=
  let r := s.region rid
  let bays := r.rect.bays
  regionItems s r queued held ++ bays.zipIdx.flatMap fun b =>
    bayItems b.2 s.nextId (s.bay b.1) ++ (List.range 64).flatMap fun i =>
      peItems (savePe b.2 i) s.nextId (s.pe (peOf (b.1 / 64) (8 * (b.1 % 8) + i % 8) (8 * (b.1 / 8 % 8) + i / 8)))

/-! ## Writing and checking (24 R367, R368) -/

/-- The bytes of a page of 4 KiB as its slices hold it. -/
def State.pageBytes (s : State) (a : Nat) : List Byte :=
  let m : Memory := s.mem.filter fun e => a ≤ e.1 && e.1 < a + 4096
  let ls := s.slices.flatMap fun k => (k.2.lines.filter fun e => a ≤ 64 * e.1 && 64 * e.1 < a + 4096).map fun e => (e.1, k.1)
  if ls.isEmpty then m.readBytes a 4096 else (List.range 4096).map fun i => s.coherentByte (a + i)

/-- The tags of a save area are computed and written (24 R367). -/
def State.writeTags (s : State) (base nb job gen : Nat) : State :=
  (List.range (tagArea nb / 4096)).foldl (fun t k =>
    let a := base + 4096 * k
    t.storeBytes (base + tagArea nb + 8 * k) (leBytes 8 (pageTag s.saveKey a job gen (s.pageBytes a)).toNat)) s

/-- The context of a region is written to its save area, under its tags. -/
def State.writeSave (s : State) (rid base : Nat) (queued held : List Call) : State :=
  let r := s.region rid
  let nb := r.rect.bays.length
  let t := (s.saveItems rid queued held).foldl (fun t x => t.storeBytes (base + x.1) x.2) s
  t.writeTags base nb r.job (s.genOf r)

/-- The address of the first page of a save area that cannot be read or whose tag does not match (24 R368, R369). -/
def State.badSave (s : State) (base nb job gen : Nat) : Option Nat :=
  ((List.range (tagArea nb / 4096)).map fun k => (k, base + 4096 * k)).findSome? fun x =>
    let t := base + tagArea nb + 8 * x.1
    let unread := fun (p : Nat) => (s.accessError execTag p 1 false).isSome || s.poisoned p
    if (List.range 64).any (fun i => unread (x.2 + 64 * i)) || unread t ||
        pageTag s.saveKey x.2 job gen (s.pageBytes x.2) != BitVec.ofNat 64 (leNat (s.coherentBytes t 8)) then some x.2
    else none

end Sys2Proof.Machine
end

