-- ==== Sys2Proof/Machine/PreemptEv.lean ====
section
/-! DEFINITION. PreemptEv: draining a pre-emption domain by markers (24 R361 to R364; 06 R102), the page-fault drain (05 R81; 24
R370), saving its contexts, and restoring one (24 R365 to R369). -/

namespace Sys2Proof.Machine

/-! ## The drain begins (24 R361, R370) -/

/-- A region is being drained. -/
def Region.draining (r : Region) : Bool :=
  match r.preempt with
  | .draining _ => true
  | _ => false

/-- The marker is injected into the domain of a region, for the sake of a withheld translation or of the executive. -/
def State.beginDrain (s : State) (rid : Nat) (page : Option Withheld) : State :=
  let t := (s.domainOf rid).foldl (fun s k => s.onRegion k fun r =>
    if r.preempt == .none then { r with preempt := .draining s.cycle, marks := [] } else r) s
  t.onRegion rid fun r => { r with pageWait := if r.pageWait.isSome then r.pageWait else page }

/-- A region that the executive may pre-empt: it holds its bays. -/
def Region.preemptable (r : Region) : Bool := r.live && !r.released && r.preempt != .saved

/-- How long a translation stays withheld before its region is drained (05 R81). -/
def pagePatience : Nat := 2 ^ 22

/-- WITHHELD_TIMEOUT (05 R81; 24 R370): a translation has stayed withheld for 2^22 cycles, and its region is drained. -/
def execWithheldTimeout (idx : Nat) (s : State) : Host.Outcome State Fault Refusal :=
  match s.withheld[idx]? with
  | none => .next s
  | some w =>
    let r := s.region w.region
    if w.answer.isNone && w.since + pagePatience ≤ s.cycle && r.preemptable && r.preempt == .none then
      .next (s.beginDrain w.region (some w))
    else .next s

/-! ## The circuits that a domain's sources begin (24 R361) -/

/-- A MARK. -/
def markToken : Token := ⟨⟨.mark, false, false, 0⟩, 0, 0⟩

/-- MARK leaves on a circuit. It is counted nowhere. -/
def State.sendMark (s : State) (x : Nat × Nat) : State :=
  s.onPe x.1 fun p => { p with outq := Map.modify [] p.outq x.2 (· ++ [markToken]) }

/-- MARK leaves on each of a list of circuits. -/
def State.sendMarks (s : State) (l : List (Nat × Nat)) : State := l.foldl State.sendMark s

/-- The circuits of a control thread: to port 63 of the nodes that it can send BOUND, and of its dispatcher to port 0 of every
node. -/
def State.threadCircuits (s : State) (rid : Nat) : List (Nat × Nat) :=
  let r := s.region rid
  ((((r.info.nodes ++ r.nextInfo.nodes).filter NodeInfo.bound).map NodeInfo.place).eraseDups.filterMap r.keyAt).map (·, controlTag) ++
  (if r.streamer.on then (r.rect.pes.filter fun k => (s.pe k).active.node.isSome).map (·, threadTag) else [])

/-- The circuits of the root to frontier ports. -/
def State.rootCircuits (s : State) (rid : Nat) : List (Nat × Nat) :=
  let r := s.region rid
  ((s.root r.job).holds.filter fun (_, _, _, k, _, _) => r.nodes.contains k).map fun (_, _, _, k, p, _) => (k, frontierTag p)

/-- The return circuits. -/
def Region.returnCircuits (r : Region) : List (Nat × Nat) :=
  ((r.retTable.map fun e => e.1 / 8).eraseDups).map (r.rect.home, ·)

/-- The mailbox queues that feed a region from outside its domain, by the box that they reach. -/
def State.mailCircuits (s : State) (d : List Nat) (rid : Nat) : List (Nat × Nat) :=
  let r := s.region rid
  let live := (s.regions.filter fun e => e.2.live && e.2.job == r.job && !d.contains e.1).flatMap fun e => e.2.mail
  let saved := (s.saves.filter fun c => c.2.live && c.2.job == r.job).flatMap fun c => c.2.region.mail
  ((live ++ saved).filter fun m => r.rect.has m.toPe).map fun m => (m.toPe, m.tag)

/-- The circuits of a node. -/
def Pe.circuits (p : Pe) (key : Nat) : List (Nat × Nat) := (p.outPorts.filterMap p.tagOf).eraseDups.map (key, ·)

/-- Where a circuit ends. -/
def State.circuitPorts (s : State) (x : Nat × Nat) : List (Nat × Nat) :=
  if x.2 = controlTag then [(x.1, 63)]
  else if x.2 = threadTag then [(x.1, 0)]
  else if 4200 ≤ x.2 then [(x.1, x.2 - 4200)]
  else s.ends x.1 x.2

/-- A node that takes part in a cut: it is configured and not contained. -/
def State.takesPart (s : State) (k : Nat) : Bool := (s.pe k).active.node.isSome && !(s.pe k).sealed

/-- The ports of a domain that end a circuit on which MARK arrives (24 R362). -/
def State.markedPorts (s : State) (d : List Nat) : List (Nat × Nat) :=
  let nodes := d.flatMap fun k => (s.region k).nodes
  let circuits := d.flatMap fun k =>
    let r := s.region k
    s.threadCircuits k ++ s.rootCircuits k ++ r.returnCircuits ++ s.mailCircuits d k ++
      (r.nodes.filter s.takesPart).flatMap fun n => (s.pe n).circuits n
  (circuits.flatMap s.circuitPorts).eraseDups.filter fun e => nodes.contains e.1 && s.takesPart e.1

/-! ## Sources -/

/-- A source of a region has sent its MARK. -/
def State.didMark (s : State) (rid n : Nat) (l : List (Nat × Nat)) : State :=
  (s.sendMarks l).onRegion rid fun r => { r with marks := r.marks ++ [n] }

/-- The control thread: between blocks, or after abandoning a block that waits (24 R361). -/
def State.markThread (s : State) (rid : Nat) : State :=
  match s.frameOf (· == .ctl rid) with
  | none => s.didMark rid 0 (s.threadCircuits rid)
  | some f =>
    if s.waitsAtIssue f then
      let t := (s.dropFrame (· == .ctl rid)).onRegion rid fun r => { r with pc := f.addr }
      t.didMark rid 0 (t.threadCircuits rid)
    else s

/-- A translation that is withheld holds the call of a unit (22 R338). -/
def State.unitHeld (s : State) (d : Nat) (q : Queue) (n : Nat) : Bool :=
  s.withheld.any fun w => w.waiter == .unit d (queueCode q) n && w.answer.isNone

/-- The calls of a region that a die's unit of a queue runs, or whose return can leave; a call that a withheld translation holds is
saved (05 R81). -/
def State.unitsBusy (s : State) (d rid : Nat) : Bool :=
  let c := (s.die d).copro
  allQueues.any fun q => (List.range 8).any fun n =>
    let u := c.unit q n
    (u.running.toList.any (fun r => r.call.region == rid) && !s.unitHeld d q n) ||
    u.ready.any fun r => r.call.region == rid && c.mayReturn q r

/-- The marker of a region has reached every queue of its die, and no return is still to leave (22 R340). -/
def State.queuesCut (s : State) (rid : Nat) : Bool :=
  let d := (s.region rid).rect.d
  (allQueues.all fun q => (s.die d).copro.cut.contains (queueCode q, rid)) && !s.unitsBusy d rid

/-- The sources of a region other than its nodes. -/
def State.markSources (d : List Nat) (s : State) (rid : Nat) : State :=
  let has := fun (s : State) (n : Nat) => (s.region rid).marks.contains n
  let s := if has s 0 then s else s.markThread rid
  let s := if has s 1 then s else s.didMark rid 1 (s.rootCircuits rid)
  let s := if has s 2 || !s.queuesCut rid then s else s.didMark rid 2 (s.region rid).returnCircuits
  if has s 3 then s else s.didMark rid 3 (s.mailCircuits d rid)

/-! ## Nodes (24 R362, R363) -/

/-- A firing can be abandoned: it waits at issue, or, at an AG node, one admitted before it does. -/
def State.abandons (s : State) (fs : List Frame) (f : Frame) : Bool :=
  s.waitsAtIssue f || (match f.agent with
    | .ag _ n => f.phase == .running && !f.accessing && fs.any fun g => (match g.agent with
      | .ag _ m => m < n && s.waitsAtIssue g
      | _ => false)
    | _ => false)

/-- An MREL that has begun to send finishes first (24 R363). -/
def Matrix.sending (m : Matrix) : Bool :=
  match m.queue with
  | c :: _ => !c.tokens.isEmpty
  | [] => false

/-- A PE can save its state: its firing has committed or is abandoned, its matrix unit sends nothing, and its store-to-load
forwarding table is empty (07 R111). The home PE also serves the control thread, and waits for it. -/
def State.maySave (s : State) (key : Nat) : Bool :=
  let fs := (s.cur :: s.parked).filter fun f => f.live && f.kind != .rule && agentKey f.agent == some key
  (fs.all (s.abandons fs)) && !(s.pe key).matrix.sending && (s.pe key).fwd.isEmpty && (match (s.pe key).region with
    | some rid => (s.region rid).rect.home != key || (s.region rid).marks.contains 0
    | none => false)

/-- A PE or AG node saves its state, and sends MARK on every circuit that it begins (24 R362; 15 R247). -/
def State.saveNode (s : State) (key : Nat) : State :=
  let s := (s.dropFrame (agentOnNode key)).onPe key fun p => { p with marks := true, stepRun := StepRun.blank, march := [] }
  let s : State := if agBase ≤ key then
      { s with ags := Map.modify Ag.blank s.ags (key - agBase) fun a => { a with inflight := [] } } else s
  if s.takesPart key then s.sendMarks ((s.pe key).circuits key) else s

/-- A PE that no MARK reaches by a circuit, or a source: the executive makes it send MARK (24 R361). -/
def State.selfMark (ports : List (Nat × Nat)) (s : State) (key : Nat) : State :=
  let p := s.pe key
  if !p.marks && (isSource p.active.instrs || !(ports.any fun e => e.1 == key)) && s.maySave key then s.saveNode key else s

/-- The marker has passed a PE and the copy engine of its bay: its frames are unpinned, and the dirty ones start their
write-back (07 R106). -/
def State.unpinAt (s : State) (key : Nat) : State :=
  match (s.pe key).region with
  | some rid => if (s.pe key).marks && (s.bay (bayOf key)).cut then s.onPe key (·.unpin (s.region rid).job) else s
  | none => s

/-- The sources of a region's domain send MARK, each as soon as it can. -/
def State.injectMarks (s : State) (region : Nat) : State :=
  let s := s.beginDrain region none
  let d := s.domainOf region
  let ports := s.markedPorts d
  let s := d.foldl (State.markSources d) s
  let nodes := d.flatMap fun k => (s.region k).nodes
  nodes.foldl State.unpinAt (nodes.foldl (State.selfMark ports) s)

/-- PREEMPT_INJECT (24 R361): the executive makes the sources of a domain send MARK. -/
def execPreemptInject (region : Nat) (s : State) : Host.Outcome State Fault Refusal :=
  if (s.region region).preemptable then .next (s.injectMarks region) else .next s

/-- MARK_RECEIVED (24 R362): the first MARK of a node: it saves its state and passes MARK on. -/
def execMarkReceived (pe port : Nat) (s : State) : Host.Outcome State Fault Refusal :=
  if ((s.pe pe).inport port).marked && !(s.pe pe).marks && s.maySave pe then .next (s.saveNode pe) else .next s

/-! ## Copy engines (06 R102) -/

/-- An inbound stream at the marker: the slots of the tiles in flight are free again, and the tiles and their credits are taken
again after the restore. -/
def State.sendBack (bay n : Nat) (s : State) (t : Tile) : State :=
  match (s.bay bay).streams.find n with
  | none => s
  | some st =>
    let s := st.handles.zipIdx.foldl (fun s b => s.onHandle b.1.1 b.1.2 fun h => h.setSlot (t.slots.getD b.2 0) .free) s
    s.onStream bay n fun x => { x with again := x.again ++ [(t.idx, t.slots)], credits := x.credits.map (· + 1) }

/-- One stream at the marker. -/
def State.cutStream (bay : Nat) (s : State) (x : Nat × Stream) : State :=
  if x.2.inbound && x.2.live && !x.2.stopped then
    let s := x.2.tiles.foldl (State.sendBack bay x.1) s
    let s := s.onStream bay x.1 fun st => { st with tiles := [], port := { st.port with outbox := [], flight := [] } }
    { s with transfers := s.transfers.filter fun t => match t.what with
        | .tile b n _ => !(b == bay && n == x.1)
        | _ => true }
  else s

/-- COPY_MARKER (06 R102): the marker reaches a copy engine: inbound tiles in flight are sent back; outbound ones complete before
the marker passes on. -/
def execCopyMarker (bay : Nat) (s : State) : Host.Outcome State Fault Refusal :=
  match s.regionOfBay bay with
  | none => .next s
  | some rid =>
    if !(s.region rid).draining || (s.bay bay).cut then .next s
    else
      let s := ((s.bay bay).streams.filter fun e => e.2.region == rid && e.2.pair.isNone).foldl (State.cutStream bay) s
      .next (s.onBay bay fun b => { b with cut := true })

/-! ## The cut (24 R364) -/

/-- A PE has saved, holds nothing that moves, and its write-backs are acknowledged. -/
def State.peCut (s : State) (job : Nat) (ports : List (Nat × Nat)) (key : Nat) : Bool :=
  let p := s.pe key
  p.marks && (p.matrix.cut || p.matrix.queue.isEmpty) &&
  (ports.all fun e => e.1 != key || (p.inport e.2).marked) &&
  (match p.lops with
    | [] => true
    | x :: _ => (match x.op with
      | .pshift _ _ | .pstep _ _ => true
      | _ => false)) &&
  p.refills.isEmpty && p.fwd.isEmpty && p.waiters.isEmpty &&
  (p.boxes.all fun e => e.2.isEmpty) && (p.outq.all fun e => e.1 == dispatchTag || e.2.isEmpty) &&
  p.lpt.all fun e => !p.present job e.1 || !(e.2.pin || e.2.d || e.2.wb)

/-- A region has been cut. -/
def State.regionCut (s : State) (ports : List (Nat × Nat)) (rid : Nat) : Bool :=
  let r := s.region rid
  r.draining && ([0, 1, 2, 3].all r.marks.contains) && s.queuesCut rid &&
  !s.running (fun a => a == .ctl rid || (match agentKey a with
    | some k => r.nodes.contains k
    | none => false)) &&
  (s.ports.all fun p => p.region != rid || (p.outbox.isEmpty && p.flight.isEmpty)) &&
  (s.transfers.all fun t => t.region != rid) &&
  (r.rect.bays.all fun b => (s.bay b).cut && (s.bay b).streams.all fun e => e.2.region != rid || e.2.tiles.isEmpty) &&
  r.nodes.all (s.peCut r.job ports)

/-! ## Saving -/

/-- The calls of a region in the queues of a die, behind those that withheld translations hold in its units. -/
def Copro.queuedOf (c : Copro) (rid : Nat) : List Call :=
  ((c.units.flatMap fun (u : Nat × Unit_) => u.2.running.toList.map fun (r : Running) => { r.call with taken := true }) ++
    c.queues.flatMap Prod.snd).filter fun x => x.region == rid
/-- The calls of a region that are held. -/
def Copro.heldOf (c : Copro) (rid : Nat) : List Call :=
  (c.units.flatMap fun u => u.2.held.map Prod.snd).filter fun x => x.region == rid
/-- The finished calls of a region whose returns still wait. Log entry 33 (DEDUCED). -/
def Copro.readyOf (c : Copro) (rid : Nat) : List Running := (c.units.flatMap fun u => u.2.ready).filter fun x => x.call.region == rid

/-- A die's coprocessors without the calls and the marker of a region. -/
def Copro.without (c : Copro) (rid : Nat) : Copro :=
  { queues := c.queues.mapVals fun _ l => l.filter fun x => x.region != rid,
    units := c.units.mapVals fun _ u => { u with running := u.running.filter (fun r => r.call.region != rid),
                                                 held := u.held.filter (fun x => x.2.region != rid),
                                                 ready := u.ready.filter fun x => x.call.region != rid },
    cut := c.cut.filter fun x => x.2 != rid }

/-- The number of the context of an entry. -/
def contextOf (job entry : Nat) : Nat := 65536 * job + entry

/-- The context of a region as it is saved. Log entry 53 (DEDUCED). -/
def State.contextFor (s : State) (rid base : Nat) : Saved :=
  let r := s.region rid
  let root := s.root r.job
  let c := (s.die r.rect.d).copro
  let bid := match (s.job r.job).entries.find r.entry with
    | some e => (s.job r.job).bidOf r.job e
    | none => ⟨r.job, r.entry, 0, 0, 0, 0, [r.rect.d], 0, none⟩
  { live := true, lost := false, job := r.job, entry := r.entry, save := w64 base, gen := s.genOf r, nb := r.rect.bays.length,
    region := { r with pageWait := none }, pes := r.nodes.map fun k => (r.placeOf k, s.pe k),
    streams := r.rect.bays.zipIdx.flatMap fun b =>
      ((s.bay b.1).streams.filter fun e => e.2.region == rid && e.2.pair.isNone).map fun e => (b.2, e.1, e.2),
    queued := c.queuedOf rid, held := c.heldOf rid, ready := c.readyOf rid,
    pmons := r.rect.bays.map fun b => (s.bay b).pmon,
    bayLocs := (root.subs.filter fun x => x.2 == .bay rid).map Prod.fst,
    ports := root.subs.filterMap fun x => match x.2 with
      | .port k p => if r.nodes.contains k then some (r.placeOf k, p, x.1) else none
      | .bay _ => none,
    holds := root.holds.filterMap fun (l, own, d, k, p, t) =>
      if r.nodes.contains k then some (l, own, d, r.placeOf k, p, t) else none,
    fronts := root.front, page := r.pageWait, rank := (bid.prio, bid.age, r.bypass),
    dies := if r.mail.isEmpty then bid.dies else [r.rect.d], place := none }

/-- A PE that a context has left: its local memory and its page table stay (07 R106). -/
def Pe.vacate (p : Pe) : Pe :=
  { Pe.blank with lmem := p.lmem, full := p.full, softBad := p.softBad, softCorr := p.softCorr, lpt := p.lpt, lback := p.lback }

/-- The queues of a mailbox with those of one number under another. -/
def movedKeys (m : Map (List Token)) (a b : Nat) : Map (List Token) :=
  (m.filter fun e => e.1 / 4096 == a).foldl (fun m e => Map.set (Map.drop m e.1) (4096 * b + e.1 % 4096) e.2) m

/-- The mailbox queues of one number go over to another. Log entry 63 (DEDUCED). -/
def State.moveMail (s : State) (a b : Nat) : State :=
  { s with slices := s.slices.mapVals fun _ c => { c with mailbox := movedKeys c.mailbox a b } }

/-- A region's bays are freed, and nothing of it is left on them (24 R364). -/
def State.vacate (s : State) (rid : Nat) : State :=
  let r := s.region rid
  let s := r.nodes.foldl (fun s k => s.onPe k Pe.vacate) s
  let s := r.rect.bays.foldl (fun s b => s.onBay b fun x =>
    { x with pmon := [], idleFor := s.cycle, cut := false, streams := x.streams.filter fun e => e.2.region != rid }) s
  let s := s.onDie r.rect.d fun d => { d with copro := d.copro.without rid }
  let s := s.onJob r.job fun j =>
    let root := r.nodes.foldl Root.forget j.root
    { j with root := { root with subs := root.subs.filter (fun x => x.2 != .bay rid), out := root.out.filter fun a => a.to_ != .bay rid } }
  { s with regions := s.regions.drop rid, withheld := s.withheld.filter (fun w => w.region != rid),
           tails := s.tails.filter fun p => p.region != rid }

/-- The context of a region is saved: in its save area, under its tags, and with the restore logic; the section bids again with
its rank and its bypass count, unless it waits for a page (21 R324; 24 R364 to R367, R370). -/
def State.saveContext (s : State) (rid first : Nat) : State :=
  let base := 65536 * first
  let c := s.contextFor rid base
  let k := contextOf c.job c.entry
  let s := s.writeSave rid base (c.queued ++ c.ready.map Running.call) c.held
  let s := ((s.vacate rid).moveMail rid (savedMail k)).onEntry c.job c.entry fun e => { e with region := none }
  let waits := match c.page with
    | some w => w.answer.isNone
    | none => false
  { s with saves := s.saves.set k c, saveAddr := s.saveAddr.set rid (w64 base),
           bids := if waits then s.bids else s.bids ++ [c.bid k] }

/-- A context is saved in an area of its own; nothing happens where there is no room for one. -/
def State.saveOne (s : State) (rid : Nat) : Option State :=
  let x := s.takePages (s.region rid).job (savePages (s.region rid).rect.bays.length)
  x.2.map fun a => x.1.saveContext rid a

/-- The contexts of a domain are saved one by one, each in an area of its own; none is where there is no room for one. -/
def State.saveAll : State → List Nat → Option State
  | s, [] => some s
  | s, r :: rs => (s.saveOne r).bind fun t => State.saveAll t rs

/-- CUT_COMPLETE (24 R364): every agent of the domain has saved and its writes are acknowledged: its contexts go to their save
areas and its bays are freed. -/
def execCutComplete (region : Nat) (s : State) : Host.Outcome State Fault Refusal :=
  let d := s.domainOf region
  if !(s.region region).draining then .next s
  else
    let ports := s.markedPorts d
    if d.all (s.regionCut ports) then
      match s.saveAll d with
      | some t => .next t
      | none => .next s
    else .next s

/-! ## DRAINTIMEOUT (24 R364) -/

/-- How long a cut may take. -/
def drainPatience : Nat := 2 ^ 24

/-- A drain of a region is given up. -/
def State.stopDrain (s : State) (rid : Nat) : State :=
  let r := s.region rid
  let s := r.nodes.foldl (fun s k => s.onPe k fun p => { p with marks := false, matrix := { p.matrix with cut := false } }) s
  let s := r.rect.bays.foldl (fun s b => s.onBay b fun x => { x with cut := false }) s
  let s := s.onDie r.rect.d fun x => { x with copro := { x.copro with cut := x.copro.cut.filter fun y => y.2 != rid } }
  s.onRegion rid fun r => { r with preempt := .none, marks := [], pageWait := none }

/-- DRAINTIMEOUT (24 R364): a cut is not complete within 2^24 cycles: the regions of the domain are contained, and the context is
lost. -/
def execDraintimeout (region : Nat) (s : State) : Host.Outcome State Fault Refusal :=
  match (s.region region).preempt with
  | .draining since =>
    if since + drainPatience ≤ s.cycle then
      .next ((s.domainOf region).foldl (fun s k =>
        (s.execTake k (mkRecord .draintimeout 8 3 (agentNumber (.ctl k)) (s.region k).job 0 0)).stopDrain k) s)
    else .next s
  | _ => .next s

/-! ## Restore (24 R368, Table 24-8) -/

/-- A PE of a saved region at its new place. -/
def newKey (old new_ : Region) (k : Nat) : Nat := (new_.keyAt (old.placeOf k)).getD k

/-- An agent of a saved region at its new place. Log entry 70 (DEDUCED). -/
def newAgent (old new_ : Region) (rid : Nat) : Agent → Agent
  | .ctl _ => .ctl rid
  | .node k => .node (newKey old new_ k)
  | .rule k => .rule (newKey old new_ k)
  | .ag a n => .ag (newKey old new_ (agBase + a) - agBase) n

/-- A waiter of a saved region at its new place. -/
def newWaiter (old new_ : Region) (rid : Nat) : Waiter → Waiter
  | .slot a n => .slot (newAgent old new_ rid a) n
  | .stream b n => .stream (bayOf (newKey old new_ (peOf (b / 64) (8 * (b % 8)) (8 * (b / 8 % 8))))) n
  | .matrix k => .matrix (newKey old new_ k)
  | .fetch _ => .fetch rid
  | .unit _ code _ => .unit new_.rect.d code noUnit
  | .hubEntry j => .hubEntry j

/-- The AGENT field of a record at the new place. -/
def newNumber (old new_ : Region) (rid n : Nat) : Nat :=
  match keyOfAgent n with
  | some k => if old.nodes.contains k then agentNumber (if newKey old new_ k < agBase then .node (newKey old new_ k)
      else .ag (newKey old new_ k - agBase) 0) else n
  | none => if n = agentNumber (.ctl (64 * old.rect.d + 8 * (old.rect.y0 / 8) + old.rect.x0 / 8)) then agentNumber (.ctl rid) else n

/-- A register of 512 bits with other bits [31:16]. Log entry 70 (DEDUCED). -/
def withAgent (w : W512) (n : Nat) : W512 := (w &&& ~~~(0xFFFF0000#512)) ||| place 512 16 16 n

/-- The mailbox edges that reach a region, at its new place. -/
def SectInfo.moved (i : SectInfo) (old new_ : Region) : SectInfo :=
  { i with mail := i.mail.map fun m => if old.rect.has m.toPe then { m with toPe := newKey old new_ m.toPe } else m }

/-- The region of a restored context. Log entry 70 (DEDUCED). -/
def Saved.newRegion (c : Saved) (root : Root) (rid : Nat) (sysreg : W64) : Region :=
  let old := c.region
  let n := { old with sysreg := sysreg }
  { n with
    preempt := .none, marks := [], pageWait := none,
    faultq := old.faultq.map fun x => { x with agent := BitVec.ofNat 16 (newNumber old n rid x.agent.toNat) },
    trec := withAgent old.trec (newNumber old n rid (bits old.trec 31 16)),
    fronts := c.bayLocs.foldl (fun m l => Map.set m l (Map.get 0 root.front l, Map.get 0 root.fstamp l)) old.fronts }

/-- A PE takes its saved state in: its local memory is that of the PE where it now stands, its subscribed ports hold the
frontiers announced now (20 R305; 07 R107), and the time that a held record has waited is counted again from now (17 R272). -/
def Saved.newPe (c : Saved) (root : Root) (rid : Nat) (n : Region) (cycle place : Nat) (here p : Pe) : Pe :=
  let cmd := fun (x : MatCmd) => { x with agent := newAgent c.region n rid x.agent }
  let front := fun (i : Nat) (x : InPort) => match c.ports.find? fun e => e.1 == place && e.2.1 == i with
    | some e => { x with marked := false, passed := Map.get 0 root.front e.2.2, frontier := root.frontierFor e.2.2 (p.active.coalesces i), fstamp := Map.get 0 root.fstamp e.2.2,
                         batch := { x.batch with since := cycle } }
    | none => { x with marked := false, batch := { x.batch with since := cycle } }
  { p with region := some rid, lmem := here.lmem, full := here.full, softBad := here.softBad, softCorr := here.softCorr,
           lpt := here.lpt, fwd := [],
           refills := [], marks := false, matrix := { p.matrix with cut := false, queue := p.matrix.queue.map cmd },
           inports := (c.ports.filter fun e => e.1 == place).foldl
             (fun m e => Map.modify InPort.blank m e.2.1 fun x => front e.2.1 x) (p.inports.mapVals front) }

/-- A stream at its new engine. -/
def Saved.newStream (c : Saved) (rid : Nat) (n : Region) (bay k : Nat) (st : Stream) : Stream :=
  { st with issuer := newAgent c.region n rid st.issuer, region := rid,
            handles := st.handles.map (fun h => (newKey c.region n h.1, h.2)),
            port := { st.port with region := rid, who := .copy bay k } }

/-- A call at its new place. -/
def Saved.newCall (c : Saved) (rid : Nat) (n : Region) (x : Call) : Call :=
  { x with region := rid, pe := newKey c.region n x.pe }

/-- The coprocessors of a die with the calls of a restored context: queued ones ahead of new ones, held ones in ZB unit DOM mod
8 (22 R340). Log entry 33 (DEDUCED). -/
def Saved.newCopro (c : Saved) (rid : Nat) (n : Region) (x : Copro) : Copro :=
  let x := c.queued.reverse.foldl (fun (x : Copro) q =>
    { x with queues := Map.modify [] x.queues (queueCode q.queue) (c.newCall rid n q :: ·) }) x
  let x := c.held.reverse.foldl (fun (x : Copro) q =>
    { x with units := Map.modify Unit_.blank x.units (unitKey .zb (q.domain % 8)) fun u =>
        { u with held := (zbFragments q.record, c.newCall rid n q) :: u.held } }) x
  c.ready.foldl (fun (x : Copro) r =>
    { x with units := Map.modify Unit_.blank x.units (unitKey r.call.queue 0) fun u =>
        { u with ready := u.ready ++ [{ r with call := c.newCall rid n r.call }] } }) x

/-- The root has a restored region's subscriptions and holds again; a hold whose location has risen meanwhile moves
(20 R305, R311). -/
def State.rejoin (s : State) (c : Saved) (rid : Nat) (n : Region) : State :=
  let root := s.root c.job
  let key := fun (p : Nat) => (n.keyAt p).getD 0
  let hs := c.holds.map fun (l, own, d, p, port, t) => (l, own, d, key p, port, t)
  let up := (c.holds.map fun h => h.1).eraseDups.filterMap fun l =>
    if Map.get 0 c.fronts l < Map.get 0 root.front l then some (l, Map.get 0 root.front l) else none
  let ms := hs.map (holdMoved up root.stamp)
  let root := { root with
    subs := root.subs ++ c.bayLocs.map (fun l => (l, Subscriber.bay rid)) ++
      c.ports.map fun (e : Nat × Nat × Nat) => (e.2.2, Subscriber.port (key e.1) e.2.1),
    holds := root.holds ++ ms.map HoldMove.hold }
  let s := (s.onJob c.job fun j => { j with root := root }).countOwn c.job (ms.flatMap HoldMove.cs)
  let s := (ms.flatMap HoldMove.out).foldl State.sendFrontier s
  ((State.settleRoot c.job (root.holds.length + 2) s).announce c.job).closeReturns c.job

/-- The mailbox edges of a job that reach a moved region. -/
def State.movedMail (s : State) (job : Nat) (old new_ : Region) : State :=
  let g := fun (r : Region) => if r.job == job then { r with info := r.info.moved old new_, nextInfo := r.nextInfo.moved old new_ } else r
  { s with regions := s.regions.mapVals (fun _ r => g r), saves := s.saves.mapVals fun _ c => { c with region := g c.region } }

/-- A refused page: the renewed walk raises REFUSED (24 R370). -/
def Saved.refused (c : Saved) (rid : Nat) (n : Region) : List Withheld :=
  match c.page with
  | some w => if w.answer == some false then [{ w with region := rid, waiter := newWaiter c.region n rid w.waiter }] else []
  | none => []

/-- Steps 4 to 6 of Table 24-8. Log entry 53 (DEDUCED). -/
def State.loadContext (s : State) (k rid : Nat) (c : Saved) : State :=
  let root := s.root c.job
  let n := c.newRegion root rid (s.region rid).sysreg
  let s : State := { s with regions := s.regions.set rid n, saves := s.saves.drop k, saveAddr := s.saveAddr.set rid c.save }
  let s := c.pes.foldl (fun s e => match n.keyAt e.1 with
    | some key => s.onPe key fun here => c.newPe root rid n s.cycle e.1 here e.2
    | none => s) s
  let s := n.rect.bays.zipIdx.foldl (fun s b => s.onBay b.1 fun x =>
    { x with pmon := c.pmons.getD b.2 [],
             streams := (c.streams.filter fun e => e.1 == b.2).foldl
               (fun m e => Map.set m e.2.1 (c.newStream rid n b.1 e.2.1 e.2.2)) x.streams }) s
  let s := s.onDie n.rect.d fun d => { d with copro := c.newCopro rid n d.copro }
  let s : State := { s with withheld := s.withheld ++ c.refused rid n }
  let s := ((s.moveMail (savedMail k) rid).movedMail c.job c.region n).onEntry c.job c.entry fun e => { e with region := some rid }
  s.rejoin c rid n

/-- The bays that were held for a restore that fails are free again. -/
def State.unplace (s : State) (rid : Nat) : State :=
  let bays := (s.region rid).rect.bays
  bays.foldl (fun s b => s.onBay b fun x => { x with pmon := [], idleFor := s.cycle }) { s with regions := s.regions.drop rid }

/-- A record of the executive about a restore, sent to the job's host. Log entry 11 (DESIGN CHOICE). -/
def State.restoreFails (s : State) (c : Saved) (rid : Nat) (code : FaultCode) (info : W64) : State :=
  (s.unplace rid).event c.job 0 (recWords (mkRecord code 8 3 (agentNumber (.ctl rid)) c.job info 0))

/-- The header of the block that a CONF segment begins (17 Table 17-5): the lowest word of INDEX 0. -/
def ConfItem.header? : ConfItem → Option Word
  | .record w => if (confType w == 1 && confIndex w == 0) || (confType w == 2 && confIndex w % 8 == 0) then some (confWord w 0) else none
  | .tables _ _ _ _ => none

/-- The header of every saved block, active and pending, and of every CONF segment that has not arrived (24 R368, step 3). -/
def Pe.headers (p : Pe) : List Word :=
  let of_ := fun (c : PeConfig) => (c.node.toList ++ c.rules.map Prod.snd).filterMap List.head?
  of_ p.active ++ of_ p.pending ++ p.confq.filterMap ConfItem.header?

/-- A die has every feature that the saved blocks need (24 R368, step 3). Log entry 72 (DEDUCED). -/
def Saved.fits (c : Saved) (d : Nat) : Bool :=
  (c.pes.flatMap fun e => e.2.headers).all fun h => bits h 13 8 &&& bits (featWord d) 5 0 == bits h 13 8

/-- The first saved block, active or whole in the pending configuration, that fails the checks of an image, with the place of
its PE (09 R160). Log entry 11 (DESIGN CHOICE). -/
def Saved.badBlock (c : Saved) : Option (Nat × BlockFault) :=
  c.pes.findSome? fun e =>
    ((e.2.active :: if e.2.pending.ended then [e.2.pending] else []).findSome? fun x =>
      configFault x [] (c.region.rect.w * c.region.rect.h ≤ e.1)).map fun f => (e.1, f)

/-- A saved block fails its check: the record names it, the bays are as they were, and no die would serve the context, which is kept
(09 R160; 24 R368). Log entry 11 (DESIGN CHOICE). -/
def State.blockFails (s : State) (k rid : Nat) (c : Saved) (x : Nat × BlockFault) : State :=
  let s := s.restoreFails c rid x.2.code (packFields 64 [(0, 16, x.1), (16, 6, x.2.slot)])
  { s with saves := s.saves.set k { c with place := none, dies := [] } }

/-- RESTORE_CONTEXT (24 R368, R369): a context that the Sluice has admitted is checked and loaded. -/
def execRestoreContext (context : Nat) (s : State) : Host.Outcome State Fault Refusal :=
  match s.saves.find context with
  | none => .next s
  | some c =>
    match c.place with
    | none => .next s
    | some rid =>
      if !c.live || c.lost then .next s
      else
        match s.badSave c.save.toNat c.nb c.job c.gen with
        | some a =>
          let s := (s.restoreFails c rid .ctxlost (w64 a)).onEntry c.job c.entry fun e => { e.fail (w64 0xA3) with finished := true }
          .next { s with saves := s.saves.set context { c with lost := true, place := none } }
        | none =>
          let d := (s.region rid).rect.d
          if c.fits d then
            match c.badBlock with
            | some x => .next (s.blockFails context rid c x)
            | none => .next (s.loadContext context rid c)
          else
            let c' := { c with place := none, dies := c.dies.filter c.fits }
            let s := s.restoreFails c rid .restorefeat 0
            .next { s with saves := s.saves.set context c', bids := s.bids ++ [c'.bid context] }

end Sys2Proof.Machine
end

