-- ==== Sys2Proof/Machine/HostEv.lean ====
section
/-! DEFINITION. HostEv: the command protocol of the hosts (26 R384 to R386), exports and remote memory access (26 R389), endpoint
transfers (12 R199, R200), power-up and boot (26 R390, R391), checkpoint (26 R392), record and replay (26 R393 to R397), and power
(26 R404, R405). -/

namespace Sys2Proof.Machine

/-! ## Connections and answers (26 R384, R385) -/

/-- OK. -/
def stOk : Byte := 0x00#8
/-- BADMSG. -/
def stBadmsg : Byte := 0x01#8
/-- NOJOB. -/
def stNojob : Byte := 0x02#8
/-- NOROOM. -/
def stNoroom : Byte := 0x03#8
/-- DENIED. -/
def stDenied : Byte := 0x04#8
/-- FAILED. -/
def stFailed : Byte := 0x05#8

/-- Change a connection. -/
def State.onConn (s : State) (k : Nat) (g : Conn → Conn) : State :=
  match s.conns.find k with
  | some c => { s with conns := s.conns.set k (g c) }
  | none => s

/-- The executive answers a command: the response echoes OP and SEQ. -/
def State.respond (s : State) (conn : Nat) (op : Byte) (seq : Word) (status : Byte) (ws : List W64) : State :=
  match s.conns.find conn with
  | some c => { s with messages := s.messages ++ [⟨c.host, op, status, seq, ws⟩] }
  | none => s

/-- The executive takes the next command of a connection: it runs, and has answered the one before. -/
def State.takesCommand (s : State) (conn : Nat) : Bool :=
  s.boot == .running && match s.conns.find conn with
    | some c => c.waiting.isEmpty
    | none => false

/-- The command that a connection waits for. -/
def State.waitingOn (s : State) (conn : Nat) : Option (Byte × Word × List Nat) :=
  (s.conns.find conn).bind fun c => c.waiting.head?

/-- A connection begins to wait for a command, or to wait with other arguments. -/
def State.setWaiting (s : State) (conn : Nat) (w : List (Byte × Word × List Nat)) : State := s.onConn conn fun c => { c with waiting := w }

/-- The executive answers the command that a connection waits for. -/
def State.finishCommand (s : State) (conn : Nat) (op : Byte) (seq : Word) (status : Byte) (ws : List W64) : State :=
  (s.setWaiting conn []).respond conn op seq status ws

/-- A job that has not ended. -/
def State.hasJob (s : State) (job : Nat) : Bool := (s.job job).live && !(s.job job).wsDone

/-- CONNECTION_REQUEST (26 R384): only hosts named in the executive's image are accepted. -/
def execConnectionRequest (host : Nat) (s : State) : Host.Outcome State Fault Refusal :=
  if s.boot == .running && s.hosts.contains host then
    .next { s with conns := s.conns.set s.conns.length ⟨host, [], none⟩ }
  else .next s

/-- BADMSG (26 R385). -/
def execBadmsg (conn : Nat) (seq : Word) (op : Byte) (s : State) : Host.Outcome State Fault Refusal :=
  if s.takesCommand conn then .next (s.respond conn op seq stBadmsg []) else .next s

/-! ## Launch (17 R259; 26 Table 26-2) -/

/-- The word of 32 bits that an access finds at an address of device memory. -/
def State.tableWord (s : State) (a : Nat) : Word := BitVec.ofNat 32 (leNat (s.coherentBytes a 4))

/-- The number N of locations of a path-summary table (20 R295). -/
def State.tableSize (s : State) (table : Nat) : Nat := (s.tableWord table).toNat

/-- The entries of a path-summary table of n locations, but for those that are 0: entry (a, b) under a × n + b (20 R295). -/
def State.tableEntries (s : State) (table n : Nat) : Map Word :=
  (List.range (n * n)).filterMap fun k =>
    let w := s.tableWord (table + 4 + 4 * k)
    if w = 0 then none else some (k, w)

/-- The root of a job at its launch reads the path-summary table (20 R295), and has every source and control location with its
copies (20 R301; 28 R410). The frontiers are those of a graph in which nothing is counted yet. Log entry 66 (DESIGN CHOICE). -/
def State.launchRoot (s : State) (p : LaunchPackage) : Root :=
  let n := s.tableSize p.table
  let r : Root := { Root.blank with
    nloc := n, summary := s.tableEntries p.table n,
    horizons := p.sources.eraseDups.map fun l => ⟨l, (p.sources.filter (· == l)).length, []⟩ }
  r.raise r.risen

/-- The pages that a chunk of a package touches. -/
def chunkPages (c : Nat × BitVec 16 × List Byte) : List Nat :=
  (List.range ((c.1 + max c.2.2.length 1 + 65535) / 65536 - c.1 / 65536)).map (· + c.1 / 65536)

/-- The owner tag of a chunk: its own, or that of the job where it names none. Log entry 66 (DESIGN CHOICE). -/
def chunkTag (tag : Nat) (c : Nat × BitVec 16 × List Byte) : BitVec 16 := if c.2.1 == 0 then BitVec.ofNat 16 tag else c.2.1

/-- The pages that a package needs are free. -/
def State.packageFits (s : State) (p : LaunchPackage) : Bool :=
  p.chunks.all fun c => (chunkPages c).all fun g => s.pagesFree g 1

/-- The executive places a package in device memory. Log entry 66 (DESIGN CHOICE). -/
def State.placeChunks (s : State) (tag : Nat) (p : LaunchPackage) : State :=
  p.chunks.foldl (fun s c => ((chunkPages c).foldl (fun s g => s.ownerWrite g (chunkTag tag c)) s).storeBytes c.1 c.2.2) s

/-- The pages of the log area of a recorded job. Log entry 34 (DESIGN CHOICE). -/
def logPages : Nat := 256

/-- A package asks for a recording. -/
def packageRecords (p : LaunchPackage) : Bool := p.flags.setWidth 2 == 1#2

/-- The areas of a recorded job: capture and log. -/
def State.recordAreas (s : State) (tag : Nat) (p : LaunchPackage) : State × Bool :=
  if !packageRecords p then (s, true)
  else
    match s.takePages tag p.cappages with
    | (_, none) => (s, false)
    | (t, some _) =>
      match t.takePages tag logPages with
      | (_, none) => (s, false)
      | (u, some _) => (u, true)

/-- A tag for a new job: one that no job has had, or that of an ended job. -/
def State.freeTag (s : State) : Option Nat :=
  let used := s.jobs.keys
  match ((List.range (used.length + 1)).map (· + 1)).find? fun t => !used.contains t with
  | some t => if t ≤ 0xFFFE then some t else (s.jobs.find? fun j => j.2.settled && j.2.rr == 0).map Prod.fst
  | none => none

/-- A job as it is launched. -/
def packageJob (p : LaunchPackage) (tag host : Nat) : Job :=
  { Job.blank with
    live := true, tag := tag, host := host, pkg := p, xroot := p.xroot &&& xrootMask,
    endpts := p.endpts.foldl (fun m e => Map.set m e.1 e.2) [], rr := if packageRecords p then 1 else 0, logAtom := bitAt p.flags 2 }

/-- Launch a job: its tag, or the status of the answer: NOROOM where device memory cannot hold it, BADMSG where its path-summary
table has no locations or more than 1,024 (20 R295). Log entry 66 (DESIGN CHOICE). -/
def State.launch (s : State) (p : LaunchPackage) (host : Nat) : State × Except Byte Nat :=
  match s.freeTag with
  | none => (s, .error stNoroom)
  | some tag =>
    if !s.packageFits p then (s, .error stNoroom)
    else
      let t : State := { s with jobs := s.jobs.set tag (packageJob p tag host) }
      match (t.placeChunks tag p).recordAreas tag p with
      | (u, true) =>
        let n := u.tableSize p.table
        if n = 0 || 1024 < n then (s, .error stBadmsg)
        else (u.onJob tag fun j => { j with root := u.launchRoot p }, .ok tag)
      | (_, false) => (s, .error stNoroom)

/-- JOBSUBMIT (26 Table 26-2): the executive asks for the package by RMA. Log entry 65 (DESIGN CHOICE). -/
def execJobsubmit (conn : Nat) (seq : Word) (pkg : LaunchPackage) (s : State) : Host.Outcome State Fault Refusal :=
  if !s.takesCommand conn then .next s
  else if bitAt pkg.flags 1 || (packageRecords pkg && pkg.cappages == 0) then .next (s.respond conn 0x01#8 seq stBadmsg [])
  else .next (s.onConn conn fun c => { c with waiting := [(0x01#8, seq, [])], pending := some pkg })

/-! ## Commands about a job (26 Table 26-2) -/

/-- The record with which the executive ends the regions of an aborted job: it names no fault of Table 24-1. Log entry 65
(DESIGN CHOICE). -/
def abortRecord (job : Nat) : TrapRecord := { mkRecord .swtrap 8 3 0 job 0 0 with fcode := 0 }

/-- JOBABORT (21 R324). -/
def execJobabort (conn : Nat) (seq : Word) (job : Nat) (s : State) : Host.Outcome State Fault Refusal :=
  if !s.takesCommand conn then .next s
  else if !s.hasJob job then .next (s.respond conn 0x02#8 seq stNojob [])
  else .next ((s.abortJob job (abortRecord job) stFailed).respond conn 0x02#8 seq stOk [])

/-- A job whose endpoints a host may attach: one that runs, or the executive's own (26 Table 26-2). -/
def State.hasEndpoints (s : State) (job : Nat) : Bool := s.hasJob job || job == 0xFFFF

/-- EPATTACH (26 R386). Log entry 65 (DESIGN CHOICE). -/
def execEpattach (conn : Nat) (seq : Word) (job idx extent : Nat) (s : State) : Host.Outcome State Fault Refusal :=
  if !s.takesCommand conn then .next s
  else if !s.hasEndpoints job then .next (s.respond conn 0x03#8 seq stNojob [])
  else if 256 ≤ idx then .next (s.respond conn 0x03#8 seq stBadmsg [])
  else .next ((s.onJob job fun j => { j with endpts := j.endpts.set idx extent }).respond conn 0x03#8 seq stOk [])

/-- An open stream of a job names an endpoint. -/
def State.endpointOpen (s : State) (job idx : Nat) : Bool :=
  s.bays.any fun b => b.2.streams.any fun e => e.2.live && e.2.job == job && e.2.desc.ep && e.2.desc.epidx == idx

/-- EPDETACH (26 Table 26-2). -/
def execEpdetach (conn : Nat) (seq : Word) (job idx : Nat) (s : State) : Host.Outcome State Fault Refusal :=
  if !s.takesCommand conn then .next s
  else if !s.hasEndpoints job then .next (s.respond conn 0x04#8 seq stNojob [])
  else if s.endpointOpen job idx then .next (s.respond conn 0x04#8 seq stDenied [])
  else .next ((s.onJob job fun j => { j with endpts := j.endpts.drop idx }).respond conn 0x04#8 seq stOk [])

/-! ## Telemetry -/

/-- The power state of a bay in two bits. -/
def powerCode : BayPower → Nat
  | .on => 0
  | .idle => 1
  | .off => 2

/-- The words of a TELEMETRY response: the power states of the bays, the junctions of the dies with their clock steps, coolant
readings, and the counters of every bay that holds a region with the tag of its job. Its layout is log entry 35 (DESIGN
CHOICE). Log entry 10 (DESIGN CHOICE). -/
def State.telemetryWords (s : State) : List W64 :=
  ((List.range 8).map fun i => packFields 64 ((List.range 32).map fun k => (2 * k, 2, powerCode (s.bay (32 * i + k)).power))) ++
  ((List.range 4).map fun d => packFields 64 [(0, 16, (s.die d).celsius), (16, 8, (s.die d).step)]) ++
  ((List.range 3).map fun i => Config.telemetry (s.freeCount + i)) ++
  (s.regions.filter fun e => e.2.live && !e.2.released).flatMap fun e =>
    e.2.rect.bays.flatMap fun b => w64 e.2.job :: (List.range 4).map fun i => (Map.get Pmon.blank (s.bay b).pmon i).word

/-- TELEMETRY (26 Table 26-2). -/
def execTelemetry (conn : Nat) (seq : Word) (s : State) : Host.Outcome State Fault Refusal :=
  if !s.takesCommand conn then .next s
  else .next ({ s with freeCount := s.freeCount + 3 }.respond conn 0x07#8 seq stOk s.telemetryWords)

/-! ## Exports and remote memory access (26 R389) -/

/-- Translate the pages of a range under a job's tables, each with the permissions asked for; nothing where one is missing. -/
def State.exportPages (s : State) (job : Nat) (perm : BitVec 2) : List Nat → State × Option (List (Nat × Nat))
  | [] => (s, some [])
  | p :: ps =>
    match s.translate .hub job (s.job job).xroot (sext64 55 (p * 65536)) false (bitAt perm 0) (bitAt perm 1) with
    | (s, .fail _) => (s, none)
    | (s, .leaf e big) =>
      match s.exportPages job perm ps with
      | (s, some l) => (s, some ((p, leafAddress e big (sext64 55 (p * 65536)) / 65536) :: l))
      | r => r

/-- EXPORT (26 R389, Table 26-2). -/
def execExportRange (conn : Nat) (seq : Word) (job : Nat) (base len : W64) (perm : BitVec 2) (s : State) :
    Host.Outcome State Fault Refusal :=
  let op : Byte := 0x0A#8
  if !s.takesCommand conn then .next s
  else if !s.hasJob job then .next (s.respond conn op seq stNojob [])
  else if bits base 15 0 != 0 || bits len 15 0 != 0 then .next (s.respond conn op seq stBadmsg [])
  else if 16 ≤ (s.job job).exports.length then .next (s.respond conn op seq stNoroom [])
  else if !canonical base || (len != 0 && (!canonical (base + len - 1) || base.slt 0 != (base + len - 1).slt 0)) then
    .next (s.respond conn op seq stDenied [])
  else
    match s.exportPages job perm ((List.range (len.toNat / 65536)).map (· + vpageOf base)) with
    | (s, none) => .next (s.respond conn op seq stDenied [])
    | (s, some pages) =>
      let x := ((List.range 256).find? fun i => ((s.job job).exports.find i).isNone).getD 0
      .next ((s.onJob job fun j => { j with exports := j.exports.set x ⟨base, len.toNat, pages, perm⟩ }).respond conn op seq stOk [w64 x])

/-- UNEXPORT (26 Table 26-2): each remote operation is served whole by its own step, so none is open when it is answered. -/
def execUnexportRange (conn : Nat) (seq : Word) (job idx : Nat) (s : State) : Host.Outcome State Fault Refusal :=
  let op : Byte := 0x0B#8
  if !s.takesCommand conn then .next s
  else if !s.hasJob job then .next (s.respond conn op seq stNojob [])
  else if ((s.job job).exports.find idx).isNone then .next (s.respond conn op seq stDenied [])
  else .next ((s.onJob job fun j => { j with exports := j.exports.drop idx }).respond conn op seq stOk [])

/-- The physical address of an offset of an export. -/
def Export.addr (x : Export) (o : Nat) : Nat :=
  match x.pages[(o / 65536)]? with
  | some p => p.2 * 65536 + o % 65536
  | none => 0

/-- The export that an operation may use: its index is in use, its bytes lie in the range, and its permissions allow it. -/
def State.exportFor (s : State) (job idx offset n : Nat) (perm : Nat) : Option Export :=
  match (s.job job).exports.find idx with
  | some x => if (s.job job).live && offset + n ≤ x.len && x.perm.toNat &&& perm == perm then some x else none
  | none => none

/-- An operation of a remote host ends: it is no message of the command protocol, and its op is 0. Log entry 65 (DESIGN
CHOICE). -/
def State.rmaReply (s : State) (conn : Nat) (status : Byte) (ws : List W64) : State := s.respond conn 0x00#8 0 status ws

/-- Bytes as words, the last filled up with zeros. -/
def wordsFrom (bs : List Byte) : List W64 :=
  (List.range (ceilDiv bs.length 8)).map fun k => BitVec.ofNat 64 (leNat ((bs.drop (8 * k)).take 8))

/-- One piece of an operation, in the host-endpoint class under the job's tag, with pts 0. -/
def State.rmaPiece (s : State) (job : Nat) (op : ReqOp) (a n : Nat) (data : W512) : State × Reply :=
  s.access { Req.blank with op := op, addr := a, n := n, data := data, job := BitVec.ofNat 16 job, cls := 3 }

/-- RMA_READ (26 R389): the hub reads line by line. -/
def execRmaRead (conn job idx offset len : Nat) (s : State) : Host.Outcome State Fault Refusal :=
  if s.boot != .running || (s.conns.find conn).isNone then .next s
  else
    match s.exportFor job idx offset len 1 with
    | none => .next (s.rmaReply conn stDenied [])
    | some x =>
      let r := (linePieces (w64 offset) len).foldl (fun (m : State × Option (List Byte)) p =>
        match m.2 with
        | none => m
        | some bs =>
          let y := m.1.rmaPiece job .load (x.addr (offset + p.1)) p.2 0
          match y.2.err with
          | some _ => (y.1, none)
          | none => (y.1, some (bs ++ leBytes p.2 y.2.val.toNat))) (s, some [])
      match r.2 with
      | some bs => .next (r.1.rmaReply conn stOk (wordsFrom bs))
      | none => .next (r.1.rmaReply conn stFailed [])

/-- RMA_WRITE (26 R389). -/
def execRmaWrite (conn job idx offset : Nat) (data : List Byte) (s : State) : Host.Outcome State Fault Refusal :=
  if s.boot != .running || (s.conns.find conn).isNone then .next s
  else
    match s.exportFor job idx offset data.length 2 with
    | none => .next (s.rmaReply conn stDenied [])
    | some x =>
      let r := (linePieces (w64 offset) data.length).foldl (fun (m : State × Bool) p =>
        if !m.2 then m
        else
          let y := m.1.rmaPiece job .store (x.addr (offset + p.1)) p.2 (BitVec.ofNat 512 (leNat ((data.drop p.1).take p.2)))
          (y.1, y.2.err.isNone)) (s, true)
      .next (r.1.rmaReply conn (if r.2 then stOk else stFailed) [])

/-- RMA_ATOMIC (26 R389): one atomic of 8 bytes in the slice's ALU. -/
def execRmaAtomic (conn job idx offset : Nat) (sub : AtomSub) (operand : W64) (s : State) : Host.Outcome State Fault Refusal :=
  if s.boot != .running || (s.conns.find conn).isNone then .next s
  else
    match (if offset % 8 = 0 then s.exportFor job idx offset 8 3 else none) with
    | none => .next (s.rmaReply conn stDenied [])
    | some x =>
      let y := s.rmaPiece job (.atom sub) (x.addr offset) 8 (operand.setWidth 512)
      match y.2.err with
      | some _ => .next (y.1.rmaReply conn stFailed [])
      | none => .next (y.1.rmaReply conn stOk [y.2.val.setWidth 64])

/-! ## Checkpoint (26 R392) -/

/-- Every context of the module has been saved, and nothing of any job runs or is on its way (26 R392, R395). -/
def State.drained (s : State) : Bool :=
  (s.regions.all fun r => !r.2.live) && !s.running (fun _ => true) && s.packets.isEmpty &&
  (s.ports.all fun p => p.outbox.isEmpty && p.flight.isEmpty) &&
  (s.bays.all fun b => b.2.streams.all fun e => !e.2.live || e.2.stopped) &&
  s.dies.all fun d => (d.2.copro.queues.all fun q => q.2.isEmpty) &&
    d.2.copro.units.all fun u => u.2.running.isNone && u.2.ready.isEmpty && u.2.held.isEmpty

/-- The executive drains every region. -/
def State.drainAll (s : State) : State :=
  ((s.regions.filter fun r => r.2.preemptable).map Prod.fst).foldl (fun s r =>
    if (s.region r).preemptable then s.injectMarks r else s) s

/-- What the executive keeps with an image. Log entry 64 (DEDUCED). -/
def State.checkpoint (s : State) : Checkpoint := ⟨s.jobs, s.saves, s.bids, s.owner, s.bindings⟩

/-- A safe-store endpoint: one of the executive's own. -/
def State.safeStore (s : State) (idx : Nat) : Bool := ((s.job 0xFFFF).endpts.find idx).isSome

/-- The executive goes on with a checkpoint: it drains, then writes back and invalidates every slice, then sends the image. -/
def State.checkpointStep (s : State) (conn idx : Nat) : State :=
  if s.transfers.any fun t => t.what == .image conn idx then s
  else if s.drained then
    let s := s.flushAll
    { s with nextId := s.nextId + 1, transfers := s.transfers ++ [⟨s.nextId, 0xFFFF, .ctl hubRegion, hubRegion, .image conn idx, 0⟩],
             images := s.images.set idx s.checkpoint }
  else s.drainAll

/-- CHECKPOINT (26 R392). -/
def execCheckpoint (conn : Nat) (seq : Word) (idx : Nat) (s : State) : Host.Outcome State Fault Refusal :=
  if s.waitingOn conn == some (0x05#8, seq, [idx]) then .next (s.checkpointStep conn idx)
  else if !s.takesCommand conn then .next s
  else if !s.safeStore idx then .next (s.respond conn 0x05#8 seq stDenied [])
  else .next ((s.setWaiting conn [(0x05#8, seq, [idx])]).checkpointStep conn idx)

/-- RESTORE (26 R392): the module is drained, and the image is read by RMA. -/
def execRestoreImage (conn : Nat) (seq : Word) (idx : Nat) (s : State) : Host.Outcome State Fault Refusal :=
  if s.waitingOn conn == some (0x06#8, seq, [idx]) then .next (if s.drained then s else s.drainAll)
  else if !s.takesCommand conn then .next s
  else if !s.safeStore idx then .next (s.respond conn 0x06#8 seq stDenied [])
  else .next (s.setWaiting conn [(0x06#8, seq, [idx])])

/-- An image is written back over all of device memory; bytes beyond the list are zero. The contexts that it holds bid again
(26 R392; 24 Table 24-8). Log entry 64 (DEDUCED). -/
def State.loadImage (s : State) (idx : Nat) (data : List Byte) : State :=
  let s := s.flushAll
  let s : State := { s with mem := Memory.writeBytes [] 0 (data.take (2 ^ 40)), poison := [] }
  match s.images.find idx with
  | some c => { s with jobs := c.jobs, saves := c.saves, bids := c.bids, owner := c.owner, bindings := c.bindings, tlb := [] }
  | none => s

/-! ## Data that the executive has read by RMA -/

/-- RMA_READ_RESPONSE (26 R385): the launch package, or the image, arrives. Log entry 83 (DESIGN CHOICE). -/
def execRmaReadResponse (conn : Nat) (data : List Byte) (s : State) : Host.Outcome State Fault Refusal :=
  match s.conns.find conn, s.waitingOn conn with
  | some c, some (op, seq, args) =>
    if op == 0x01#8 then
      match c.pending with
      | none => .next s
      | some p =>
        let s := s.onConn conn fun c => { c with pending := none }
        match s.launch p c.host with
        | (s, .ok tag) => .next (s.finishCommand conn op seq stOk [w64 tag])
        | (s, .error st) => .next (s.finishCommand conn op seq st [])
    else if op == 0x06#8 && s.drained then .next ((s.loadImage (args.headD 0) data).finishCommand conn op seq stOk [])
    else .next s
  | _, _ => .next s

/-! ## Endpoint transfers (12 R199, R200; 26 R393, R395) -/

/-- An operation on a host's word has been done: its old value goes to the registers of the EPATOM. -/
def State.atomicDone (s : State) (a : Agent) (regs : List Nat) (old : W64) : State :=
  State.fillRegs a (.data old) 0 s regs

/-- An EPATOM fails after its commit: its registers become failed, and EPFAIL with the endpoint word and the host interface's
status enters the fault queue and stops the agent (12 R199). Log entry 13 (DESIGN CHOICE). -/
def State.atomicFailed (s : State) (t : Endpoint) (a : Agent) (regs : List Nat) (word : W64) : State :=
  let x : Trap := ⟨.epfail, word, Config.hostStatus s.freeCount⟩
  let s := State.failRegs a x { s with freeCount := s.freeCount + 1 } regs
  (s.stopAgent a).post t.region
    { s.ofAgent a (mkRecord .epfail (agentOrigin a) 1 (agentNumber a) t.job x.info0 x.info1) with time := t.time }

/-- The result of an EPATOM: the host's, logged in pass 0; in a replay pass the one that the log holds, and without one the
register fails and PATHDIV is set (26 R393, Table 26-4). -/
def State.atomicResult (s : State) (t : Endpoint) (a : Agent) (regs : List Nat) (word old : W64) : State :=
  let who := s.whoIs t.region a
  let j := s.job t.job
  if j.rr == 2 then
    match j.draw (who / 32768) fun e => e.kind == 1 && e.who == who with
    | (j, some e) => (s.onJob t.job fun _ => j).atomicDone a regs (BitVec.ofNat 64 (leNat e.data))
    | (j, none) => State.failRegs a ⟨.epfail, word, 0⟩ (s.onJob t.job fun _ => j) regs
  else if j.rr == 1 then (s.onJob t.job fun j => j.record 1 who t.time (leBytes 8 old.toNat)).atomicDone a regs old
  else s.atomicDone a regs old

/-- ENDPOINT_ACK (12 R200): the host interface acknowledges a transfer. Log entry 83 (DESIGN CHOICE). -/
def execEndpointAck (transfer : Nat) (old : W64) (s : State) : Host.Outcome State Fault Refusal :=
  match s.transfers.find? fun t => t.id == transfer with
  | none => .next s
  | some t =>
    let gone : State := { s with transfers := s.transfers.filter fun x => x.id != transfer }
    match t.what with
    | .atomic word _ _ regs a => .next (gone.atomicResult t a regs word old)
    | .tile b n k =>
      match (s.bay b).streams.find n with
      | some st =>
        if st.inbound then .next s
        else .next (gone.onStream b n fun x => { x with tiles := x.tiles.map fun y => if y.idx == k then { y with left := 0 } else y })
      | none => .next gone
    | .signal job e => .next (gone.onEntry job e fun x => { x with finished := true })
    | .image conn _ =>
      match s.waitingOn conn with
      | some (op, seq, _) => .next (gone.finishCommand conn op seq stOk [])
      | none => .next gone

/-- EPFAIL (12 R199): the host interface refuses a transfer, or its connection is lost. The manual names no FCODE for a tile
that fails so: it is a free value. Log entry 36 (DESIGN CHOICE). -/
def execEpfail (transfer : Nat) (s : State) : Host.Outcome State Fault Refusal :=
  match s.transfers.find? fun t => t.id == transfer with
  | none => .next s
  | some t =>
    let gone : State := { s with transfers := s.transfers.filter fun x => x.id != transfer }
    match t.what with
    | .atomic word _ _ regs a => .next (gone.atomicFailed t a regs word)
    | .tile b n k =>
      .next ({ gone with freeCount := gone.freeCount + 1 }.failStream b n ((Config.freeValue s.freeCount).toNat % 128) k)
    | .signal job e => .next (gone.onEntry job e fun x => { x.fail (w64 0x28) with finished := true })
    | .image conn _ =>
      match s.waitingOn conn with
      | some (op, seq, _) => .next (gone.finishCommand conn op seq stFailed [])
      | none => .next gone

/-! ## Record and replay (26 R393 to R397) -/

/-- The capture area is full, and the pass ends (26 R394). -/
def State.endPass (s : State) (job : Nat) : State :=
  let j := s.job job
  let s := if j.rr == 1 then s.event job stNoroom [w64 job] else s
  (s.abortJob job (abortRecord job) stNoroom).onJob job fun j => { j with capWait := [], captOff := true }

/-- PAGE_CAPTURE (26 R394): a page is copied to the capture area before the write that waits for it is applied. -/
def execPageCapture (job page : Nat) (s : State) : Host.Outcome State Fault Refusal :=
  let j := s.job job
  if j.captOff && j.outcome.isNone then .next (s.endPass job)
  else if !j.capWait.contains page then .next s
  else if j.captRoom then .next (s.capture job page)
  else .next (s.endPass job)

/-- A recorded job before a pass: launched from its pass-0 package, with digests and every pts at zero. -/
def Job.again (j : Job) : Job :=
  { packageJob j.pkg j.tag j.host with
    rr := 2, pass := j.pass + 1, log := j.log, left := j.log, logAtom := j.logAtom, captured := j.captured,
    digests := j.digests }

/-- Steps 2 to 4 of Table 26-4: write back, rebase, restore the captured pages, and launch the job again. -/
def State.relaunch (s : State) (job : Nat) : State :=
  let s := s.flushAll.rebase
  let s := (s.job job).captured.foldl (fun s e => s.storeBytes (65536 * e.1) e.2) s
  let s := (s.dropAreas job).onJob job Job.again
  let s := s.onJob job fun j => { j with root := s.launchRoot j.pkg }
  (s.recordAreas job (s.job job).pkg).1

/-- The executive goes on with a replay (26 Table 26-4). `phase` 0 drains, and 1 lets the pass run. -/
def State.replayStep (s : State) (conn : Nat) (seq : Word) (job npass phase : Nat) : State :=
  let op : Byte := 0x08#8
  if phase = 0 then
    (if s.drained then (s.relaunch job).setWaiting conn [(op, seq, [job, npass, 1])] else s.drainAll)
  else if !(s.job job).settled then s
  else if (s.job job).captOff then s.finishCommand conn op seq stNoroom []
  else
    if (s.job job).pass < npass then s.setWaiting conn [(op, seq, [job, npass, 0])] else s.finishCommand conn op seq stOk []

/-- REPLAY (26 R395): passes of a recorded job. Log entry 65 (DESIGN CHOICE). -/
def execReplay (conn : Nat) (seq : Word) (job npass : Nat) (s : State) : Host.Outcome State Fault Refusal :=
  let op : Byte := 0x08#8
  match s.waitingOn conn with
  | some (o, q, [j, n, ph]) => if o == op && q == seq && j == job && n == npass then .next (s.replayStep conn seq job npass ph) else .next s
  | _ =>
    if !s.takesCommand conn then .next s
    else if npass = 0 ∨ 16 < npass then .next (s.respond conn op seq stBadmsg [])
    else if !(s.job job).live then .next (s.respond conn op seq stNojob [])
    else if (s.job job).rr == 0 || !(s.job job).wsDone || (s.job job).captOff then .next (s.respond conn op seq stDenied [])
    else .next (((s.onJob job fun j => { j with pass := 0 }).setWaiting conn [(op, seq, [job, npass, 0])]).replayStep conn seq job npass 0)

/-! ## Boot (26 R390, R391) -/

/-- The management cores of the hub, and its ports (01 Table 1-1). -/
def managementCores : Nat := 4

/-- The Ultra Ethernet ports of the hub (01 Table 1-1, R11). -/
def hubPorts : List Nat := List.range 8

/-- What a management core does: it waits, runs the boot ROM, or runs the executive (26 Table 26-3). -/
inductive CoreRun where
  | waiting
  | rom
  | executive
  deriving DecidableEq, Repr

/-- What management core n does at a boot stage: core 0 runs the boot ROM while the others wait, and the executive runs on all
four (26 Table 26-3). -/
def Boot.core (b : Boot) (n : Nat) : CoreRun :=
  match b with
  | .running => if n < managementCores then .executive else .waiting
  | .cold => .waiting
  | _ => if n = 0 then .rom else .waiting

/-- POWER_UP (26 Table 26-3): the boot ROM zeroes device memory, sets every owner tag to 0 and asks for the image. -/
def execPowerUp (s : State) : Host.Outcome State Fault Refusal :=
  if s.boot == .cold then .next { s with mem := [], poison := [], owner := [], slices := [], boot := .requested s.cycle } else .next s

/-- BOOT_IMAGE_ARRIVAL (26 Table 26-3): with its signature verified, the executive runs, clears the address-range table and the
format windows, and accepts connections. Log entry 83 (DESIGN CHOICE). -/
def execBootImageArrival (hosts : List Nat) (signatureOk : Bool) (s : State) : Host.Outcome State Fault Refusal :=
  match s.boot with
  | .requested _ =>
    if signatureOk then .next { s with art := [], windows := [], hosts := hosts, boot := .running }
    else .next { s with boot := .failed s.cycle }
  | _ => .next s

/-- How long the boot ROM waits (26 R391). -/
def bootPatience : Nat := 2 ^ 30

/-- BOOT_RETRY (26 R391). -/
def execBootRetry (s : State) : Host.Outcome State Fault Refusal :=
  match s.boot with
  | .requested since | .failed since =>
    if since + bootPatience ≤ s.cycle then .next { s with boot := .requested s.cycle } else .next s
  | _ => .next s

/-! ## Power and cooling (26 R404, R405) -/

/-- No region holds a bay. -/
def State.bayEmpty (s : State) (b : Nat) : Bool := (s.regionOfBay b).isNone

/-- BAY_IDLE_ENTRY (26 R404). -/
def execBayIdleEntry (bay : Nat) (s : State) : Host.Outcome State Fault Refusal :=
  if bay < 256 && s.bayEmpty bay && (s.bay bay).power == .on then .next (s.onBay bay fun b => { b with power := .idle }) else .next s

/-- BAY_POWER_GATING (26 R404): the executive gates an empty bay, or returns it. -/
def execBayPowerGating (bay : Nat) (off : Bool) (s : State) : Host.Outcome State Fault Refusal :=
  if 256 ≤ bay then .next s
  else if off then (if s.bayEmpty bay then .next (s.onBay bay fun b => { b with power := .off }) else .next s)
  else if (s.bay bay).power == .off then .next (s.onBay bay fun b => { b with power := .idle }) else .next s

/-- SELF_REFRESH (26 R404). -/
def execSelfRefresh (stack : Nat) (on : Bool) (s : State) : Host.Outcome State Fault Refusal :=
  if 16 ≤ stack then .next s
  else
    let rest := s.refresh.filter (· != stack)
    .next { s with refresh := if on then stack :: rest else rest }

/-- THERMAL_THROTTLE (26 R405): at 95 °C the fabric clock falls by a step of 225 MHz, and goes on falling until the junction is
below 90 °C. Cycles are counted as before. Log entry 67 (DEDUCED). -/
def execThermalThrottle (die celsius : Nat) (s : State) : Host.Outcome State Fault Refusal :=
  if 4 ≤ die then .next s
  else .next (s.onDie die fun d =>
    { d with celsius := celsius,
             step := if 95 ≤ celsius || (d.step != 0 && 90 ≤ celsius) then min (d.step + 1) 7 else if celsius < 90 then 0 else d.step })

/-- THERMAL_SHUTDOWN (26 R405): at 105 °C every job stops, the hosts are told, and the fabric is powered down. -/
def execThermalShutdown (die celsius : Nat) (s : State) : Host.Outcome State Fault Refusal :=
  if celsius < 105 || 4 ≤ die then .next s
  else
    let s := s.onDie die fun d => { d with celsius := celsius }
    let s := ((s.jobs.filter fun j => j.2.live && !j.2.wsDone).map Prod.fst).foldl (fun s j =>
      (s.abortJob j (abortRecord j) stFailed).event j stFailed [w64 j]) s
    .next { s with fabricOff := true }

end Sys2Proof.Machine
end

