-- ==== Sys2Proof/Machine/Defaults.lean ====
section
/-! DEFINITION. Defaults: what a cycle of the fabric counts (24 R357, R359; 26 R399; 21 R316), and the steps that the machine can
take by itself. -/

namespace Sys2Proof.Machine

/-! ## A cycle (24 R357, R359; 26 R399) -/

/-- A region holds a pointstamp, or its thread waits (24 R357). -/
def State.holdsWork (s : State) (rid : Nat) (r : Region) : Bool :=
  s.running (· == .ctl rid) ||
  (s.root r.job).counts.any fun c => 0 < c.2.2 && (r.info.locs.contains c.1 || r.nextInfo.locs.contains c.1)

/-- A translation of a region is withheld. -/
def State.isWithheld (s : State) (rid : Nat) : Bool := s.withheld.any fun w => w.region == rid && w.answer.isNone

/-- The watchdog of a region after a cycle (24 R357). Log entry 40 (DEDUCED). -/
def State.watch (s : State) (rid : Nat) (r : Region) : Region :=
  if !r.watched then r
  else
    let full := r.frac == 1023
    let left := wdogLeft r.wdog
    { r with
      wdog := if full && left != 0 then insertBits r.wdog 32 32 (left - 1) else r.wdog,
      frac := if full then 0 else r.frac + 1,
      stallCnt := if !s.holdsWork rid r then 0 else if s.isWithheld rid then r.stallCnt else r.stallCnt + 1 }

/-- The budget of a job after a cycle: units of 2^20 cycles in which it holds a region (24 R359). -/
def State.spend (s : State) (k : Nat) (j : Job) : Job :=
  if !j.live || j.wsDone || !s.holdsRegion k then j
  else if j.frac == 0xFFFFF then { j with frac := 0, budget := j.budget + 1 }
  else { j with frac := j.frac + 1 }

/-- Blocks of a bay that a slot holds back with an instruction. -/
def State.slotWaits (s : State) (bay : Nat) (q : Instr → Bool) : Nat :=
  ((s.cur :: s.parked).filter fun f => f.live && agentBay f.agent == bay &&
    (List.range 64).any fun k => (f.slotAt k).phase == .blocked && match f.instr k with
      | some i => q i
      | none => false).length

/-- An instruction is BUFGET. -/
def isBufget : Instr → Bool
  | .bufget _ _ _ _ => true
  | _ => false

/-- A copy engine has a stream that could start a tile and holds no credit. -/
def Bay.starved (b : Bay) : Bool :=
  b.streams.any fun e => e.2.live && !e.2.stopped && e.2.inbound && e.2.pair.isNone && e.2.nextTile.isSome && e.2.credits.any (· == 0)

/-- The PEs of a bay. -/
def bayPes (b : Nat) : List Nat :=
  (List.range 64).map fun i => peOf (b / 64) (8 * (b % 8) + i % 8) (8 * (b / 8 % 8) + i / 8)

/-- A PE holds a token that its circuit does not take. -/
def Pe.pressed (p : Pe) : Bool :=
  p.outq.any fun e => !e.2.isEmpty && e.1 < 4096 && 2 ≤ (Map.get [] p.boxes e.1).length

/-- The cycle events of a bay (26 Table 26-7). -/
def State.cycleEvents (s : State) (b : Nat) : List (Nat × Nat) :=
  let ps := bayPes b
  [(0x00, b2n (s.regionOfBay b).isSome), (0x0E, b2n (s.bay b).starved), (0x0F, s.slotWaits b isBufget),
   (0x12, (ps.filter fun k => (s.pe k).pressed).length), (0x18, (ps.map fun k => (s.pe k).waiters.length).sum)]

/-- The counters of a bay after a cycle; a bay with no counter set counts nothing. -/
def State.count (s : State) (b : Nat) (x : Bay) : Bay :=
  if x.pmon.any fun c => c.2.en then (s.cycleEvents b).foldl (fun x e => x.tally e.1 e.2) x else x

/-- The cycles within which a bay that holds no region enters IDLE (26 R404). -/
def idleWithin : Nat := 1024

/-- The clock of a bay after a cycle: it is gated where no region has held the bay for that long (26 R404). -/
def State.cool (s : State) (b : Nat) (x : Bay) : Bay :=
  if x.power == .on && x.idleFor + idleWithin ≤ s.cycle + 1 && s.bayEmpty b then { x with power := .idle } else x

/-- One cycle of the fabric passes; a record that a coalescing port has held for 4,096 cycles is launched (17 R273), and a bay that has held
no region for 1,024 is idle (26 R404). Log entry 18 (DESIGN CHOICE). Log entry 82 (DESIGN CHOICE). -/
def State.tick (s : State) : State :=
  { s with cycle := s.cycle + 1, regions := s.regions.mapVals s.watch, jobs := s.jobs.mapVals s.spend,
           bays := s.bays.mapVals fun b x => s.cool b (s.count b x), pes := s.pes.mapVals fun _ p => p.launchAllLate (s.cycle + 1) }.numberReady

/-! ## Steps that the machine takes by itself -/

/-- What a step does. -/
abbrev Meaning := State → Host.Outcome State Fault Refusal


/-- The steps at the slices and on the networks. Log entry 77 (DEDUCED). -/
def State.moving (s : State) : List Meaning :=
  (s.packets.flatMap fun e =>
    [execPacketHop e.1 none, execRelayForward e.1] ++ if e.2.isReq then [] else [execDeviceReply e.1]) ++
  (s.slices.flatMap fun k =>
    ((List.range 5).filterMap fun c =>
      if (k.2.queues.toList.getD c []).isEmpty then none else some (execSliceAccess k.1 (c + 1) (2 ^ 60) .clean)) ++
    ((List.range k.2.fills.length).flatMap fun i => [execSectorFill k.1 i .clean, execBolterFill k.1 i]) ++
    (k.2.mailbox.filter fun m => !m.2.isEmpty).map fun m => execMailboxForward k.1 m.1) ++
  (if s.maint.busy then [execMaintenanceDone] else [])

/-- The steps of a PE or AG node. -/
def peSteps (k : Nat) (p : Pe) : List Meaning :=
  (p.boxes.filter fun e => !e.2.isEmpty).map (fun e => execTokenHop k e.1) ++
  (p.outq.filter fun e => !e.2.isEmpty).map (fun e => execTokenHop k e.1) ++
  (p.refills.map fun r => execPageRefill k r.page) ++ ((p.lpt.filter fun e => e.2.wb).map fun e => execFrameWriteback k e.1) ++
  (p.waiters.map fun w => execFullEmptyWake k w.gran) ++
  (if p.src.busy then [execLmstreamSourceToken k] else []) ++ (if p.snk.busy then [execLmstreamSinkToken k] else []) ++
  (if p.confq.isEmpty then [] else [execConfArrival k]) ++ (if p.pending.ended then [execConfigSwitch k] else []) ++
  (if p.mayFire then (if agBase ≤ k then [execAgAdmit (k - agBase), execSourceFiring k] else [execNodeFiring k, execSourceFiring k]) else []) ++
  (p.inports.filter fun e => !e.2.batch.records.isEmpty).flatMap (fun e => [execCoalesceLaunch k e.1, execCoalesceTimeout k e.1]) ++
  ((p.inports.filter fun e => e.2.marked && !p.marks).map fun e => execMarkReceived k e.1) ++
  (if p.matrix.queue.isEmpty then []
    else [execTileLoadExecute k, execMmaExecute k true, execMstExecute k, execMrelExecute k, execMjobExecute k]) ++
  (if p.marks && !p.matrix.cut then [execMatrixMarker k] else []) ++
  (if p.lops.isEmpty then [] else [execLatticeLocalApply k]) ++ (if p.march.isEmpty then [] else [execMarchHandoff k])

/-- The steps of a region. -/
def State.regionSteps (s : State) (k : Nat) (r : Region) : List Meaning :=
  if !r.live then []
  else
    [execControlBlockFetch k, execHandlerEntry k, execDeadline k, execStall k, execHaltGraceExpiry k] ++
    (if r.streamer.on then execStreamBlockSelect k :: r.rect.pes.filterMap fun p =>
        if (Map.get [] (s.pe p).outq dispatchTag).isEmpty then none else some (execStreamThreadReport k p)
      else []) ++
    (if r.rect.pes.any fun p => !(s.pe p).lops.isEmpty then [execPshiftRun k, execPstepRun k] else []) ++
    (if r.draining then
        [execPreemptInject k, execCutComplete k, execDraintimeout k] ++ r.rect.bays.map execCopyMarker ++
        allQueues.map fun q => execQueueMarker r.rect.d q k
      else [])

/-- The steps of a bay: its copy engine, its count unit and its clock. -/
def State.baySteps (s : State) (k : Nat) (b : Bay) : List Meaning :=
  (b.streams.flatMap fun e =>
    let st := e.2
    [execCopyTileStart k e.1] ++ (if st.desc.ep && st.inbound && (s.job st.job).rr != 2 then [] else [execCopyTileComplete k e.1 []]) ++
    (if st.notices.isEmpty then [] else [execFreeNotice k e.1, execFullNotice k e.1]) ++
    (match st.bad with
      | some x => [execCopyPoison k e.1 (BitVec.ofNat 7 x.1)]
      | none => []) ++
    (if st.handles.any fun h => (s.pe h.1).sealed then [execCopyPoison k e.1 0x23] else [])) ++
  (if b.batches.isEmpty then [] else [execCountBatchForward (.bay k) false]) ++
  (if b.power == .on && b.idleFor + 1000 ≤ s.cycle then [execBayIdleEntry k] else [])

/-- The steps of a die: its aggregator and its coprocessors. -/
def dieSteps (k : Nat) (d : Die) : List Meaning :=
  (if d.batches.isEmpty then [] else [execCountBatchForward (.die k) false]) ++
  if d.copro.queues.isEmpty && d.copro.units.isEmpty then []
  else allQueues.flatMap fun q => (List.range (unitCount q)).flatMap fun n =>
    (if !(d.copro.queue q).isEmpty || (d.copro.unit q n).running.isSome then [execCallTake k q n] else []) ++
    (if (d.copro.unit q n).running.isSome then [execUnitTimeout k q n] else []) ++
    (if (d.copro.unit q n).ready.isEmpty then [] else [execCallReturn k q n]) ++
    (if q == .zb && !(d.copro.unit q n).held.isEmpty then [execZbRelease k n] else [])

/-- The steps of a job: its root, the Windshaft and the executive. -/
def jobSteps (k : Nat) (j : Job) : List Meaning :=
  if !j.live then []
  else
    (if j.root.queue.isEmpty then [] else [execRootBatchApply k]) ++
    ((List.range j.root.out.length).map fun i => execAnnouncementArrival k i) ++
    (if j.wsDone then [] else [execWsEntryRead k, execWsPoolEnter k, execJobdeadline k, execWsEntryComplete k j.pkg.nentry]) ++
    ((j.entries.filter fun e => !e.2.done).map fun e => execWsEntryComplete k e.1) ++
    j.capWait.map (execPageCapture k) ++ (if j.captOff then [execPageCapture k 0] else [])

/-- The steps of the executive. -/
def State.execSteps (s : State) : List Meaning :=
  (if s.bids.isEmpty then [] else [execSluiceDecision]) ++ ((List.range s.withheld.length).map execWithheldTimeout) ++
  ((s.saves.filter fun c => c.2.place.isSome).map fun c => execRestoreContext c.1) ++
  (s.conns.flatMap fun c => c.2.waiting.filterMap fun w =>
    if w.1 == 0x05#8 then some (execCheckpoint c.1 w.2.1 (w.2.2.headD 0))
    else if w.1 == 0x06#8 then some (execRestoreImage c.1 w.2.1 (w.2.2.headD 0))
    else if w.1 == 0x08#8 then some (execReplay c.1 w.2.1 (w.2.2.headD 0) (w.2.2.getD 1 0))
    else none) ++
  (s.transfers.filterMap fun t => match t.what with
    | .atomic _ _ _ _ _ => if (s.job t.job).rr == 2 then some (execEndpointAck t.id 0) else none
    | _ => none) ++
  [execBootRetry]

/-- Every step that the machine may be able to take by itself. Log entry 18 (DESIGN CHOICE). Log entry 77 (DEDUCED). -/
def State.candidates (s : State) : List Meaning :=
  s.moving ++ s.pes.flatMap (fun e => peSteps e.1 e.2) ++ s.regions.flatMap (fun e => s.regionSteps e.1 e.2) ++
  s.bays.flatMap (fun e => s.baySteps e.1 e.2) ++ s.dies.flatMap (fun e => dieSteps e.1 e.2) ++
  s.jobs.flatMap (fun e => jobSteps e.1 e.2) ++ s.execSteps

end Sys2Proof.Machine
end

