-- ==== Sys2Proof/Machine/Choose.lean ====
section
/-! DEFINITION. Choose: which step comes next. The manual leaves the order of agents open (00 R3; 17 R274); the model
takes it from `State.agenda` where that lists a turn, and from the rules of this file where it does not. -/

namespace Sys2Proof.Machine

/-- What a step does: it runs an instruction in a state, takes a step of the machine's own, or only leaves a state. -/
inductive Choice where
  | run (i : Instr) (s : State)
  | did (o : Host.Outcome State Fault Refusal)
  | moved (s : State)

/-- Give the turn to a slot of the block in execution; a word that is no instruction is ILLINSN (09 R133, R159). -/
def State.runSlot (s : State) (k : Nat) : Choice :=
  let s := s.onCur fun f => { f with turn := k }
  match s.cur.instr k with
  | some i => .run i s
  | none => .moved (s.raisePrecise (trap .illinsn))

/-- A soft error strikes HBM, a line that a slice holds, a mailbox buffer, a granule of local memory, or a flit that its link
corrects (02 R29; 04 R70; 07 R112; 08 R132; 26 Table 26-7). Log entry 83 (DESIGN CHOICE). -/
def State.strike (s : State) : Upset → State
  | .hbm line e => s.strikeHbm line e
  | .line k line part e => s.strikeLine k line part e
  | .mailbox k q e => s.onSlice k fun c => { c with mailErr := if e == .clean then c.mailErr else c.mailErr.set q e }
  | .granule k g .corrected => s.onPe k fun p => { p with softCorr := insertNat g p.softCorr }
  | .granule k g .uncorrectable => s.onPe k fun p => { p with softBad := insertNat g p.softBad }
  | .granule _ _ .clean => s
  | .flit bay => s.tally bay 0x1C 1

/-- A slot of the block in execution may have its turn: an ordered one waits for the earlier ones of its family (18 R278, R279). -/
def Frame.mayTake (f : Frame) (k : Nat) : Bool := !f.held k || f.dueSlot == some k

/-- The next turn of the agenda. -/
def State.takeTurn (s : State) : Turn → Choice
  | .event i => if i.encoded then .moved s else .run i s
  | .agent a => .moved (s.focus fun f => f.live && f.agent == a)
  | .slot k => if s.cur.mayTake k then s.runSlot k else .moved s
  | .upset u => .moved (s.strike u)

/-- What a step does, where it changes the machine or stops it. -/
def changes (s : State) (m : Meaning) : Option (Host.Outcome State Fault Refusal) :=
  match m s with
  | .next t => if t = s then none else some (.next t)
  | o => some o

/-- The internal step that the machine takes by itself: the first that changes it, of those that it may take, beginning at
another place of the list in each cycle. -/
def State.ownStep (s : State) : Option (Host.Outcome State Fault Refusal) :=
  let cs := s.candidates
  let k := s.cycle % max cs.length 1
  (cs.drop k ++ cs.take k).findSome? (changes s)

/-- Let the block that has waited longest have its turn. -/
def State.rotate (s : State) : State :=
  match s.parked with
  | [] => s
  | f :: fs => { s with cur := f, parked := fs ++ (if s.cur.live then [s.cur] else []) }

/-- A turn of the block in execution that ends in nothing: a step of the machine's own, or the turn of another block. -/
def State.yieldTurn (s : State) : Choice :=
  match s.ownStep with
  | some o => .did o
  | none =>
    match s.cur.waitingSlot (s.cycle / 2) with
    | some k => if s.cycle % 2 = 0 ∧ s.parked ≠ [] then .moved s.rotate else s.runSlot k
    | none => .moved s.rotate

/-- What comes next when the agenda is empty. -/
def State.proceed (s : State) : Choice :=
  match s.cur.dueSlot with
  | some k => s.runSlot k
  | none =>
    if s.cur.complete then
      match changes s execBlockCommit with
      | some o => .did o
      | none => s.yieldTurn
    else s.yieldTurn

/-- What comes next. Log entry 18 (DESIGN CHOICE). -/
def State.choose (s : State) : Choice :=
  match s.agenda with
  | t :: ts => ({ s with agenda := ts }).takeTurn t
  | [] => s.proceed

end Sys2Proof.Machine
end

