-- ==== Sys2Proof/Machine/Integer.lean ====
section
/-! DEFINITION. Integer: the integer arithmetic of chapter 10 on 64-bit values (10 R161 to R173). None of these raises a
flag or a fault of its own. -/

namespace Sys2Proof.Machine

/-! ## Results (10 Table 10-2, R166 to R170) -/

/-- Bits [127:64] of the exact product. -/
def mulHigh (sg : Bool) (a b : W64) : W64 :=
  if sg then BitVec.ofInt 64 (a.toInt * b.toInt / 2 ^ 64) else BitVec.ofNat 64 (a.toNat * b.toNat / 2 ^ 64)

/-- The quotient of R166: division by zero gives all ones, and the signed overflow its dividend. -/
def divQ (sg : Bool) (a b : W64) : W64 :=
  if b = 0 then BitVec.allOnes 64
  else if sg then BitVec.ofInt 64 (a.toInt.tdiv b.toInt) else BitVec.ofNat 64 (a.toNat / b.toNat)

/-- The remainder of R166: division by zero gives the dividend. -/
def divR (sg : Bool) (a b : W64) : W64 :=
  if b = 0 then a
  else if sg then BitVec.ofInt 64 (a.toInt.tmod b.toInt) else BitVec.ofNat 64 (a.toNat % b.toNat)

/-- A shift amount: b[5:0] (10 R167). -/
def shiftAmt (b : W64) : Nat := b.toNat % 64

/-- Rotate left (10 R167). -/
def rotl (a : W64) (n : Nat) : W64 := a.rotateLeft n

/-- The smaller operand. -/
def minW (sg : Bool) (a b : W64) : W64 := if (if sg then b.slt a else b.ult a) then b else a

/-- The larger operand. -/
def maxW (sg : Bool) (a b : W64) : W64 := if (if sg then a.slt b else a.ult b) then b else a

/-- ABSNEG (10 Table 10-3). -/
def absNeg (sub : AbsNeg) (a : W64) : W64 :=
  match sub with
  | .abs => if a.msb then -a else a
  | .neg => -a

/-- Bit w - 1 down: the zero bits above the highest set bit. -/
def leadingZeros (a : W64) : Nat := if a = 0 then 64 else 63 - a.toNat.log2

/-- The zero bits below the lowest set bit. -/
def trailingZeros : Nat → Nat → Nat
  | 0, _ => 0
  | n + 1, v => if v % 2 = 1 then 0 else 1 + trailingZeros n (v / 2)

/-- The set bits. -/
def setBits : Nat → Nat → Nat
  | 0, _ => 0
  | n + 1, v => v % 2 + setBits n (v / 2)

/-- BITC (10 Table 10-3). -/
def bitCount (sub : BitCount) (a : W64) : W64 :=
  match sub with
  | .clz => BitVec.ofNat 64 (leadingZeros a)
  | .ctz => BitVec.ofNat 64 (trailingZeros 64 a.toNat)
  | .popc => BitVec.ofNat 64 (setBits 64 a.toNat)

/-- POS of a bit-field control word (10 Table 10-4). -/
def fieldPos (c : W64) : Nat := bits c 5 0
/-- The length of a field: min(LEN1 + 1, 64 - POS) (10 R169). -/
def fieldLen (c : W64) : Nat := min (bits c 13 8 + 1) (64 - fieldPos c)

/-- BFX (10 R169). -/
def fieldGet (sg : Bool) (a c : W64) : W64 :=
  let f := BitVec.ofNat (fieldLen c) (a.toNat / 2 ^ fieldPos c)
  if sg then f.signExtend 64 else f.setWidth 64

/-- BFI (10 R169). -/
def fieldPut (a b c : W64) : W64 := insertBits a (fieldPos c) (fieldLen c) b.toNat

/-- CMP (10 Table 10-5). -/
def compare2 (c : Cond) (sg : Bool) (a b : W64) : Bool :=
  let lt := fun (x y : W64) => if sg then x.slt y else x.ult y
  match c with
  | .eq => a == b
  | .ne => a != b
  | .lt => lt a b
  | .le => !lt b a
  | .gt => lt b a
  | .ge => !lt a b
  | .tst => (a &&& b) != 0

/-- The bits that EXT extends from. -/
def extBits : ExtWidth → Nat
  | .w8 => 8
  | .w16 => 16
  | .w32 => 32

/-- EXT (10 Table 10-3). -/
def extend (w : ExtWidth) (sg : Bool) (a : W64) : W64 :=
  let f := a.setWidth (extBits w)
  if sg then f.signExtend 64 else f.setWidth 64

/-- CMPI (10 R173, Table 10-7). -/
def compareImm (c : CondI) (k : BitVec 11) (a : W64) : Bool :=
  let ks : W64 := k.signExtend 64
  let kz : W64 := k.setWidth 64
  match c with
  | .eq => a == ks
  | .ne => a != ks
  | .ltS => a.slt ks
  | .geS => !a.slt ks
  | .ltZ => a.ult kz
  | .geZ => !a.ult kz
  | .leS => !ks.slt a
  | .gtS => ks.slt a

/-! ## Instructions -/

/-- ADD (10 R165): the sum modulo 2^64. -/
def execAdd (p : Pm) (t u : Tgt) (s : State) : Host.Outcome State Fault Refusal :=
  issue2 p [t, u] s fun a b => a + b

/-- SUB (10 R165): op0 minus op1 modulo 2^64. -/
def execSub (p : Pm) (t u : Tgt) (s : State) : Host.Outcome State Fault Refusal :=
  issue2 p [t, u] s fun a b => a - b

/-- MUL (10 R165): the low 64 bits of the product. -/
def execMul (p : Pm) (t u : Tgt) (s : State) : Host.Outcome State Fault Refusal :=
  issue2 p [t, u] s fun a b => a * b

/-- AND (10 R165). -/
def execAnd (p : Pm) (t u : Tgt) (s : State) : Host.Outcome State Fault Refusal :=
  issue2 p [t, u] s fun a b => a &&& b

/-- OR (10 R165). -/
def execOr (p : Pm) (t u : Tgt) (s : State) : Host.Outcome State Fault Refusal :=
  issue2 p [t, u] s fun a b => a ||| b

/-- XOR (10 R165). -/
def execXor (p : Pm) (t u : Tgt) (s : State) : Host.Outcome State Fault Refusal :=
  issue2 p [t, u] s fun a b => a ^^^ b

/-- ANDN (10 R165): op0 AND NOT op1. -/
def execAndn (p : Pm) (t u : Tgt) (s : State) : Host.Outcome State Fault Refusal :=
  issue2 p [t, u] s fun a b => a &&& ~~~b

/-- SHL (10 R167). -/
def execShl (p : Pm) (t u : Tgt) (s : State) : Host.Outcome State Fault Refusal :=
  issue2 p [t, u] s fun a b => a <<< shiftAmt b

/-- SHR (10 R167). -/
def execShr (p : Pm) (t u : Tgt) (s : State) : Host.Outcome State Fault Refusal :=
  issue2 p [t, u] s fun a b => a >>> shiftAmt b

/-- SRA (10 R167). -/
def execSra (p : Pm) (t u : Tgt) (s : State) : Host.Outcome State Fault Refusal :=
  issue2 p [t, u] s fun a b => a.sshiftRight (shiftAmt b)

/-- ROT (10 R167): to the left. -/
def execRot (p : Pm) (t u : Tgt) (s : State) : Host.Outcome State Fault Refusal :=
  issue2 p [t, u] s fun a b => rotl a (shiftAmt b)

/-- MULH (10 R165): bits [127:64] of the product. -/
def execMulh (p : Pm) (t u : Tgt) (sg : Bool) (s : State) : Host.Outcome State Fault Refusal :=
  issue2 p [t, u] s fun a b => mulHigh sg a b

/-- DIV (10 R166). -/
def execDiv (p : Pm) (t u : Tgt) (sg : Bool) (s : State) : Host.Outcome State Fault Refusal :=
  issue2 p [t, u] s fun a b => divQ sg a b

/-- REM (10 R166). -/
def execRem (p : Pm) (t u : Tgt) (sg : Bool) (s : State) : Host.Outcome State Fault Refusal :=
  issue2 p [t, u] s fun a b => divR sg a b

/-- MIN (10 R165). -/
def execMin (p : Pm) (t u : Tgt) (sg : Bool) (s : State) : Host.Outcome State Fault Refusal :=
  issue2 p [t, u] s fun a b => minW sg a b

/-- MAX (10 R165). -/
def execMax (p : Pm) (t u : Tgt) (sg : Bool) (s : State) : Host.Outcome State Fault Refusal :=
  issue2 p [t, u] s fun a b => maxW sg a b

/-- BFX (10 R169). -/
def execBfx (p : Pm) (t u : Tgt) (sg : Bool) (s : State) : Host.Outcome State Fault Refusal :=
  issue2 p [t, u] s fun a b => fieldGet sg a b

/-- ABSNEG (10 R168). -/
def execAbsneg (p : Pm) (t u : Tgt) (sub : AbsNeg) (s : State) : Host.Outcome State Fault Refusal :=
  issue1 p [t, u] s (absNeg sub)

/-- BITC (10 R168). -/
def execBitc (p : Pm) (t u : Tgt) (sub : BitCount) (s : State) : Host.Outcome State Fault Refusal :=
  issue1 p [t, u] s (bitCount sub)

/-- BFI (10 R169). -/
def execBfi (p : Pm) (t u : Tgt) (s : State) : Host.Outcome State Fault Refusal :=
  issue3 p [t, u] s fieldPut

/-- CMP (10 R170). -/
def execCmp (p : Pm) (t u : Tgt) (cond : Cond) (sg : Bool) (s : State) : Host.Outcome State Fault Refusal :=
  issue2 p [t, u] s fun a b => boolW (compare2 cond sg a b)

/-- SEL (10 R171): the chosen operand is delivered unchanged, with its own kind, when op0 is DATA. -/
def execSel (p : Pm) (t u : Tgt) (nz : Bool) (s : State) : Host.Outcome State Fault Refusal :=
  issueAny p 3 s fun
    | [a, b, c] =>
      if a.isData then .done s (toEach [t, u] (if (if nz then a.lo != 0 else bitAt a.bits 0) then b else c))
      else .done s (toEach [t, u] (.ofKind ((nonData [a, b, c]).getD .null)))
    | _ => .done s []

/-- EXT (10 R168). -/
def execExt (p : Pm) (t u : Tgt) (ew : ExtWidth) (sg : Bool) (s : State) : Host.Outcome State Fault Refusal :=
  issue1 p [t, u] s (extend ew sg)

/-- ADDI (10 R172). -/
def execAddi (p : Pm) (t : Tgt) (imm : BitVec 14) (s : State) : Host.Outcome State Fault Refusal :=
  issue1 p [t] s fun a => a + imm.signExtend 64

/-- ANDI (10 R172). -/
def execAndi (p : Pm) (t : Tgt) (imm : BitVec 14) (s : State) : Host.Outcome State Fault Refusal :=
  issue1 p [t] s fun a => a &&& imm.signExtend 64

/-- ORI (10 R172). -/
def execOri (p : Pm) (t : Tgt) (imm : BitVec 14) (s : State) : Host.Outcome State Fault Refusal :=
  issue1 p [t] s fun a => a ||| imm.signExtend 64

/-- XORI (10 R172). -/
def execXori (p : Pm) (t : Tgt) (imm : BitVec 14) (s : State) : Host.Outcome State Fault Refusal :=
  issue1 p [t] s fun a => a ^^^ imm.signExtend 64

/-- SHLI (10 R172). -/
def execShli (p : Pm) (t : Tgt) (imm : BitVec 6) (s : State) : Host.Outcome State Fault Refusal :=
  issue1 p [t] s fun a => a <<< imm.toNat

/-- SHRI (10 R172). -/
def execShri (p : Pm) (t : Tgt) (imm : BitVec 6) (s : State) : Host.Outcome State Fault Refusal :=
  issue1 p [t] s fun a => a >>> imm.toNat

/-- SRAI (10 R172). -/
def execSrai (p : Pm) (t : Tgt) (imm : BitVec 6) (s : State) : Host.Outcome State Fault Refusal :=
  issue1 p [t] s fun a => a.sshiftRight imm.toNat

/-- CMPI (10 R173). -/
def execCmpi (p : Pm) (t : Tgt) (cond : CondI) (imm : BitVec 11) (s : State) : Host.Outcome State Fault Refusal :=
  issue1 p [t] s fun a => boolW (compareImm cond imm a)

/-- MULI (10 R172). -/
def execMuli (p : Pm) (t : Tgt) (imm : BitVec 14) (s : State) : Host.Outcome State Fault Refusal :=
  issue1 p [t] s fun a => a * imm.signExtend 64

end Sys2Proof.Machine
end

