-- ==== Sys2Proof/Machine/Vector.lean ====
section
/-! DEFINITION. Vector: the instructions that combine or move lanes (13 R213 to R216). -/

namespace Sys2Proof.Machine

/-- The sum of all lanes, rounded once (13 R213). -/
def vredValue (ty : FType) (rnd : Round) (a : W512) : Nat × Flags :=
  let f := ftFmt ty
  let ls := lanesOf a ty.bits (ftLanes ty)
  match f.nanOf ls with
  | some r => r
  | none => f.sumTerms rnd (ls.map f.decode)

/-- VRED (13 R213). -/
def execVred (p : Pm) (t u : Tgt) (ty : VType) (rnd : Round) (s : State) : Host.Outcome State Fault Refusal :=
  issueFlag p 1 [t, u] true s fun
    | [a] =>
      let r := vredValue (vtFt ty) rnd a.bits
      (.data (BitVec.ofNat 64 r.1), r.2)
    | _ => (.data 0, Flags.none)

/-- VSHUF (13 R216). -/
def execVshuf (p : Pm) (t u : Tgt) (ty : VType) (rot : Bool) (s : State) : Host.Outcome State Fault Refusal :=
  issueFlag p 2 [t, u] true s fun
    | [a, b] =>
      let w := (vtFt ty).bits
      let n := ftLanes (vtFt ty)
      (.wideData (ofLanes w ((List.range n).map fun i =>
        lane a.bits w ((if rot then i + b.lo.toNat else lane b.bits w i) % n))), Flags.none)
    | _ => (.data 0, Flags.none)

/-- VBCAST (13 R216). -/
def execVbcast (p : Pm) (t u : Tgt) (ty : VType) (s : State) : Host.Outcome State Fault Refusal :=
  issueFlag p 1 [t, u] true s fun
    | [a] =>
      let w := (vtFt ty).bits
      (.wideData (ofLanes w (List.replicate (ftLanes (vtFt ty)) (lane a.bits w 0))), Flags.none)
    | _ => (.data 0, Flags.none)

/-- VLANE (13 R215): `.get` takes two operands and `.put` three. -/
def execVlane (p : Pm) (t u : Tgt) (ty : VType) (put : Bool) (s : State) : Host.Outcome State Fault Refusal :=
  issueFlag p (if put then 3 else 2) [t, u] true s fun
    | [a, b] =>
      let w := (vtFt ty).bits
      (.data (BitVec.ofNat 64 (lane a.bits w (b.lo.toNat % ftLanes (vtFt ty)))), Flags.none)
    | [a, b, c] =>
      let w := (vtFt ty).bits
      (.wideData (insertBits a.bits (w * (b.lo.toNat % ftLanes (vtFt ty))) w (lane c.bits w 0)), Flags.none)
    | _ => (.data 0, Flags.none)

/-! ## VDOT (13 R214) -/

/-- The vector type of VDOT's lanes: the `.a` form is written with the scalar type code. -/
def dotType : FType → FType
  | .f16 => .vf16
  | .bf16 => .vbf16
  | .f32 => .vf32
  | .f64 => .vf64
  | t => t

/-- The format of the result. -/
def dotFmt (ty : FType) : Fmt := if (ftFmt ty) == fp64 then fp64 else fp32

/-- A lane's code in the result format, when it is a NaN. -/
def widenNan (f r : Fmt) (c : Nat) : Nat := if f == r then c else Fmt.convNan f r c

/-- The exact dot product with an addend, rounded once. -/
def dotValue (ty : FType) (rnd : Round) (a b : W512) (c : Option Nat) : Nat × Flags :=
  let f := ftFmt ty
  let r := dotFmt ty
  let la := lanesOf a ty.bits (ftLanes ty)
  let lb := lanesOf b ty.bits (ftLanes ty)
  let snan := (la ++ lb).any f.isSnan || (c.toList.any r.isSnan)
  let bad := (List.zipWith FVal.zeroInf (la.map f.decode) (lb.map f.decode)).any id
  let nans := ((la ++ lb).filter f.isNan).map (widenNan f r) ++ c.toList.filter r.isNan
  match nans with
  | n :: _ => (r.quiet n, if snan || bad then Flags.nvOnly else Flags.none)
  | [] =>
    if bad then r.invalid
    else r.sumTerms rnd (List.zipWith FVal.prod (la.map f.decode) (lb.map f.decode) ++ c.toList.map r.decode)

/-- VDOT (13 R214). -/
def execVdot (p : Pm) (t u : Tgt) (ty : FType) (rnd : Round) (s : State) : Host.Outcome State Fault Refusal :=
  issueFlag p (if ty.scalar then 3 else 2) [t, u] true s fun
    | [a, b] =>
      let r := dotValue ty rnd a.bits b.bits none
      (.data (BitVec.ofNat 64 r.1), r.2)
    | [a, b, c] =>
      let r := dotValue (dotType ty) rnd a.bits b.bits (some (c.lo.toNat % 2 ^ (dotFmt ty).width))
      (.data (BitVec.ofNat 64 r.1), r.2)
    | _ => (.data 0, Flags.none)

end Sys2Proof.Machine
end

