-- ==== Sys2Proof/Machine/Dispatch.lean ====
section
/-! DEFINITION. Dispatch: the meaning of every instruction and step, one arm each. -/

namespace Sys2Proof.Machine

/-- What an instruction or a step of the machine does (95). -/
def exec (i : Instr) (s : State) : Host.Outcome State Fault Refusal :=
  match i with
  | .read reg fe t u => Sys2Proof.Machine.execRead reg fe t u s
  | .mov p t u => Sys2Proof.Machine.execMov p t u s
  | .movi p t imm => Sys2Proof.Machine.execMovi p t imm s
  | .movis p t imm => Sys2Proof.Machine.execMovis p t imm s
  | .null p t u => Sys2Proof.Machine.execNull p t u s
  | .recv port t u => Sys2Proof.Machine.execRecv port t u s
  | .recvk port t u => Sys2Proof.Machine.execRecvk port t u s
  | .recvo port t u => Sys2Proof.Machine.execRecvo port t u s
  | .join pa pb mode t => Sys2Proof.Machine.execJoin pa pb mode t s
  | .bro p exit off => Sys2Proof.Machine.execBro p exit off s
  | .bri p exit => Sys2Proof.Machine.execBri p exit s
  | .callo p exit off => Sys2Proof.Machine.execCallo p exit off s
  | .retb p exit => Sys2Proof.Machine.execRetb p exit s
  | .halt p => Sys2Proof.Machine.execHalt p s
  | .fence p gslot scope => Sys2Proof.Machine.execFence p gslot scope s
  | .add p t u => Sys2Proof.Machine.execAdd p t u s
  | .sub p t u => Sys2Proof.Machine.execSub p t u s
  | .mul p t u => Sys2Proof.Machine.execMul p t u s
  | .mulh p t u sg => Sys2Proof.Machine.execMulh p t u sg s
  | .div p t u sg => Sys2Proof.Machine.execDiv p t u sg s
  | .rem p t u sg => Sys2Proof.Machine.execRem p t u sg s
  | .and p t u => Sys2Proof.Machine.execAnd p t u s
  | .or p t u => Sys2Proof.Machine.execOr p t u s
  | .xor p t u => Sys2Proof.Machine.execXor p t u s
  | .andn p t u => Sys2Proof.Machine.execAndn p t u s
  | .shl p t u => Sys2Proof.Machine.execShl p t u s
  | .shr p t u => Sys2Proof.Machine.execShr p t u s
  | .sra p t u => Sys2Proof.Machine.execSra p t u s
  | .rot p t u => Sys2Proof.Machine.execRot p t u s
  | .min p t u sg => Sys2Proof.Machine.execMin p t u sg s
  | .max p t u sg => Sys2Proof.Machine.execMax p t u sg s
  | .absneg p t u sub => Sys2Proof.Machine.execAbsneg p t u sub s
  | .bitc p t u sub => Sys2Proof.Machine.execBitc p t u sub s
  | .bfx p t u sg => Sys2Proof.Machine.execBfx p t u sg s
  | .bfi p t u => Sys2Proof.Machine.execBfi p t u s
  | .cmp p t u cond sg => Sys2Proof.Machine.execCmp p t u cond sg s
  | .sel p t u nz => Sys2Proof.Machine.execSel p t u nz s
  | .ext p t u ew sg => Sys2Proof.Machine.execExt p t u ew sg s
  | .addi p t imm => Sys2Proof.Machine.execAddi p t imm s
  | .andi p t imm => Sys2Proof.Machine.execAndi p t imm s
  | .ori p t imm => Sys2Proof.Machine.execOri p t imm s
  | .xori p t imm => Sys2Proof.Machine.execXori p t imm s
  | .shli p t imm => Sys2Proof.Machine.execShli p t imm s
  | .shri p t imm => Sys2Proof.Machine.execShri p t imm s
  | .srai p t imm => Sys2Proof.Machine.execSrai p t imm s
  | .cmpi p t cond imm => Sys2Proof.Machine.execCmpi p t cond imm s
  | .muli p t imm => Sys2Proof.Machine.execMuli p t imm s
  | .xlate p t u wr nf => Sys2Proof.Machine.execXlate p t u wr nf s
  | .paadd p t u => Sys2Proof.Machine.execPaadd p t u s
  | .paoff p t imm => Sys2Proof.Machine.execPaoff p t imm s
  | .ld p t lsid sz imm => Sys2Proof.Machine.execLd p t lsid sz imm s
  | .st p lsid sz imm => Sys2Proof.Machine.execSt p lsid sz imm s
  | .ldv p t lsid imm => Sys2Proof.Machine.execLdv p t lsid imm s
  | .stv p lsid imm => Sys2Proof.Machine.execStv p lsid imm s
  | .ldl p t lsid sz imm => Sys2Proof.Machine.execLdl p t lsid sz imm s
  | .stl p lsid sz imm => Sys2Proof.Machine.execStl p lsid sz imm s
  | .ldlw p t lsid sz q off => Sys2Proof.Machine.execLdlw p t lsid sz q off s
  | .stlf p lsid sz q off => Sys2Proof.Machine.execStlf p lsid sz q off s
  | .ldlv p t lsid imm => Sys2Proof.Machine.execLdlv p t lsid imm s
  | .stlv p lsid imm => Sys2Proof.Machine.execStlv p lsid imm s
  | .atom p t lsid sz sub off => Sys2Proof.Machine.execAtom p t lsid sz sub off s
  | .cas p t lsid sz imm => Sys2Proof.Machine.execCas p t lsid sz imm s
  | .atoml p t lsid sz sub off => Sys2Proof.Machine.execAtoml p t lsid sz sub off s
  | .bufdef p h => Sys2Proof.Machine.execBufdef p h s
  | .bufget p t u h => Sys2Proof.Machine.execBufget p t u h s
  | .bufput p h => Sys2Proof.Machine.execBufput p h s
  | .bufstat p t u h => Sys2Proof.Machine.execBufstat p t u h s
  | .cpyopen p h => Sys2Proof.Machine.execCpyopen p h s
  | .cpyclose p h => Sys2Proof.Machine.execCpyclose p h s
  | .cpywait p t u h => Sys2Proof.Machine.execCpywait p t u h s
  | .gather p t u sz => Sys2Proof.Machine.execGather p t u sz s
  | .scatter p sz => Sys2Proof.Machine.execScatter p sz s
  | .epatom p t u sub => Sys2Proof.Machine.execEpatom p t u sub s
  | .epfence p => Sys2Proof.Machine.execEpfence p s
  | .lmstream p t => Sys2Proof.Machine.execLmstream p t s
  | .fadd p t u ty rnd => Sys2Proof.Machine.execFadd p t u ty rnd s
  | .fsub p t u ty rnd => Sys2Proof.Machine.execFsub p t u ty rnd s
  | .fmul p t u ty rnd => Sys2Proof.Machine.execFmul p t u ty rnd s
  | .fma p t u ty rnd => Sys2Proof.Machine.execFma p t u ty rnd s
  | .fdiv p t u ty rnd => Sys2Proof.Machine.execFdiv p t u ty rnd s
  | .fsqrt p t u ty rnd => Sys2Proof.Machine.execFsqrt p t u ty rnd s
  | .frsq p t u ty rnd => Sys2Proof.Machine.execFrsq p t u ty rnd s
  | .fminmax p t u ty sub => Sys2Proof.Machine.execFminmax p t u ty sub s
  | .fcmp p t u ty sub => Sys2Proof.Machine.execFcmp p t u ty sub s
  | .fclass p t u ty => Sys2Proof.Machine.execFclass p t u ty s
  | .fsign p t u ty sub => Sys2Proof.Machine.execFsign p t u ty sub s
  | .frnd p t u ty rnd => Sys2Proof.Machine.execFrnd p t u ty rnd s
  | .fexp2 p t u ty rnd => Sys2Proof.Machine.execFexp2 p t u ty rnd s
  | .flog2 p t u ty rnd => Sys2Proof.Machine.execFlog2 p t u ty rnd s
  | .cvt p t dty rsd part ty rnd => Sys2Proof.Machine.execCvt p t dty rsd part ty rnd s
  | .cvti p t iw sg ty rnd => Sys2Proof.Machine.execCvti p t iw sg ty rnd s
  | .cvtf p t iw sg ty rnd => Sys2Proof.Machine.execCvtf p t iw sg ty rnd s
  | .gxpack p t u gw => Sys2Proof.Machine.execGxpack p t u gw s
  | .gxunp p t u ty gw => Sys2Proof.Machine.execGxunp p t u ty gw s
  | .vred p t u ty rnd => Sys2Proof.Machine.execVred p t u ty rnd s
  | .vshuf p t u ty rot => Sys2Proof.Machine.execVshuf p t u ty rot s
  | .vbcast p t u ty => Sys2Proof.Machine.execVbcast p t u ty s
  | .vlane p t u ty put => Sys2Proof.Machine.execVlane p t u ty put s
  | .vdot p t u ty rnd => Sys2Proof.Machine.execVdot p t u ty rnd s
  | .mlda p ty buf => Sys2Proof.Machine.execMlda p ty buf s
  | .mldb p ty buf => Sys2Proof.Machine.execMldb p ty buf s
  | .mldl p ty buf => Sys2Proof.Machine.execMldl p ty buf s
  | .mma p ty mode => Sys2Proof.Machine.execMma p ty mode s
  | .mst p ty acc => Sys2Proof.Machine.execMst p ty acc s
  | .mrel p t ty acc => Sys2Proof.Machine.execMrel p t ty acc s
  | .mjob p ty acc => Sys2Proof.Machine.execMjob p ty acc s
  | .ctr p t u bp reg => Sys2Proof.Machine.execCtr p t u bp reg s
  | .pldef p plane => Sys2Proof.Machine.execPldef p plane s
  | .pshift p cst => Sys2Proof.Machine.execPshift p cst s
  | .pstep p => Sys2Proof.Machine.execPstep p s
  | .pact p t u sub => Sys2Proof.Machine.execPact p t u sub s
  | .psum p t u sub => Sys2Proof.Machine.execPsum p t u sub s
  | .pcopy p sub => Sys2Proof.Machine.execPcopy p sub s
  | .lmarch p t u plane => Sys2Proof.Machine.execLmarch p t u plane s
  | .site p t u sel => Sys2Proof.Machine.execSite p t u sel s
  | .timeNow p t u => Sys2Proof.Machine.execTimeNow p t u s
  | .timeCmp p t u => Sys2Proof.Machine.execTimeCmp p t u s
  | .timeMake p t u => Sys2Proof.Machine.execTimeMake p t u s
  | .timeField p t u => Sys2Proof.Machine.execTimeField p t u s
  | .frontRead p t u => Sys2Proof.Machine.execFrontRead p t u s
  | .frontWait p t u => Sys2Proof.Machine.execFrontWait p t u s
  | .frontSubscribe p => Sys2Proof.Machine.execFrontSubscribe p s
  | .tcapNew p t u => Sys2Proof.Machine.execTcapNew p t u s
  | .tcapAdvance p => Sys2Proof.Machine.execTcapAdvance p s
  | .tcapDrop p => Sys2Proof.Machine.execTcapDrop p s
  | .callq p queue ord => Sys2Proof.Machine.execCallq p queue ord s
  | .sysTrap p => Sys2Proof.Machine.execSysTrap p s
  | .sysEret p => Sys2Proof.Machine.execSysEret p s
  | .sysBkpt p => Sys2Proof.Machine.execSysBkpt p s
  | .sysFeatq p t u => Sys2Proof.Machine.execSysFeatq p t u s
  | .sysWdog p t u => Sys2Proof.Machine.execSysWdog p t u s
  | .sysPmonctl p => Sys2Proof.Machine.execSysPmonctl p s
  | .sysPmonrd p t u => Sys2Proof.Machine.execSysPmonrd p t u s
  | .sysRrmark p => Sys2Proof.Machine.execSysRrmark p s
  | .sysTlbinv p => Sys2Proof.Machine.execSysTlbinv p s
  | .sysCsload p => Sys2Proof.Machine.execSysCsload p s
  | .sregRd p t num => Sys2Proof.Machine.execSregRd p t num s
  | .sregWr p num => Sys2Proof.Machine.execSregWr p num s
  | .sectCfgload p => Sys2Proof.Machine.execSectCfgload p s
  | .sectArm p => Sys2Proof.Machine.execSectArm p s
  | .sectBound p => Sys2Proof.Machine.execSectBound p s
  | .sectDrain p => Sys2Proof.Machine.execSectDrain p s
  | .sectSinkw p t u => Sys2Proof.Machine.execSectSinkw p t u s
  | .sectRelease p => Sys2Proof.Machine.execSectRelease p s
  | .sectGred p t u => Sys2Proof.Machine.execSectGred p t u s
  | .sectGbcast p => Sys2Proof.Machine.execSectGbcast p s
  | .sliceAccess slice cls victim sram => Sys2Proof.Machine.execSliceAccess slice cls victim sram s
  | .sectorFill slice idx ecc => Sys2Proof.Machine.execSectorFill slice idx ecc s
  | .bolterFill slice idx => Sys2Proof.Machine.execBolterFill slice idx s
  | .scrubRead line ecc => Sys2Proof.Machine.execScrubRead line ecc s
  | .mailboxForward slice tag => Sys2Proof.Machine.execMailboxForward slice tag s
  | .relayForward packet => Sys2Proof.Machine.execRelayForward packet s
  | .artEntryEnable entry stride => Sys2Proof.Machine.execArtEntryEnable entry stride s
  | .artEntryDisable entry => Sys2Proof.Machine.execArtEntryDisable entry s
  | .ownerTagWrite page tag => Sys2Proof.Machine.execOwnerTagWrite page tag s
  | .errorLogFree slice entry => Sys2Proof.Machine.execErrorLogFree slice entry s
  | .lostClear slice => Sys2Proof.Machine.execLostClear slice s
  | .writeBackRange => Sys2Proof.Machine.execWriteBackRange s
  | .writeBackInvalidateRange => Sys2Proof.Machine.execWriteBackInvalidateRange s
  | .writeBackInvalidateAll => Sys2Proof.Machine.execWriteBackInvalidateAll s
  | .rebase => Sys2Proof.Machine.execRebase s
  | .maintenanceDone => Sys2Proof.Machine.execMaintenanceDone s
  | .formatWindowEnable window word3 => Sys2Proof.Machine.execFormatWindowEnable window word3 s
  | .formatWindowDisable window => Sys2Proof.Machine.execFormatWindowDisable window s
  | .registerWrite place value => Sys2Proof.Machine.execRegisterWrite place value s
  | .pageResume job vpage => Sys2Proof.Machine.execPageResume job vpage s
  | .pageRefuse job vpage => Sys2Proof.Machine.execPageRefuse job vpage s
  | .withheldTimeout idx => Sys2Proof.Machine.execWithheldTimeout idx s
  | .deviceReply packet => Sys2Proof.Machine.execDeviceReply packet s
  | .copyTileStart bay stream => Sys2Proof.Machine.execCopyTileStart bay stream s
  | .copyTileComplete bay stream host => Sys2Proof.Machine.execCopyTileComplete bay stream host s
  | .copyPoison bay stream fcode => Sys2Proof.Machine.execCopyPoison bay stream fcode s
  | .freeNotice bay stream => Sys2Proof.Machine.execFreeNotice bay stream s
  | .fullNotice bay stream => Sys2Proof.Machine.execFullNotice bay stream s
  | .copyMarker bay => Sys2Proof.Machine.execCopyMarker bay s
  | .pageRefill pe page => Sys2Proof.Machine.execPageRefill pe page s
  | .frameWriteback pe page => Sys2Proof.Machine.execFrameWriteback pe page s
  | .fullEmptyWake pe granule => Sys2Proof.Machine.execFullEmptyWake pe granule s
  | .lmstreamSourceToken pe => Sys2Proof.Machine.execLmstreamSourceToken pe s
  | .lmstreamSinkToken pe => Sys2Proof.Machine.execLmstreamSinkToken pe s
  | .tokenHop pe tag => Sys2Proof.Machine.execTokenHop pe tag s
  | .packetHop packet merge => Sys2Proof.Machine.execPacketHop packet merge s
  | .requestDamaged packet => Sys2Proof.Machine.execRequestDamaged packet s
  | .replyResend packet => Sys2Proof.Machine.execReplyResend packet s
  | .linkuncorr packet => Sys2Proof.Machine.execLinkuncorr packet s
  | .circuitUncorr pe tag => Sys2Proof.Machine.execCircuitUncorr pe tag s
  | .softerr pe => Sys2Proof.Machine.execSofterr pe s
  | .confArrival pe => Sys2Proof.Machine.execConfArrival pe s
  | .configSwitch pe => Sys2Proof.Machine.execConfigSwitch pe s
  | .nodeFiring pe => Sys2Proof.Machine.execNodeFiring pe s
  | .sourceFiring pe => Sys2Proof.Machine.execSourceFiring pe s
  | .agAdmit ag => Sys2Proof.Machine.execAgAdmit ag s
  | .controlBlockFetch region => Sys2Proof.Machine.execControlBlockFetch region s
  | .blockCommit => Sys2Proof.Machine.execBlockCommit s
  | .coalesceLaunch pe port => Sys2Proof.Machine.execCoalesceLaunch pe port s
  | .coalesceTimeout pe port => Sys2Proof.Machine.execCoalesceTimeout pe port s
  | .streamBlockSelect region => Sys2Proof.Machine.execStreamBlockSelect region s
  | .streamThreadReport region pe => Sys2Proof.Machine.execStreamThreadReport region pe s
  | .countBatchForward unit mergeNext => Sys2Proof.Machine.execCountBatchForward unit mergeNext s
  | .rootBatchApply job => Sys2Proof.Machine.execRootBatchApply job s
  | .announcementArrival job idx => Sys2Proof.Machine.execAnnouncementArrival job idx s
  | .peerBatch job changes stamp => Sys2Proof.Machine.execPeerBatch job changes stamp s
  | .peerConnectionLoss job => Sys2Proof.Machine.execPeerConnectionLoss job s
  | .mmaExecute pe residueOk => Sys2Proof.Machine.execMmaExecute pe residueOk s
  | .tileLoadExecute pe => Sys2Proof.Machine.execTileLoadExecute pe s
  | .mstExecute pe => Sys2Proof.Machine.execMstExecute pe s
  | .mrelExecute pe => Sys2Proof.Machine.execMrelExecute pe s
  | .mjobExecute pe => Sys2Proof.Machine.execMjobExecute pe s
  | .matrixMarker pe => Sys2Proof.Machine.execMatrixMarker pe s
  | .latticeLocalApply pe => Sys2Proof.Machine.execLatticeLocalApply pe s
  | .pshiftRun region => Sys2Proof.Machine.execPshiftRun region s
  | .pstepRun region => Sys2Proof.Machine.execPstepRun region s
  | .marchHandoff pe => Sys2Proof.Machine.execMarchHandoff pe s
  | .callTake die queue unit => Sys2Proof.Machine.execCallTake die queue unit s
  | .callReturn die queue unit => Sys2Proof.Machine.execCallReturn die queue unit s
  | .zbRelease die unit => Sys2Proof.Machine.execZbRelease die unit s
  | .unitTimeout die queue unit => Sys2Proof.Machine.execUnitTimeout die queue unit s
  | .queueMarker die queue region => Sys2Proof.Machine.execQueueMarker die queue region s
  | .wsEntryRead job => Sys2Proof.Machine.execWsEntryRead job s
  | .wsPoolEnter job => Sys2Proof.Machine.execWsPoolEnter job s
  | .wsEntryComplete job entry => Sys2Proof.Machine.execWsEntryComplete job entry s
  | .sluiceDecision => Sys2Proof.Machine.execSluiceDecision s
  | .handlerEntry region => Sys2Proof.Machine.execHandlerEntry region s
  | .qovf region record => Sys2Proof.Machine.execQovf region record s
  | .deadline region => Sys2Proof.Machine.execDeadline region s
  | .stall region => Sys2Proof.Machine.execStall region s
  | .haltGraceExpiry region => Sys2Proof.Machine.execHaltGraceExpiry region s
  | .jobdeadline job => Sys2Proof.Machine.execJobdeadline job s
  | .preemptInject region => Sys2Proof.Machine.execPreemptInject region s
  | .markReceived pe port => Sys2Proof.Machine.execMarkReceived pe port s
  | .cutComplete region => Sys2Proof.Machine.execCutComplete region s
  | .draintimeout region => Sys2Proof.Machine.execDraintimeout region s
  | .restoreContext context => Sys2Proof.Machine.execRestoreContext context s
  | .jobsubmit conn seq pkg => Sys2Proof.Machine.execJobsubmit conn seq pkg s
  | .jobabort conn seq job => Sys2Proof.Machine.execJobabort conn seq job s
  | .epattach conn seq job idx extent => Sys2Proof.Machine.execEpattach conn seq job idx extent s
  | .epdetach conn seq job idx => Sys2Proof.Machine.execEpdetach conn seq job idx s
  | .checkpoint conn seq idx => Sys2Proof.Machine.execCheckpoint conn seq idx s
  | .restoreImage conn seq idx => Sys2Proof.Machine.execRestoreImage conn seq idx s
  | .telemetry conn seq => Sys2Proof.Machine.execTelemetry conn seq s
  | .replay conn seq job npass => Sys2Proof.Machine.execReplay conn seq job npass s
  | .exportRange conn seq job base len perm => Sys2Proof.Machine.execExportRange conn seq job base len perm s
  | .unexportRange conn seq job idx => Sys2Proof.Machine.execUnexportRange conn seq job idx s
  | .rmaRead conn job idx offset len => Sys2Proof.Machine.execRmaRead conn job idx offset len s
  | .rmaWrite conn job idx offset data => Sys2Proof.Machine.execRmaWrite conn job idx offset data s
  | .rmaAtomic conn job idx offset sub operand => Sys2Proof.Machine.execRmaAtomic conn job idx offset sub operand s
  | .endpointAck transfer old => Sys2Proof.Machine.execEndpointAck transfer old s
  | .epfail transfer => Sys2Proof.Machine.execEpfail transfer s
  | .pageCapture job page => Sys2Proof.Machine.execPageCapture job page s
  | .powerUp => Sys2Proof.Machine.execPowerUp s
  | .bootImageArrival hosts signatureOk => Sys2Proof.Machine.execBootImageArrival hosts signatureOk s
  | .bootRetry => Sys2Proof.Machine.execBootRetry s
  | .bayIdleEntry bay => Sys2Proof.Machine.execBayIdleEntry bay s
  | .thermalThrottle die celsius => Sys2Proof.Machine.execThermalThrottle die celsius s
  | .thermalShutdown die celsius => Sys2Proof.Machine.execThermalShutdown die celsius s
  | .breakResume agent => Sys2Proof.Machine.execBreakResume agent s
  | .connectionRequest host => Sys2Proof.Machine.execConnectionRequest host s
  | .badmsg conn seq op => Sys2Proof.Machine.execBadmsg conn seq op s
  | .rmaReadResponse conn data => Sys2Proof.Machine.execRmaReadResponse conn data s
  | .bayPowerGating bay off => Sys2Proof.Machine.execBayPowerGating bay off s
  | .selfRefresh stack on => Sys2Proof.Machine.execSelfRefresh stack on s

end Sys2Proof.Machine
end

