-- ==== Sys2Proof/Machine/Step.lean ====
section
/-! DEFINITION. Step: one step of the machine, and how a word is placed as its next instruction. -/

namespace Sys2Proof.Machine

/-- One step: a cycle passes, and the instruction or step whose turn it is runs. A module without power takes no step (26
R405). Log entry 18 (DESIGN CHOICE). -/
def step (s : State) : Host.Outcome State Fault Refusal :=
  if s.fabricOff then .fault .fabricOff
  else
    match s.tick.choose with
    | .run i t => exec i t
    | .did o => o
    | .moved t => .next t

/-- The state with an instruction placed where the next step fetches it: slot 0 of a block in execution. Log entry 78 (DESIGN
CHOICE). -/
def State.withFetchWord (s : State) (nbits w : Nat) : State :=
  s.placeWord (BitVec.ofNat 32 (if nbits = 32 then w else 0))

end Sys2Proof.Machine
end

