-- ==== Sys2Proof/Laws/Encoding.lean ====
section
/-! SUPPORT. What the fields of an encoded word read as (09 Tables 9-2 to 9-8), and that each enumerated field reads back.
The names give the format and the field; `x` followed by widths is the low field cut into parts of those widths. -/

namespace Sys2Proof.Laws

/-! ## Fields of joined bits -/

/-- Bits of the low part. -/
theorem extract_append_low {m k lo n : Nat} (a : BitVec m) (b : BitVec k) (h : lo + n ≤ k) :
    (a ++ b).extractLsb' lo n = b.extractLsb' lo n := by
  apply BitVec.eq_of_getLsbD_eq
  intro i hi
  have : lo + i < k := by omega
  simp [BitVec.getLsbD_append, hi, this]

/-- Bits of the high part. -/
theorem extract_append_high {m k lo n : Nat} (a : BitVec m) (b : BitVec k) (h : k ≤ lo) :
    (a ++ b).extractLsb' lo n = a.extractLsb' (lo - k) n := by
  apply BitVec.eq_of_getLsbD_eq
  intro i hi
  have : ¬ lo + i < k := by omega
  have e : lo + i - k = lo - k + i := by omega
  simp [BitVec.getLsbD_append, hi, this, e]

/-- All the bits. -/
theorem extract_all {k : Nat} (a : BitVec k) : a.extractLsb' 0 k = a := by
  apply BitVec.eq_of_getLsbD_eq
  intro i hi
  simp [hi]

/-- A field of one bit reads back. -/
@[simp] theorem bit_eq (b : Bool) : (bit b == 1#1) = b := by cases b <;> rfl

/-! ## Enumerated fields read back -/

@[simp] theorem ofCode_Pm (v : Pm) : Pm.ofCode v.code = .ok v := by cases v <;> rfl
@[simp] theorem ofCode_Sz (v : Sz) : Sz.ofCode v.code = .ok v := by cases v <;> rfl
@[simp] theorem ofCode_JoinMode (v : JoinMode) : JoinMode.ofCode v.code = .ok v := by cases v <;> rfl
@[simp] theorem ofCode_FenceScope (v : FenceScope) : FenceScope.ofCode v.code = .ok v := by cases v <;> rfl
@[simp] theorem ofCode_AbsNeg (v : AbsNeg) : AbsNeg.ofCode v.code = .ok v := by cases v <;> rfl
@[simp] theorem ofCode_BitCount (v : BitCount) : BitCount.ofCode v.code = .ok v := by cases v <;> rfl
@[simp] theorem ofCode_ExtWidth (v : ExtWidth) : ExtWidth.ofCode v.code = .ok v := by cases v <;> rfl
@[simp] theorem ofCode_Cond (v : Cond) : Cond.ofCode v.code = .ok v := by cases v <;> rfl
@[simp] theorem ofCode_CondI (v : CondI) : CondI.ofCode v.code = .ok v := by cases v <;> rfl
@[simp] theorem ofCode_AtomSub (v : AtomSub) : AtomSub.ofCode v.code = .ok v := by cases v <;> rfl
@[simp] theorem ofCode_Round (v : Round) : Round.ofCode v.code = .ok v := by cases v <;> rfl
@[simp] theorem ofCode_FType (v : FType) : FType.ofCode v.code = .ok v := by cases v <;> rfl
@[simp] theorem ofCode_VType (v : VType) : VType.ofCode v.code = .ok v := by cases v <;> rfl
@[simp] theorem ofCode_MinMaxSub (v : MinMaxSub) : MinMaxSub.ofCode v.code = .ok v := by cases v <;> rfl
@[simp] theorem ofCode_FCmpSub (v : FCmpSub) : FCmpSub.ofCode v.code = .ok v := by cases v <;> rfl
@[simp] theorem ofCode_FSignSub (v : FSignSub) : FSignSub.ofCode v.code = .ok v := by cases v <;> rfl
@[simp] theorem ofCode_IntWidth (v : IntWidth) : IntWidth.ofCode v.code = .ok v := by cases v <;> rfl
@[simp] theorem ofCode_GxWidth (v : GxWidth) : GxWidth.ofCode v.code = .ok v := by cases v <;> rfl
@[simp] theorem ofCode_MatType (v : MatType) : MatType.ofCode v.code = .ok v := by cases v <;> rfl
@[simp] theorem ofCode_TileBuf (v : TileBuf) : TileBuf.ofCode v.code = .ok v := by cases v <;> rfl
@[simp] theorem ofCode_MmaMode (v : MmaMode) : MmaMode.ofCode v.code = .ok v := by cases v <;> rfl
@[simp] theorem ofCode_PactSub (v : PactSub) : PactSub.ofCode v.code = .ok v := by cases v <;> rfl
@[simp] theorem ofCode_PsumSub (v : PsumSub) : PsumSub.ofCode v.code = .ok v := by cases v <;> rfl
@[simp] theorem ofCode_PcopySub (v : PcopySub) : PcopySub.ofCode v.code = .ok v := by cases v <;> rfl
@[simp] theorem ofCode_Queue (v : Queue) : Queue.ofCode v.code = .ok v := by cases v <;> rfl
@[simp] theorem ofCode_SiteSel (v : SiteSel) : SiteSel.ofCode v.code = .ok v := by
  cases v with
  | inp k =>
    have h : k = 0 ∨ k = 1 ∨ k = 2 ∨ k = 3 ∨ k = 4 ∨ k = 5 ∨ k = 6 ∨ k = 7 := by decide +revert
    rcases h with h | h | h | h | h | h | h | h <;> subst h <;> rfl
  | _ => rfl

/-- A target reads back. -/
@[simp] theorem ofCode_Tgt (t : Tgt) : Tgt.ofCode t.code = .ok t := by
  cases t with
  | none => rfl
  | opL s =>
    show (match (1#3 ++ s).extractLsb' 6 3 with
      | 0#3 => _ | 1#3 => _ | 2#3 => _ | 3#3 => _ | 4#3 => _ | 5#3 => _ | 6#3 => _ | _ => _) = _
    rw [extract_append_high _ _ (by decide)]
    show (Except.ok (Tgt.opL ((1#3 ++ s).extractLsb' 0 6)) : Except DecodeError Tgt) = _
    rw [extract_append_low _ _ (by decide), extract_all]
  | opR s =>
    show (match (2#3 ++ s).extractLsb' 6 3 with
      | 0#3 => _ | 1#3 => _ | 2#3 => _ | 3#3 => _ | 4#3 => _ | 5#3 => _ | 6#3 => _ | _ => _) = _
    rw [extract_append_high _ _ (by decide)]
    show (Except.ok (Tgt.opR ((2#3 ++ s).extractLsb' 0 6)) : Except DecodeError Tgt) = _
    rw [extract_append_low _ _ (by decide), extract_all]
  | pred s =>
    show (match (3#3 ++ s).extractLsb' 6 3 with
      | 0#3 => _ | 1#3 => _ | 2#3 => _ | 3#3 => _ | 4#3 => _ | 5#3 => _ | 6#3 => _ | _ => _) = _
    rw [extract_append_high _ _ (by decide)]
    show (Except.ok (Tgt.pred ((3#3 ++ s).extractLsb' 0 6)) : Except DecodeError Tgt) = _
    rw [extract_append_low _ _ (by decide), extract_all]
  | reg s =>
    show (match (4#3 ++ s).extractLsb' 6 3 with
      | 0#3 => _ | 1#3 => _ | 2#3 => _ | 3#3 => _ | 4#3 => _ | 5#3 => _ | 6#3 => _ | _ => _) = _
    rw [extract_append_high _ _ (by decide)]
    show (Except.ok (Tgt.reg ((4#3 ++ s).extractLsb' 0 6)) : Except DecodeError Tgt) = _
    rw [extract_append_low _ _ (by decide), extract_all]
  | port s =>
    show (match (5#3 ++ s).extractLsb' 6 3 with
      | 0#3 => _ | 1#3 => _ | 2#3 => _ | 3#3 => _ | 4#3 => _ | 5#3 => _ | 6#3 => _ | _ => _) = _
    rw [extract_append_high _ _ (by decide)]
    show (Except.ok (Tgt.port ((5#3 ++ s).extractLsb' 0 6)) : Except DecodeError Tgt) = _
    rw [extract_append_low _ _ (by decide), extract_all]
  | opX s =>
    show (match (6#3 ++ s).extractLsb' 6 3 with
      | 0#3 => _ | 1#3 => _ | 2#3 => _ | 3#3 => _ | 4#3 => _ | 5#3 => _ | 6#3 => _ | _ => _) = _
    rw [extract_append_high _ _ (by decide)]
    show (Except.ok (Tgt.opX ((6#3 ++ s).extractLsb' 0 6)) : Except DecodeError Tgt) = _
    rw [extract_append_low _ _ (by decide), extract_all]

/-! ## The formats -/

section
variable (op : BitVec 7) (p : Pm) (t : BitVec 9) (u : BitVec 9) (x : BitVec 5)
@[simp] theorem fmtA_op : fld (fmtA op p t u x) 25 7 = op := by
  unfold fld fmtA
  rw [extract_append_high _ _ (by decide), extract_append_high _ _ (by decide), extract_append_high _ _ (by decide),
    extract_append_high _ _ (by decide)]
  exact extract_all _
@[simp] theorem fmtA_pm : fld (fmtA op p t u x) 23 2 = p.code := by
  unfold fld fmtA
  rw [extract_append_high _ _ (by decide), extract_append_high _ _ (by decide), extract_append_high _ _ (by decide),
    extract_append_low _ _ (by decide)]
  exact extract_all _
@[simp] theorem fmtA_t : fld (fmtA op p t u x) 14 9 = t := by
  unfold fld fmtA
  rw [extract_append_high _ _ (by decide), extract_append_high _ _ (by decide), extract_append_low _ _ (by decide)]
  exact extract_all _
@[simp] theorem fmtA_u : fld (fmtA op p t u x) 5 9 = u := by
  unfold fld fmtA
  rw [extract_append_high _ _ (by decide), extract_append_low _ _ (by decide)]
  exact extract_all _
@[simp] theorem fmtA_x : fld (fmtA op p t u x) 0 5 = x := by
  unfold fld fmtA
  rw [extract_append_low _ _ (by decide)]
  exact extract_all _
end

section
variable (op : BitVec 7) (p : Pm) (t : BitVec 9) (x : BitVec 14)
@[simp] theorem fmtI_op : fld (fmtI op p t x) 25 7 = op := by
  unfold fld fmtI
  rw [extract_append_high _ _ (by decide), extract_append_high _ _ (by decide), extract_append_high _ _ (by decide)]
  exact extract_all _
@[simp] theorem fmtI_pm : fld (fmtI op p t x) 23 2 = p.code := by
  unfold fld fmtI
  rw [extract_append_high _ _ (by decide), extract_append_high _ _ (by decide), extract_append_low _ _ (by decide)]
  exact extract_all _
@[simp] theorem fmtI_t : fld (fmtI op p t x) 14 9 = t := by
  unfold fld fmtI
  rw [extract_append_high _ _ (by decide), extract_append_low _ _ (by decide)]
  exact extract_all _
@[simp] theorem fmtI_x : fld (fmtI op p t x) 0 14 = x := by
  unfold fld fmtI
  rw [extract_append_low _ _ (by decide)]
  exact extract_all _
end

section
variable (op : BitVec 7) (p : Pm) (t : BitVec 9) (l : BitVec 4) (z : BitVec 3) (x : BitVec 7)
@[simp] theorem fmtM_op : fld (fmtM op p t l z x) 25 7 = op := by
  unfold fld fmtM
  rw [extract_append_high _ _ (by decide), extract_append_high _ _ (by decide), extract_append_high _ _ (by decide),
    extract_append_high _ _ (by decide), extract_append_high _ _ (by decide)]
  exact extract_all _
@[simp] theorem fmtM_pm : fld (fmtM op p t l z x) 23 2 = p.code := by
  unfold fld fmtM
  rw [extract_append_high _ _ (by decide), extract_append_high _ _ (by decide), extract_append_high _ _ (by decide),
    extract_append_high _ _ (by decide), extract_append_low _ _ (by decide)]
  exact extract_all _
@[simp] theorem fmtM_t : fld (fmtM op p t l z x) 14 9 = t := by
  unfold fld fmtM
  rw [extract_append_high _ _ (by decide), extract_append_high _ _ (by decide), extract_append_high _ _ (by decide),
    extract_append_low _ _ (by decide)]
  exact extract_all _
@[simp] theorem fmtM_lsid : fld (fmtM op p t l z x) 10 4 = l := by
  unfold fld fmtM
  rw [extract_append_high _ _ (by decide), extract_append_high _ _ (by decide), extract_append_low _ _ (by decide)]
  exact extract_all _
@[simp] theorem fmtM_sz : fld (fmtM op p t l z x) 7 3 = z := by
  unfold fld fmtM
  rw [extract_append_high _ _ (by decide), extract_append_low _ _ (by decide)]
  exact extract_all _
@[simp] theorem fmtM_x : fld (fmtM op p t l z x) 0 7 = x := by
  unfold fld fmtM
  rw [extract_append_low _ _ (by decide)]
  exact extract_all _
end

section
variable (op : BitVec 7) (r : BitVec 6) (fe : BitVec 1) (t : BitVec 9) (u : BitVec 9)
@[simp] theorem fmtR_op : fld (fmtR op r fe t u) 25 7 = op := by
  unfold fld fmtR
  rw [extract_append_high _ _ (by decide), extract_append_high _ _ (by decide), extract_append_high _ _ (by decide),
    extract_append_high _ _ (by decide)]
  exact extract_all _
@[simp] theorem fmtR_reg : fld (fmtR op r fe t u) 19 6 = r := by
  unfold fld fmtR
  rw [extract_append_high _ _ (by decide), extract_append_high _ _ (by decide), extract_append_high _ _ (by decide),
    extract_append_low _ _ (by decide)]
  exact extract_all _
@[simp] theorem fmtR_fe : fld (fmtR op r fe t u) 18 1 = fe := by
  unfold fld fmtR
  rw [extract_append_high _ _ (by decide), extract_append_high _ _ (by decide), extract_append_low _ _ (by decide)]
  exact extract_all _
@[simp] theorem fmtR_t : fld (fmtR op r fe t u) 9 9 = t := by
  unfold fld fmtR
  rw [extract_append_high _ _ (by decide), extract_append_low _ _ (by decide)]
  exact extract_all _
@[simp] theorem fmtR_u : fld (fmtR op r fe t u) 0 9 = u := by
  unfold fld fmtR
  rw [extract_append_low _ _ (by decide)]
  exact extract_all _
end

section
variable (op : BitVec 7) (p : Pm) (e : BitVec 3) (o : BitVec 20)
@[simp] theorem fmtB_op : fld (fmtB op p e o) 25 7 = op := by
  unfold fld fmtB
  rw [extract_append_high _ _ (by decide), extract_append_high _ _ (by decide), extract_append_high _ _ (by decide)]
  exact extract_all _
@[simp] theorem fmtB_pm : fld (fmtB op p e o) 23 2 = p.code := by
  unfold fld fmtB
  rw [extract_append_high _ _ (by decide), extract_append_high _ _ (by decide), extract_append_low _ _ (by decide)]
  exact extract_all _
@[simp] theorem fmtB_exit : fld (fmtB op p e o) 20 3 = e := by
  unfold fld fmtB
  rw [extract_append_high _ _ (by decide), extract_append_low _ _ (by decide)]
  exact extract_all _
@[simp] theorem fmtB_off : fld (fmtB op p e o) 0 20 = o := by
  unfold fld fmtB
  rw [extract_append_low _ _ (by decide)]
  exact extract_all _
end

section
variable (op : BitVec 7) (pa : BitVec 6) (pb : BitVec 6) (m : BitVec 3) (t : BitVec 9)
@[simp] theorem fmtJ_op : fld (fmtJ op pa pb m t) 25 7 = op := by
  unfold fld fmtJ
  rw [extract_append_high _ _ (by decide), extract_append_high _ _ (by decide), extract_append_high _ _ (by decide),
    extract_append_high _ _ (by decide), extract_append_high _ _ (by decide)]
  exact extract_all _
@[simp] theorem fmtJ_pa : fld (fmtJ op pa pb m t) 19 6 = pa := by
  unfold fld fmtJ
  rw [extract_append_high _ _ (by decide), extract_append_high _ _ (by decide), extract_append_high _ _ (by decide),
    extract_append_high _ _ (by decide), extract_append_low _ _ (by decide)]
  exact extract_all _
@[simp] theorem fmtJ_pb : fld (fmtJ op pa pb m t) 13 6 = pb := by
  unfold fld fmtJ
  rw [extract_append_high _ _ (by decide), extract_append_high _ _ (by decide), extract_append_high _ _ (by decide),
    extract_append_low _ _ (by decide)]
  exact extract_all _
@[simp] theorem fmtJ_mode : fld (fmtJ op pa pb m t) 10 3 = m := by
  unfold fld fmtJ
  rw [extract_append_high _ _ (by decide), extract_append_high _ _ (by decide), extract_append_low _ _ (by decide)]
  exact extract_all _
@[simp] theorem fmtJ_t : fld (fmtJ op pa pb m t) 1 9 = t := by
  unfold fld fmtJ
  rw [extract_append_high _ _ (by decide), extract_append_low _ _ (by decide)]
  exact extract_all _
@[simp] theorem fmtJ_low : fld (fmtJ op pa pb m t) 0 1 = 0#1 := by
  unfold fld fmtJ
  rw [extract_append_low _ _ (by decide)]
  exact extract_all _
end

section
variable (op : BitVec 7) (p : Pm) (t : BitVec 9) (u : BitVec 9) (a : BitVec 2) (b : BitVec 3)
@[simp] theorem fmtA_x_2_3_a : fld (fmtA op p t u (a ++ b)) 3 2 = a := by
  unfold fld fmtA
  rw [extract_append_low _ _ (by decide), extract_append_high _ _ (by decide)]
  exact extract_all _
@[simp] theorem fmtA_x_2_3_b : fld (fmtA op p t u (a ++ b)) 0 3 = b := by
  unfold fld fmtA
  rw [extract_append_low _ _ (by decide), extract_append_low _ _ (by decide)]
  exact extract_all _
end

section
variable (op : BitVec 7) (p : Pm) (t : BitVec 9) (u : BitVec 9) (a : BitVec 4) (b : BitVec 1)
@[simp] theorem fmtA_x_4_1_a : fld (fmtA op p t u (a ++ b)) 1 4 = a := by
  unfold fld fmtA
  rw [extract_append_low _ _ (by decide), extract_append_high _ _ (by decide)]
  exact extract_all _
@[simp] theorem fmtA_x_4_1_b : fld (fmtA op p t u (a ++ b)) 0 1 = b := by
  unfold fld fmtA
  rw [extract_append_low _ _ (by decide), extract_append_low _ _ (by decide)]
  exact extract_all _
end

section
variable (op : BitVec 7) (p : Pm) (t : BitVec 9) (u : BitVec 9) (a : BitVec 3) (b : BitVec 1) (c : BitVec 1)
@[simp] theorem fmtA_x_3_1_1_a : fld (fmtA op p t u (a ++ b ++ c)) 2 3 = a := by
  unfold fld fmtA
  rw [extract_append_low _ _ (by decide), extract_append_high _ _ (by decide), extract_append_high _ _ (by decide)]
  exact extract_all _
@[simp] theorem fmtA_x_3_1_1_b : fld (fmtA op p t u (a ++ b ++ c)) 1 1 = b := by
  unfold fld fmtA
  rw [extract_append_low _ _ (by decide), extract_append_high _ _ (by decide), extract_append_low _ _ (by decide)]
  exact extract_all _
@[simp] theorem fmtA_x_3_1_1_c : fld (fmtA op p t u (a ++ b ++ c)) 0 1 = c := by
  unfold fld fmtA
  rw [extract_append_low _ _ (by decide), extract_append_low _ _ (by decide)]
  exact extract_all _
end

section
variable (op : BitVec 7) (p : Pm) (t : BitVec 9) (u : BitVec 9) (a : BitVec 2) (b : BitVec 2) (c : BitVec 1)
@[simp] theorem fmtA_x_2_2_1_a : fld (fmtA op p t u (a ++ b ++ c)) 3 2 = a := by
  unfold fld fmtA
  rw [extract_append_low _ _ (by decide), extract_append_high _ _ (by decide), extract_append_high _ _ (by decide)]
  exact extract_all _
@[simp] theorem fmtA_x_2_2_1_b : fld (fmtA op p t u (a ++ b ++ c)) 1 2 = b := by
  unfold fld fmtA
  rw [extract_append_low _ _ (by decide), extract_append_high _ _ (by decide), extract_append_low _ _ (by decide)]
  exact extract_all _
@[simp] theorem fmtA_x_2_2_1_c : fld (fmtA op p t u (a ++ b ++ c)) 0 1 = c := by
  unfold fld fmtA
  rw [extract_append_low _ _ (by decide), extract_append_low _ _ (by decide)]
  exact extract_all _
end

section
variable (op : BitVec 7) (p : Pm) (t : BitVec 9) (u : BitVec 9) (a : BitVec 1) (b : BitVec 4)
@[simp] theorem fmtA_x_1_4_a : fld (fmtA op p t u (a ++ b)) 4 1 = a := by
  unfold fld fmtA
  rw [extract_append_low _ _ (by decide), extract_append_high _ _ (by decide)]
  exact extract_all _
@[simp] theorem fmtA_x_1_4_b : fld (fmtA op p t u (a ++ b)) 0 4 = b := by
  unfold fld fmtA
  rw [extract_append_low _ _ (by decide), extract_append_low _ _ (by decide)]
  exact extract_all _
end

section
variable (op : BitVec 7) (p : Pm) (t : BitVec 9) (u : BitVec 9) (a : BitVec 3) (b : BitVec 2)
@[simp] theorem fmtA_x_3_2_a : fld (fmtA op p t u (a ++ b)) 2 3 = a := by
  unfold fld fmtA
  rw [extract_append_low _ _ (by decide), extract_append_high _ _ (by decide)]
  exact extract_all _
@[simp] theorem fmtA_x_3_2_b : fld (fmtA op p t u (a ++ b)) 0 2 = b := by
  unfold fld fmtA
  rw [extract_append_low _ _ (by decide), extract_append_low _ _ (by decide)]
  exact extract_all _
end

section
variable (op : BitVec 7) (p : Pm) (t : BitVec 9) (u : BitVec 9) (a : BitVec 1) (b : BitVec 2) (c : BitVec 2)
@[simp] theorem fmtA_x_1_2_2_a : fld (fmtA op p t u (a ++ b ++ c)) 4 1 = a := by
  unfold fld fmtA
  rw [extract_append_low _ _ (by decide), extract_append_high _ _ (by decide), extract_append_high _ _ (by decide)]
  exact extract_all _
@[simp] theorem fmtA_x_1_2_2_b : fld (fmtA op p t u (a ++ b ++ c)) 2 2 = b := by
  unfold fld fmtA
  rw [extract_append_low _ _ (by decide), extract_append_high _ _ (by decide), extract_append_low _ _ (by decide)]
  exact extract_all _
@[simp] theorem fmtA_x_1_2_2_c : fld (fmtA op p t u (a ++ b ++ c)) 0 2 = c := by
  unfold fld fmtA
  rw [extract_append_low _ _ (by decide), extract_append_low _ _ (by decide)]
  exact extract_all _
end

section
variable (op : BitVec 7) (p : Pm) (t : BitVec 9) (u : BitVec 9) (a : BitVec 1) (b : BitVec 2) (c : BitVec 1) (d : BitVec 1)
@[simp] theorem fmtA_x_1_2_1_1_a : fld (fmtA op p t u (a ++ b ++ c ++ d)) 4 1 = a := by
  unfold fld fmtA
  rw [extract_append_low _ _ (by decide), extract_append_high _ _ (by decide), extract_append_high _ _ (by decide),
    extract_append_high _ _ (by decide)]
  exact extract_all _
@[simp] theorem fmtA_x_1_2_1_1_b : fld (fmtA op p t u (a ++ b ++ c ++ d)) 2 2 = b := by
  unfold fld fmtA
  rw [extract_append_low _ _ (by decide), extract_append_high _ _ (by decide), extract_append_high _ _ (by decide),
    extract_append_low _ _ (by decide)]
  exact extract_all _
@[simp] theorem fmtA_x_1_2_1_1_c : fld (fmtA op p t u (a ++ b ++ c ++ d)) 1 1 = c := by
  unfold fld fmtA
  rw [extract_append_low _ _ (by decide), extract_append_high _ _ (by decide), extract_append_low _ _ (by decide)]
  exact extract_all _
@[simp] theorem fmtA_x_1_2_1_1_d : fld (fmtA op p t u (a ++ b ++ c ++ d)) 0 1 = d := by
  unfold fld fmtA
  rw [extract_append_low _ _ (by decide), extract_append_low _ _ (by decide)]
  exact extract_all _
end

section
variable (op : BitVec 7) (p : Pm) (t : BitVec 9) (a : BitVec 8) (b : BitVec 6)
@[simp] theorem fmtI_x_8_6_a : fld (fmtI op p t (a ++ b)) 6 8 = a := by
  unfold fld fmtI
  rw [extract_append_low _ _ (by decide), extract_append_high _ _ (by decide)]
  exact extract_all _
@[simp] theorem fmtI_x_8_6_b : fld (fmtI op p t (a ++ b)) 0 6 = b := by
  unfold fld fmtI
  rw [extract_append_low _ _ (by decide), extract_append_low _ _ (by decide)]
  exact extract_all _
end

section
variable (op : BitVec 7) (p : Pm) (t : BitVec 9) (a : BitVec 3) (b : BitVec 11)
@[simp] theorem fmtI_x_3_11_a : fld (fmtI op p t (a ++ b)) 11 3 = a := by
  unfold fld fmtI
  rw [extract_append_low _ _ (by decide), extract_append_high _ _ (by decide)]
  exact extract_all _
@[simp] theorem fmtI_x_3_11_b : fld (fmtI op p t (a ++ b)) 0 11 = b := by
  unfold fld fmtI
  rw [extract_append_low _ _ (by decide), extract_append_low _ _ (by decide)]
  exact extract_all _
end

section
variable (op : BitVec 7) (p : Pm) (t : BitVec 9) (a : BitVec 3) (b : BitVec 1) (c : BitVec 2) (d : BitVec 3) (e : BitVec 3) (f : BitVec 2)
@[simp] theorem fmtI_x_3_1_2_3_3_2_a : fld (fmtI op p t (a ++ b ++ c ++ d ++ e ++ f)) 11 3 = a := by
  unfold fld fmtI
  rw [extract_append_low _ _ (by decide), extract_append_high _ _ (by decide), extract_append_high _ _ (by decide),
    extract_append_high _ _ (by decide), extract_append_high _ _ (by decide), extract_append_high _ _ (by decide)]
  exact extract_all _
@[simp] theorem fmtI_x_3_1_2_3_3_2_b : fld (fmtI op p t (a ++ b ++ c ++ d ++ e ++ f)) 10 1 = b := by
  unfold fld fmtI
  rw [extract_append_low _ _ (by decide), extract_append_high _ _ (by decide), extract_append_high _ _ (by decide),
    extract_append_high _ _ (by decide), extract_append_high _ _ (by decide), extract_append_low _ _ (by decide)]
  exact extract_all _
@[simp] theorem fmtI_x_3_1_2_3_3_2_c : fld (fmtI op p t (a ++ b ++ c ++ d ++ e ++ f)) 8 2 = c := by
  unfold fld fmtI
  rw [extract_append_low _ _ (by decide), extract_append_high _ _ (by decide), extract_append_high _ _ (by decide),
    extract_append_high _ _ (by decide), extract_append_low _ _ (by decide)]
  exact extract_all _
@[simp] theorem fmtI_x_3_1_2_3_3_2_d : fld (fmtI op p t (a ++ b ++ c ++ d ++ e ++ f)) 5 3 = d := by
  unfold fld fmtI
  rw [extract_append_low _ _ (by decide), extract_append_high _ _ (by decide), extract_append_high _ _ (by decide),
    extract_append_low _ _ (by decide)]
  exact extract_all _
@[simp] theorem fmtI_x_3_1_2_3_3_2_e : fld (fmtI op p t (a ++ b ++ c ++ d ++ e ++ f)) 2 3 = e := by
  unfold fld fmtI
  rw [extract_append_low _ _ (by decide), extract_append_high _ _ (by decide), extract_append_low _ _ (by decide)]
  exact extract_all _
@[simp] theorem fmtI_x_3_1_2_3_3_2_f : fld (fmtI op p t (a ++ b ++ c ++ d ++ e ++ f)) 0 2 = f := by
  unfold fld fmtI
  rw [extract_append_low _ _ (by decide), extract_append_low _ _ (by decide)]
  exact extract_all _
end

section
variable (op : BitVec 7) (p : Pm) (t : BitVec 9) (a : BitVec 2) (b : BitVec 1) (c : BitVec 6) (d : BitVec 3) (e : BitVec 2)
@[simp] theorem fmtI_x_2_1_6_3_2_a : fld (fmtI op p t (a ++ b ++ c ++ d ++ e)) 12 2 = a := by
  unfold fld fmtI
  rw [extract_append_low _ _ (by decide), extract_append_high _ _ (by decide), extract_append_high _ _ (by decide),
    extract_append_high _ _ (by decide), extract_append_high _ _ (by decide)]
  exact extract_all _
@[simp] theorem fmtI_x_2_1_6_3_2_b : fld (fmtI op p t (a ++ b ++ c ++ d ++ e)) 11 1 = b := by
  unfold fld fmtI
  rw [extract_append_low _ _ (by decide), extract_append_high _ _ (by decide), extract_append_high _ _ (by decide),
    extract_append_high _ _ (by decide), extract_append_low _ _ (by decide)]
  exact extract_all _
@[simp] theorem fmtI_x_2_1_6_3_2_c : fld (fmtI op p t (a ++ b ++ c ++ d ++ e)) 5 6 = c := by
  unfold fld fmtI
  rw [extract_append_low _ _ (by decide), extract_append_high _ _ (by decide), extract_append_high _ _ (by decide),
    extract_append_low _ _ (by decide)]
  exact extract_all _
@[simp] theorem fmtI_x_2_1_6_3_2_d : fld (fmtI op p t (a ++ b ++ c ++ d ++ e)) 2 3 = d := by
  unfold fld fmtI
  rw [extract_append_low _ _ (by decide), extract_append_high _ _ (by decide), extract_append_low _ _ (by decide)]
  exact extract_all _
@[simp] theorem fmtI_x_2_1_6_3_2_e : fld (fmtI op p t (a ++ b ++ c ++ d ++ e)) 0 2 = e := by
  unfold fld fmtI
  rw [extract_append_low _ _ (by decide), extract_append_low _ _ (by decide)]
  exact extract_all _
end

section
variable (op : BitVec 7) (p : Pm) (t : BitVec 9) (a : BitVec 1) (b : BitVec 13)
@[simp] theorem fmtI_x_1_13_a : fld (fmtI op p t (a ++ b)) 13 1 = a := by
  unfold fld fmtI
  rw [extract_append_low _ _ (by decide), extract_append_high _ _ (by decide)]
  exact extract_all _
@[simp] theorem fmtI_x_1_13_b : fld (fmtI op p t (a ++ b)) 0 13 = b := by
  unfold fld fmtI
  rw [extract_append_low _ _ (by decide), extract_append_low _ _ (by decide)]
  exact extract_all _
end

section
variable (op : BitVec 7) (p : Pm) (t : BitVec 9) (l : BitVec 4) (z : BitVec 3) (a : BitVec 1) (b : BitVec 6)
@[simp] theorem fmtM_x_1_6_a : fld (fmtM op p t l z (a ++ b)) 6 1 = a := by
  unfold fld fmtM
  rw [extract_append_low _ _ (by decide), extract_append_high _ _ (by decide)]
  exact extract_all _
@[simp] theorem fmtM_x_1_6_b : fld (fmtM op p t l z (a ++ b)) 0 6 = b := by
  unfold fld fmtM
  rw [extract_append_low _ _ (by decide), extract_append_low _ _ (by decide)]
  exact extract_all _
end

section
variable (op : BitVec 7) (p : Pm) (t : BitVec 9) (l : BitVec 4) (z : BitVec 3) (a : BitVec 4) (b : BitVec 3)
@[simp] theorem fmtM_x_4_3_a : fld (fmtM op p t l z (a ++ b)) 3 4 = a := by
  unfold fld fmtM
  rw [extract_append_low _ _ (by decide), extract_append_high _ _ (by decide)]
  exact extract_all _
@[simp] theorem fmtM_x_4_3_b : fld (fmtM op p t l z (a ++ b)) 0 3 = b := by
  unfold fld fmtM
  rw [extract_append_low _ _ (by decide), extract_append_low _ _ (by decide)]
  exact extract_all _
end

/-- The targets of format A that are not taken. -/
@[simp] theorem fmtA_noTgt (op : BitVec 7) (p : Pm) (x : BitVec 5) : fld (fmtA op p 0#9 0#9 x) 5 18 = 0 := by
  unfold fld fmtA
  rw [extract_append_high _ _ (by decide)]
  apply BitVec.eq_of_getLsbD_eq
  intro i hi
  simp only [BitVec.getLsbD_append, BitVec.getLsbD_extractLsb']
  by_cases h : i < 9
  · simp [h]
  · have : i - 9 < 9 := by omega
    simp [h, this]

/-! ## The decoders of the formats -/

/-- Format A with both targets. -/
@[simp] theorem decA_fmtA (op : BitVec 7) (p : Pm) (t u : Tgt) (x : BitVec 5) (mk : Pm → Tgt → Tgt → Instr) :
    decA (fmtA op p t.code u.code x) mk = .ok (mk p t u) := by
  unfold decA pmOf t0Of t1Of
  rw [fmtA_pm, fmtA_t, fmtA_u, ofCode_Pm, ofCode_Tgt, ofCode_Tgt]
  rfl

/-- Format A with no target. -/
@[simp] theorem decA0_fmtA (op : BitVec 7) (p : Pm) (x : BitVec 5) (mk : Pm → Instr) :
    decA0 (fmtA op p 0#9 0#9 x) mk = .ok (mk p) := by
  unfold decA0 pmOf noTgt
  rw [fmtA_pm, fmtA_noTgt, ofCode_Pm]
  rfl

/-- Format A with one target. -/
@[simp] theorem decI_fmtA (op : BitVec 7) (p : Pm) (t : Tgt) (u : BitVec 9) (x : BitVec 5) (mk : Pm → Tgt → Instr) :
    decI (fmtA op p t.code u x) mk = .ok (mk p t) := by
  unfold decI pmOf t0Of
  rw [fmtA_pm, fmtA_t, ofCode_Pm, ofCode_Tgt]
  rfl

/-- Format I. -/
@[simp] theorem decI_fmtI (op : BitVec 7) (p : Pm) (t : Tgt) (x : BitVec 14) (mk : Pm → Tgt → Instr) :
    decI (fmtI op p t.code x) mk = .ok (mk p t) := by
  unfold decI pmOf t0Of
  rw [fmtI_pm, fmtI_t, ofCode_Pm, ofCode_Tgt]
  rfl

/-- Format M with a target. -/
@[simp] theorem decM_fmtM (op : BitVec 7) (p : Pm) (t : Tgt) (l : BitVec 4) (z : BitVec 3) (x : BitVec 7)
    (mk : Pm → Tgt → BitVec 4 → Instr) : decM (fmtM op p t.code l z x) mk = .ok (mk p t l) := by
  unfold decM pmOf t0Of
  rw [fmtM_pm, fmtM_t, fmtM_lsid, ofCode_Pm, ofCode_Tgt]
  rfl

/-- Format M with no target. -/
@[simp] theorem decM0_fmtM (op : BitVec 7) (p : Pm) (l : BitVec 4) (z : BitVec 3) (x : BitVec 7)
    (mk : Pm → BitVec 4 → Instr) : decM0 (fmtM op p 0#9 l z x) mk = .ok (mk p l) := by
  unfold decM0 pmOf noTgt
  rw [fmtM_pm, fmtM_t, fmtM_lsid, ofCode_Pm]
  rfl

/-- Format R. -/
@[simp] theorem decR_fmtR (op : BitVec 7) (r : BitVec 6) (fe : Bool) (t u : Tgt) (mk : BitVec 6 → Bool → Tgt → Tgt → Instr) :
    decR (fmtR op r (bit fe) t.code u.code) mk = .ok (mk r fe t u) := by
  unfold decR bitOf
  rw [fmtR_reg, fmtR_fe, fmtR_t, fmtR_u, ofCode_Tgt, ofCode_Tgt, bit_eq]
  rfl

/-- Format P. -/
@[simp] theorem decP_fmtR (op : BitVec 7) (r : BitVec 6) (t u : Tgt) (mk : BitVec 6 → Tgt → Tgt → Instr) :
    decP (fmtR op r 0#1 t.code u.code) mk = .ok (mk r t u) := by
  unfold decP zeroFld
  rw [fmtR_fe]
  exact decR_fmtR op r false t u fun port _ t u => mk port t u

/-- Format B. -/
@[simp] theorem decB_fmtB (op : BitVec 7) (p : Pm) (e : BitVec 3) (o : BitVec 20) (mk : Pm → BitVec 3 → BitVec 20 → Instr) :
    decB (fmtB op p e o) mk = .ok (mk p e o) := by
  unfold decB pmOf
  rw [fmtB_pm, fmtB_exit, fmtB_off, ofCode_Pm]
  rfl

end Sys2Proof.Laws
end

