-- ==== Sys2Proof/Laws/PerInstr.lean ====
section
/-! SUPPORT. The family RoundTrip: decoding the word of an encoded instruction gives the instruction back (09 R135 to R138,
R155 to R159), one lemma for each constructor. -/

namespace Sys2Proof.Laws

/-- The word of an encoded instruction decodes to it. -/
def RoundTrip.Statement (i : Instr) : Prop := i.encoded = true → i.wellFormed = true → decode (encode i) = .ok i

/-! ## The rows of the decoder, by opcode -/

theorem decode_01 {w : Word} (h : fld w 25 7 = 0x01#7) : decode w = (decR w fun reg fe t u => .read reg fe t u) := by
  unfold decode
  rw [h]
  rfl

theorem decode_02 {w : Word} (h : fld w 25 7 = 0x02#7) : decode w = (do
      zeroX w 0 5
      decA w fun p t u => .mov p t u) := by
  unfold decode
  rw [h]
  rfl

theorem decode_03 {w : Word} (h : fld w 25 7 = 0x03#7) : decode w = (decI w fun p t => .movi p t (fld w 0 14)) := by
  unfold decode
  rw [h]
  rfl

theorem decode_04 {w : Word} (h : fld w 25 7 = 0x04#7) : decode w = (decI w fun p t => .movis p t (fld w 0 14)) := by
  unfold decode
  rw [h]
  rfl

theorem decode_05 {w : Word} (h : fld w 25 7 = 0x05#7) : decode w = (do
      zeroX w 0 5
      decA w fun p t u => .null p t u) := by
  unfold decode
  rw [h]
  rfl

theorem decode_06 {w : Word} (h : fld w 25 7 = 0x06#7) : decode w = (decP w fun port t u => .recv port t u) := by
  unfold decode
  rw [h]
  rfl

theorem decode_07 {w : Word} (h : fld w 25 7 = 0x07#7) : decode w = (decP w fun port t u => .recvk port t u) := by
  unfold decode
  rw [h]
  rfl

theorem decode_08 {w : Word} (h : fld w 25 7 = 0x08#7) : decode w = (decP w fun port t u => .recvo port t u) := by
  unfold decode
  rw [h]
  rfl

theorem decode_09 {w : Word} (h : fld w 25 7 = 0x09#7) : decode w = (do
      zeroFld w 0 1
      let mode ← JoinMode.ofCode (fld w 10 3)
      let t ← Tgt.ofCode (fld w 1 9)
      .ok (.join (fld w 19 6) (fld w 13 6) mode t)) := by
  unfold decode
  rw [h]
  rfl

theorem decode_0A {w : Word} (h : fld w 25 7 = 0x0A#7) : decode w = (decB w fun p exit off => .bro p exit off) := by
  unfold decode
  rw [h]
  rfl

theorem decode_0B {w : Word} (h : fld w 25 7 = 0x0B#7) : decode w = (do
      zeroX w 3 2
      decA0 w fun p => .bri p (fld w 0 3)) := by
  unfold decode
  rw [h]
  rfl

theorem decode_0C {w : Word} (h : fld w 25 7 = 0x0C#7) : decode w = (decB w fun p exit off => .callo p exit off) := by
  unfold decode
  rw [h]
  rfl

theorem decode_0D {w : Word} (h : fld w 25 7 = 0x0D#7) : decode w = (do
      zeroX w 3 2
      decA0 w fun p => .retb p (fld w 0 3)) := by
  unfold decode
  rw [h]
  rfl

theorem decode_0E {w : Word} (h : fld w 25 7 = 0x0E#7) : decode w = (do
      zeroX w 0 5
      decA0 w fun p => .halt p) := by
  unfold decode
  rw [h]
  rfl

theorem decode_0F {w : Word} (h : fld w 25 7 = 0x0F#7) : decode w = (do
      let scope ← FenceScope.ofCode (fld w 0 3)
      decA0 w fun p => .fence p (fld w 3 2) scope) := by
  unfold decode
  rw [h]
  rfl

theorem decode_10 {w : Word} (h : fld w 25 7 = 0x10#7) : decode w = (do
      zeroX w 0 5
      decA w fun p t u => .add p t u) := by
  unfold decode
  rw [h]
  rfl

theorem decode_11 {w : Word} (h : fld w 25 7 = 0x11#7) : decode w = (do
      zeroX w 0 5
      decA w fun p t u => .sub p t u) := by
  unfold decode
  rw [h]
  rfl

theorem decode_12 {w : Word} (h : fld w 25 7 = 0x12#7) : decode w = (do
      zeroX w 0 5
      decA w fun p t u => .mul p t u) := by
  unfold decode
  rw [h]
  rfl

theorem decode_13 {w : Word} (h : fld w 25 7 = 0x13#7) : decode w = (do
      zeroX w 1 4
      decA w fun p t u => .mulh p t u (bitOf w 0)) := by
  unfold decode
  rw [h]
  rfl

theorem decode_14 {w : Word} (h : fld w 25 7 = 0x14#7) : decode w = (do
      zeroX w 1 4
      decA w fun p t u => .div p t u (bitOf w 0)) := by
  unfold decode
  rw [h]
  rfl

theorem decode_15 {w : Word} (h : fld w 25 7 = 0x15#7) : decode w = (do
      zeroX w 1 4
      decA w fun p t u => .rem p t u (bitOf w 0)) := by
  unfold decode
  rw [h]
  rfl

theorem decode_16 {w : Word} (h : fld w 25 7 = 0x16#7) : decode w = (do
      zeroX w 0 5
      decA w fun p t u => .and p t u) := by
  unfold decode
  rw [h]
  rfl

theorem decode_17 {w : Word} (h : fld w 25 7 = 0x17#7) : decode w = (do
      zeroX w 0 5
      decA w fun p t u => .or p t u) := by
  unfold decode
  rw [h]
  rfl

theorem decode_18 {w : Word} (h : fld w 25 7 = 0x18#7) : decode w = (do
      zeroX w 0 5
      decA w fun p t u => .xor p t u) := by
  unfold decode
  rw [h]
  rfl

theorem decode_19 {w : Word} (h : fld w 25 7 = 0x19#7) : decode w = (do
      zeroX w 0 5
      decA w fun p t u => .andn p t u) := by
  unfold decode
  rw [h]
  rfl

theorem decode_1A {w : Word} (h : fld w 25 7 = 0x1A#7) : decode w = (do
      zeroX w 0 5
      decA w fun p t u => .shl p t u) := by
  unfold decode
  rw [h]
  rfl

theorem decode_1B {w : Word} (h : fld w 25 7 = 0x1B#7) : decode w = (do
      zeroX w 0 5
      decA w fun p t u => .shr p t u) := by
  unfold decode
  rw [h]
  rfl

theorem decode_1C {w : Word} (h : fld w 25 7 = 0x1C#7) : decode w = (do
      zeroX w 0 5
      decA w fun p t u => .sra p t u) := by
  unfold decode
  rw [h]
  rfl

theorem decode_1D {w : Word} (h : fld w 25 7 = 0x1D#7) : decode w = (do
      zeroX w 0 5
      decA w fun p t u => .rot p t u) := by
  unfold decode
  rw [h]
  rfl

theorem decode_1E {w : Word} (h : fld w 25 7 = 0x1E#7) : decode w = (do
      zeroX w 1 4
      decA w fun p t u => .min p t u (bitOf w 0)) := by
  unfold decode
  rw [h]
  rfl

theorem decode_1F {w : Word} (h : fld w 25 7 = 0x1F#7) : decode w = (do
      zeroX w 1 4
      decA w fun p t u => .max p t u (bitOf w 0)) := by
  unfold decode
  rw [h]
  rfl

theorem decode_20 {w : Word} (h : fld w 25 7 = 0x20#7) : decode w = (do
      zeroX w 0 1
      zeroX w 2 3
      let sub ← AbsNeg.ofCode (fld w 1 1)
      decA w fun p t u => .absneg p t u sub) := by
  unfold decode
  rw [h]
  rfl

theorem decode_21 {w : Word} (h : fld w 25 7 = 0x21#7) : decode w = (do
      zeroX w 0 1
      zeroX w 3 2
      let sub ← BitCount.ofCode (fld w 1 2)
      decA w fun p t u => .bitc p t u sub) := by
  unfold decode
  rw [h]
  rfl

theorem decode_22 {w : Word} (h : fld w 25 7 = 0x22#7) : decode w = (do
      zeroX w 1 4
      decA w fun p t u => .bfx p t u (bitOf w 0)) := by
  unfold decode
  rw [h]
  rfl

theorem decode_23 {w : Word} (h : fld w 25 7 = 0x23#7) : decode w = (do
      zeroX w 0 5
      decA w fun p t u => .bfi p t u) := by
  unfold decode
  rw [h]
  rfl

theorem decode_24 {w : Word} (h : fld w 25 7 = 0x24#7) : decode w = (do
      let cond ← Cond.ofCode (fld w 1 4)
      decA w fun p t u => .cmp p t u cond (bitOf w 0)) := by
  unfold decode
  rw [h]
  rfl

theorem decode_25 {w : Word} (h : fld w 25 7 = 0x25#7) : decode w = (do
      zeroX w 0 1
      zeroX w 2 3
      decA w fun p t u => .sel p t u (bitOf w 1)) := by
  unfold decode
  rw [h]
  rfl

theorem decode_26 {w : Word} (h : fld w 25 7 = 0x26#7) : decode w = (do
      zeroX w 3 2
      let ew ← ExtWidth.ofCode (fld w 1 2)
      decA w fun p t u => .ext p t u ew (bitOf w 0)) := by
  unfold decode
  rw [h]
  rfl

theorem decode_27 {w : Word} (h : fld w 25 7 = 0x27#7) : decode w = (decI w fun p t => .addi p t (fld w 0 14)) := by
  unfold decode
  rw [h]
  rfl

theorem decode_28 {w : Word} (h : fld w 25 7 = 0x28#7) : decode w = (decI w fun p t => .andi p t (fld w 0 14)) := by
  unfold decode
  rw [h]
  rfl

theorem decode_29 {w : Word} (h : fld w 25 7 = 0x29#7) : decode w = (decI w fun p t => .ori p t (fld w 0 14)) := by
  unfold decode
  rw [h]
  rfl

theorem decode_2A {w : Word} (h : fld w 25 7 = 0x2A#7) : decode w = (decI w fun p t => .xori p t (fld w 0 14)) := by
  unfold decode
  rw [h]
  rfl

theorem decode_2B {w : Word} (h : fld w 25 7 = 0x2B#7) : decode w = (do
      zeroX w 6 8
      decI w fun p t => .shli p t (fld w 0 6)) := by
  unfold decode
  rw [h]
  rfl

theorem decode_2C {w : Word} (h : fld w 25 7 = 0x2C#7) : decode w = (do
      zeroX w 6 8
      decI w fun p t => .shri p t (fld w 0 6)) := by
  unfold decode
  rw [h]
  rfl

theorem decode_2D {w : Word} (h : fld w 25 7 = 0x2D#7) : decode w = (do
      zeroX w 6 8
      decI w fun p t => .srai p t (fld w 0 6)) := by
  unfold decode
  rw [h]
  rfl

theorem decode_2E {w : Word} (h : fld w 25 7 = 0x2E#7) : decode w = (do
      let cond ← CondI.ofCode (fld w 11 3)
      decI w fun p t => .cmpi p t cond (fld w 0 11)) := by
  unfold decode
  rw [h]
  rfl

theorem decode_2F {w : Word} (h : fld w 25 7 = 0x2F#7) : decode w = (decI w fun p t => .muli p t (fld w 0 14)) := by
  unfold decode
  rw [h]
  rfl

theorem decode_30 {w : Word} (h : fld w 25 7 = 0x30#7) : decode w = (do
      zeroX w 2 3
      decA w fun p t u => .xlate p t u (bitOf w 1) (bitOf w 0)) := by
  unfold decode
  rw [h]
  rfl

theorem decode_31 {w : Word} (h : fld w 25 7 = 0x31#7) : decode w = (do
      zeroX w 0 5
      decA w fun p t u => .paadd p t u) := by
  unfold decode
  rw [h]
  rfl

theorem decode_32 {w : Word} (h : fld w 25 7 = 0x32#7) : decode w = (decI w fun p t => .paoff p t (fld w 0 14)) := by
  unfold decode
  rw [h]
  rfl

theorem decode_33 {w : Word} (h : fld w 25 7 = 0x33#7) : decode w = (do
      let sz ← Sz.ofCode (fld w 7 3)
      decM w fun p t lsid => .ld p t lsid sz (fld w 0 7)) := by
  unfold decode
  rw [h]
  rfl

theorem decode_34 {w : Word} (h : fld w 25 7 = 0x34#7) : decode w = (do
      let sz ← Sz.ofCode (fld w 7 3)
      decM0 w fun p lsid => .st p lsid sz (fld w 0 7)) := by
  unfold decode
  rw [h]
  rfl

theorem decode_35 {w : Word} (h : fld w 25 7 = 0x35#7) : decode w = (do
      if fld w 7 3 = 7#3 then .ok () else .error .unassigned
      decM w fun p t lsid => .ldv p t lsid (fld w 0 7)) := by
  unfold decode
  rw [h]
  rfl

theorem decode_36 {w : Word} (h : fld w 25 7 = 0x36#7) : decode w = (do
      if fld w 7 3 = 7#3 then .ok () else .error .unassigned
      decM0 w fun p lsid => .stv p lsid (fld w 0 7)) := by
  unfold decode
  rw [h]
  rfl

theorem decode_37 {w : Word} (h : fld w 25 7 = 0x37#7) : decode w = (do
      let sz ← Sz.ofCode (fld w 7 3)
      decM w fun p t lsid => .ldl p t lsid sz (fld w 0 7)) := by
  unfold decode
  rw [h]
  rfl

theorem decode_38 {w : Word} (h : fld w 25 7 = 0x38#7) : decode w = (do
      let sz ← Sz.ofCode (fld w 7 3)
      decM0 w fun p lsid => .stl p lsid sz (fld w 0 7)) := by
  unfold decode
  rw [h]
  rfl

theorem decode_39 {w : Word} (h : fld w 25 7 = 0x39#7) : decode w = (do
      let sz ← Sz.ofCode (fld w 7 3)
      decM w fun p t lsid => .ldlw p t lsid sz (bitOf w 6) (fld w 0 6)) := by
  unfold decode
  rw [h]
  rfl

theorem decode_3A {w : Word} (h : fld w 25 7 = 0x3A#7) : decode w = (do
      let sz ← Sz.ofCode (fld w 7 3)
      decM0 w fun p lsid => .stlf p lsid sz (bitOf w 6) (fld w 0 6)) := by
  unfold decode
  rw [h]
  rfl

theorem decode_3B {w : Word} (h : fld w 25 7 = 0x3B#7) : decode w = (do
      if fld w 7 3 = 7#3 then .ok () else .error .unassigned
      decM w fun p t lsid => .ldlv p t lsid (fld w 0 7)) := by
  unfold decode
  rw [h]
  rfl

theorem decode_3C {w : Word} (h : fld w 25 7 = 0x3C#7) : decode w = (do
      if fld w 7 3 = 7#3 then .ok () else .error .unassigned
      decM0 w fun p lsid => .stlv p lsid (fld w 0 7)) := by
  unfold decode
  rw [h]
  rfl

theorem decode_3D {w : Word} (h : fld w 25 7 = 0x3D#7) : decode w = (do
      let sz ← Sz.ofCode (fld w 7 3)
      let sub ← AtomSub.ofCode (fld w 3 4)
      decM w fun p t lsid => .atom p t lsid sz sub (fld w 0 3)) := by
  unfold decode
  rw [h]
  rfl

theorem decode_3E {w : Word} (h : fld w 25 7 = 0x3E#7) : decode w = (do
      let sz ← Sz.ofCode (fld w 7 3)
      decM w fun p t lsid => .cas p t lsid sz (fld w 0 7)) := by
  unfold decode
  rw [h]
  rfl

theorem decode_3F {w : Word} (h : fld w 25 7 = 0x3F#7) : decode w = (do
      let sz ← Sz.ofCode (fld w 7 3)
      let sub ← AtomSub.ofCode (fld w 3 4)
      decM w fun p t lsid => .atoml p t lsid sz sub (fld w 0 3)) := by
  unfold decode
  rw [h]
  rfl

theorem decode_40 {w : Word} (h : fld w 25 7 = 0x40#7) : decode w = (decA0 w fun p => .bufdef p (fld w 0 5)) := by
  unfold decode
  rw [h]
  rfl

theorem decode_41 {w : Word} (h : fld w 25 7 = 0x41#7) : decode w = (decA w fun p t u => .bufget p t u (fld w 0 5)) := by
  unfold decode
  rw [h]
  rfl

theorem decode_42 {w : Word} (h : fld w 25 7 = 0x42#7) : decode w = (decA0 w fun p => .bufput p (fld w 0 5)) := by
  unfold decode
  rw [h]
  rfl

theorem decode_43 {w : Word} (h : fld w 25 7 = 0x43#7) : decode w = (decA w fun p t u => .bufstat p t u (fld w 0 5)) := by
  unfold decode
  rw [h]
  rfl

theorem decode_44 {w : Word} (h : fld w 25 7 = 0x44#7) : decode w = (decA0 w fun p => .cpyopen p (fld w 0 5)) := by
  unfold decode
  rw [h]
  rfl

theorem decode_45 {w : Word} (h : fld w 25 7 = 0x45#7) : decode w = (decA0 w fun p => .cpyclose p (fld w 0 5)) := by
  unfold decode
  rw [h]
  rfl

theorem decode_46 {w : Word} (h : fld w 25 7 = 0x46#7) : decode w = (decA w fun p t u => .cpywait p t u (fld w 0 5)) := by
  unfold decode
  rw [h]
  rfl

theorem decode_47 {w : Word} (h : fld w 25 7 = 0x47#7) : decode w = (do
      zeroX w 3 2
      let sz ← Sz.ofCode (fld w 0 3)
      decA w fun p t u => .gather p t u sz) := by
  unfold decode
  rw [h]
  rfl

theorem decode_48 {w : Word} (h : fld w 25 7 = 0x48#7) : decode w = (do
      zeroX w 3 2
      let sz ← Sz.ofCode (fld w 0 3)
      decA0 w fun p => .scatter p sz) := by
  unfold decode
  rw [h]
  rfl

theorem decode_49 {w : Word} (h : fld w 25 7 = 0x49#7) : decode w = (do
      zeroX w 4 1
      let sub ← AtomSub.ofCode (fld w 0 4)
      decA w fun p t u => .epatom p t u sub) := by
  unfold decode
  rw [h]
  rfl

theorem decode_4A {w : Word} (h : fld w 25 7 = 0x4A#7) : decode w = (do
      zeroX w 0 5
      decA0 w fun p => .epfence p) := by
  unfold decode
  rw [h]
  rfl

theorem decode_4B {w : Word} (h : fld w 25 7 = 0x4B#7) : decode w = (do
      noTgt w 5 9
      zeroX w 0 5
      decI w fun p t => .lmstream p t) := by
  unfold decode
  rw [h]
  rfl

theorem decode_50 {w : Word} (h : fld w 25 7 = 0x50#7) : decode w = (do
      let ty ← FType.ofCode (fld w 2 3)
      let rnd ← Round.ofCode (fld w 0 2)
      decA w fun p t u => .fadd p t u ty rnd) := by
  unfold decode
  rw [h]
  rfl

theorem decode_51 {w : Word} (h : fld w 25 7 = 0x51#7) : decode w = (do
      let ty ← FType.ofCode (fld w 2 3)
      let rnd ← Round.ofCode (fld w 0 2)
      decA w fun p t u => .fsub p t u ty rnd) := by
  unfold decode
  rw [h]
  rfl

theorem decode_52 {w : Word} (h : fld w 25 7 = 0x52#7) : decode w = (do
      let ty ← FType.ofCode (fld w 2 3)
      let rnd ← Round.ofCode (fld w 0 2)
      decA w fun p t u => .fmul p t u ty rnd) := by
  unfold decode
  rw [h]
  rfl

theorem decode_53 {w : Word} (h : fld w 25 7 = 0x53#7) : decode w = (do
      let ty ← FType.ofCode (fld w 2 3)
      let rnd ← Round.ofCode (fld w 0 2)
      decA w fun p t u => .fma p t u ty rnd) := by
  unfold decode
  rw [h]
  rfl

theorem decode_54 {w : Word} (h : fld w 25 7 = 0x54#7) : decode w = (do
      let ty ← FType.ofCode (fld w 2 3)
      let rnd ← Round.ofCode (fld w 0 2)
      decA w fun p t u => .fdiv p t u ty rnd) := by
  unfold decode
  rw [h]
  rfl

theorem decode_55 {w : Word} (h : fld w 25 7 = 0x55#7) : decode w = (do
      let ty ← FType.ofCode (fld w 2 3)
      let rnd ← Round.ofCode (fld w 0 2)
      decA w fun p t u => .fsqrt p t u ty rnd) := by
  unfold decode
  rw [h]
  rfl

theorem decode_56 {w : Word} (h : fld w 25 7 = 0x56#7) : decode w = (do
      let ty ← FType.ofCode (fld w 2 3)
      let rnd ← Round.ofCode (fld w 0 2)
      decA w fun p t u => .frsq p t u ty rnd) := by
  unfold decode
  rw [h]
  rfl

theorem decode_57 {w : Word} (h : fld w 25 7 = 0x57#7) : decode w = (do
      let ty ← FType.ofCode (fld w 2 3)
      let sub ← MinMaxSub.ofCode (fld w 0 2)
      decA w fun p t u => .fminmax p t u ty sub) := by
  unfold decode
  rw [h]
  rfl

theorem decode_58 {w : Word} (h : fld w 25 7 = 0x58#7) : decode w = (do
      let ty ← FType.ofCode (fld w 2 3)
      let sub ← FCmpSub.ofCode (fld w 0 2)
      decA w fun p t u => .fcmp p t u ty sub) := by
  unfold decode
  rw [h]
  rfl

theorem decode_59 {w : Word} (h : fld w 25 7 = 0x59#7) : decode w = (do
      zeroX w 0 2
      let ty ← FType.ofCode (fld w 2 3)
      decA w fun p t u => .fclass p t u ty) := by
  unfold decode
  rw [h]
  rfl

theorem decode_5A {w : Word} (h : fld w 25 7 = 0x5A#7) : decode w = (do
      let ty ← FType.ofCode (fld w 2 3)
      let sub ← FSignSub.ofCode (fld w 0 2)
      decA w fun p t u => .fsign p t u ty sub) := by
  unfold decode
  rw [h]
  rfl

theorem decode_5B {w : Word} (h : fld w 25 7 = 0x5B#7) : decode w = (do
      let ty ← FType.ofCode (fld w 2 3)
      let rnd ← Round.ofCode (fld w 0 2)
      decA w fun p t u => .frnd p t u ty rnd) := by
  unfold decode
  rw [h]
  rfl

theorem decode_5C {w : Word} (h : fld w 25 7 = 0x5C#7) : decode w = (do
      let ty ← FType.ofCode (fld w 2 3)
      let rnd ← Round.ofCode (fld w 0 2)
      decA w fun p t u => .fexp2 p t u ty rnd) := by
  unfold decode
  rw [h]
  rfl

theorem decode_5D {w : Word} (h : fld w 25 7 = 0x5D#7) : decode w = (do
      let ty ← FType.ofCode (fld w 2 3)
      let rnd ← Round.ofCode (fld w 0 2)
      decA w fun p t u => .flog2 p t u ty rnd) := by
  unfold decode
  rw [h]
  rfl

theorem decode_5E {w : Word} (h : fld w 25 7 = 0x5E#7) : decode w = (do
      zeroX w 5 3
      let dty ← FType.ofCode (fld w 11 3)
      let ty ← FType.ofCode (fld w 2 3)
      let rnd ← Round.ofCode (fld w 0 2)
      decI w fun p t => .cvt p t dty (bitOf w 10) (fld w 8 2) ty rnd) := by
  unfold decode
  rw [h]
  rfl

theorem decode_5F {w : Word} (h : fld w 25 7 = 0x5F#7) : decode w = (do
      zeroX w 5 6
      let iw ← IntWidth.ofCode (fld w 12 2)
      let ty ← FType.ofCode (fld w 2 3)
      let rnd ← Round.ofCode (fld w 0 2)
      decI w fun p t => .cvti p t iw (bitOf w 11) ty rnd) := by
  unfold decode
  rw [h]
  rfl

theorem decode_60 {w : Word} (h : fld w 25 7 = 0x60#7) : decode w = (do
      zeroX w 5 6
      let iw ← IntWidth.ofCode (fld w 12 2)
      let ty ← FType.ofCode (fld w 2 3)
      let rnd ← Round.ofCode (fld w 0 2)
      decI w fun p t => .cvtf p t iw (bitOf w 11) ty rnd) := by
  unfold decode
  rw [h]
  rfl

theorem decode_61 {w : Word} (h : fld w 25 7 = 0x61#7) : decode w = (do
      if fld w 2 3 = 6#3 then .ok () else .error .unassigned
      let gw ← GxWidth.ofCode (fld w 0 2)
      decA w fun p t u => .gxpack p t u gw) := by
  unfold decode
  rw [h]
  rfl

theorem decode_62 {w : Word} (h : fld w 25 7 = 0x62#7) : decode w = (do
      let ty ← FType.ofCode (fld w 2 3)
      let gw ← GxWidth.ofCode (fld w 0 2)
      decA w fun p t u => .gxunp p t u ty gw) := by
  unfold decode
  rw [h]
  rfl

theorem decode_63 {w : Word} (h : fld w 25 7 = 0x63#7) : decode w = (do
      if fld w 4 1 = 1#1 then .ok () else .error .unassigned
      let ty ← VType.ofCode (fld w 2 2)
      let rnd ← Round.ofCode (fld w 0 2)
      decA w fun p t u => .vred p t u ty rnd) := by
  unfold decode
  rw [h]
  rfl

theorem decode_64 {w : Word} (h : fld w 25 7 = 0x64#7) : decode w = (do
      zeroX w 1 1
      if fld w 4 1 = 1#1 then .ok () else .error .unassigned
      let ty ← VType.ofCode (fld w 2 2)
      decA w fun p t u => .vshuf p t u ty (bitOf w 0)) := by
  unfold decode
  rw [h]
  rfl

theorem decode_65 {w : Word} (h : fld w 25 7 = 0x65#7) : decode w = (do
      zeroX w 0 2
      if fld w 4 1 = 1#1 then .ok () else .error .unassigned
      let ty ← VType.ofCode (fld w 2 2)
      decA w fun p t u => .vbcast p t u ty) := by
  unfold decode
  rw [h]
  rfl

theorem decode_66 {w : Word} (h : fld w 25 7 = 0x66#7) : decode w = (do
      zeroX w 1 1
      if fld w 4 1 = 1#1 then .ok () else .error .unassigned
      let ty ← VType.ofCode (fld w 2 2)
      decA w fun p t u => .vlane p t u ty (bitOf w 0)) := by
  unfold decode
  rw [h]
  rfl

theorem decode_67 {w : Word} (h : fld w 25 7 = 0x67#7) : decode w = (do
      let ty ← FType.ofCode (fld w 2 3)
      let rnd ← Round.ofCode (fld w 0 2)
      decA w fun p t u => .vdot p t u ty rnd) := by
  unfold decode
  rw [h]
  rfl

theorem decode_68 {w : Word} (h : fld w 25 7 = 0x68#7) : decode w = (do
      zeroX w 1 1
      let ty ← MatType.ofCode (fld w 2 3)
      decA0 w fun p => .mlda p ty (bitOf w 0)) := by
  unfold decode
  rw [h]
  rfl

theorem decode_69 {w : Word} (h : fld w 25 7 = 0x69#7) : decode w = (do
      zeroX w 1 1
      let ty ← MatType.ofCode (fld w 2 3)
      decA0 w fun p => .mldb p ty (bitOf w 0)) := by
  unfold decode
  rw [h]
  rfl

theorem decode_6A {w : Word} (h : fld w 25 7 = 0x6A#7) : decode w = (do
      let ty ← MatType.ofCode (fld w 2 3)
      let buf ← TileBuf.ofCode (fld w 0 2)
      decA0 w fun p => .mldl p ty buf) := by
  unfold decode
  rw [h]
  rfl

theorem decode_6B {w : Word} (h : fld w 25 7 = 0x6B#7) : decode w = (do
      let ty ← MatType.ofCode (fld w 2 3)
      let mode ← MmaMode.ofCode (fld w 0 2)
      decA0 w fun p => .mma p ty mode) := by
  unfold decode
  rw [h]
  rfl

theorem decode_6C {w : Word} (h : fld w 25 7 = 0x6C#7) : decode w = (do
      let ty ← MatType.ofCode (fld w 2 3)
      decA0 w fun p => .mst p ty (fld w 0 2)) := by
  unfold decode
  rw [h]
  rfl

theorem decode_6D {w : Word} (h : fld w 25 7 = 0x6D#7) : decode w = (do
      noTgt w 5 9
      let ty ← MatType.ofCode (fld w 2 3)
      decI w fun p t => .mrel p t ty (fld w 0 2)) := by
  unfold decode
  rw [h]
  rfl

theorem decode_6E {w : Word} (h : fld w 25 7 = 0x6E#7) : decode w = (do
      let ty ← MatType.ofCode (fld w 2 3)
      decA0 w fun p => .mjob p ty (fld w 0 2)) := by
  unfold decode
  rw [h]
  rfl

theorem decode_6F {w : Word} (h : fld w 25 7 = 0x6F#7) : decode w = (decA w fun p t u => .ctr p t u (bitOf w 4) (fld w 0 4)) := by
  unfold decode
  rw [h]
  rfl

theorem decode_70 {w : Word} (h : fld w 25 7 = 0x70#7) : decode w = (do
      zeroX w 4 1
      decA0 w fun p => .pldef p (fld w 0 4)) := by
  unfold decode
  rw [h]
  rfl

theorem decode_71 {w : Word} (h : fld w 25 7 = 0x71#7) : decode w = (do
      zeroX w 1 4
      decA0 w fun p => .pshift p (bitOf w 0)) := by
  unfold decode
  rw [h]
  rfl

theorem decode_72 {w : Word} (h : fld w 25 7 = 0x72#7) : decode w = (do
      zeroX w 0 5
      decA0 w fun p => .pstep p) := by
  unfold decode
  rw [h]
  rfl

theorem decode_73 {w : Word} (h : fld w 25 7 = 0x73#7) : decode w = (do
      zeroX w 3 2
      let sub ← PactSub.ofCode (fld w 0 3)
      decA w fun p t u => .pact p t u sub) := by
  unfold decode
  rw [h]
  rfl

theorem decode_74 {w : Word} (h : fld w 25 7 = 0x74#7) : decode w = (do
      zeroX w 2 3
      let sub ← PsumSub.ofCode (fld w 0 2)
      decA w fun p t u => .psum p t u sub) := by
  unfold decode
  rw [h]
  rfl

theorem decode_75 {w : Word} (h : fld w 25 7 = 0x75#7) : decode w = (do
      zeroX w 2 3
      let sub ← PcopySub.ofCode (fld w 0 2)
      decA0 w fun p => .pcopy p sub) := by
  unfold decode
  rw [h]
  rfl

theorem decode_76 {w : Word} (h : fld w 25 7 = 0x76#7) : decode w = (do
      zeroX w 4 1
      decA w fun p t u => .lmarch p t u (fld w 0 4)) := by
  unfold decode
  rw [h]
  rfl

theorem decode_77 {w : Word} (h : fld w 25 7 = 0x77#7) : decode w = (do
      let sel ← SiteSel.ofCode (fld w 0 5)
      decA w fun p t u => .site p t u sel) := by
  unfold decode
  rw [h]
  rfl

theorem decode_78 {w : Word} (h : fld w 25 7 = 0x78#7) : decode w = (match fld w 0 5 with
    | 0#5 => decA w fun p t u => .timeNow p t u
    | 1#5 => decA w fun p t u => .timeCmp p t u
    | 2#5 => decA w fun p t u => .timeMake p t u
    | 3#5 => decA w fun p t u => .timeField p t u
    | _ => .error .unassigned) := by
  unfold decode
  rw [h]
  rfl

theorem decode_79 {w : Word} (h : fld w 25 7 = 0x79#7) : decode w = (match fld w 0 5 with
    | 0#5 => decA w fun p t u => .frontRead p t u
    | 1#5 => decA w fun p t u => .frontWait p t u
    | 2#5 => decA0 w fun p => .frontSubscribe p
    | _ => .error .unassigned) := by
  unfold decode
  rw [h]
  rfl

theorem decode_7A {w : Word} (h : fld w 25 7 = 0x7A#7) : decode w = (match fld w 0 5 with
    | 0#5 => decA w fun p t u => .tcapNew p t u
    | 1#5 => decA0 w fun p => .tcapAdvance p
    | 2#5 => decA0 w fun p => .tcapDrop p
    | _ => .error .unassigned) := by
  unfold decode
  rw [h]
  rfl

theorem decode_7B {w : Word} (h : fld w 25 7 = 0x7B#7) : decode w = (do
      zeroX w 0 1
      let queue ← Queue.ofCode (fld w 2 3)
      decA0 w fun p => .callq p queue (bitOf w 1)) := by
  unfold decode
  rw [h]
  rfl

theorem decode_7C {w : Word} (h : fld w 25 7 = 0x7C#7) : decode w = (match fld w 0 5 with
    | 0#5 => decA0 w fun p => .sysTrap p
    | 1#5 => decA0 w fun p => .sysEret p
    | 2#5 => decA0 w fun p => .sysBkpt p
    | 3#5 => decA w fun p t u => .sysFeatq p t u
    | 4#5 => decA w fun p t u => .sysWdog p t u
    | 5#5 => decA0 w fun p => .sysPmonctl p
    | 6#5 => decA w fun p t u => .sysPmonrd p t u
    | 7#5 => decA0 w fun p => .sysRrmark p
    | 8#5 => decA0 w fun p => .sysTlbinv p
    | 9#5 => decA0 w fun p => .sysCsload p
    | _ => .error .unassigned) := by
  unfold decode
  rw [h]
  rfl

theorem decode_7D {w : Word} (h : fld w 25 7 = 0x7D#7) : decode w = (if bitOf w 13 then do
      noTgt w 14 9
      let p ← pmOf w
      .ok (.sregWr p (fld w 0 13))
    else decI w fun p t => .sregRd p t (fld w 0 13)) := by
  unfold decode
  rw [h]
  rfl

theorem decode_7E {w : Word} (h : fld w 25 7 = 0x7E#7) : decode w = (match fld w 0 5 with
    | 0#5 => decA0 w fun p => .sectCfgload p
    | 1#5 => decA0 w fun p => .sectArm p
    | 2#5 => decA0 w fun p => .sectBound p
    | 3#5 => decA0 w fun p => .sectDrain p
    | 4#5 => decA w fun p t u => .sectSinkw p t u
    | 5#5 => decA0 w fun p => .sectRelease p
    | 6#5 => decA w fun p t u => .sectGred p t u
    | 7#5 => decA0 w fun p => .sectGbcast p
    | _ => .error .unassigned) := by
  unfold decode
  rw [h]
  rfl

/-! ## The family -/

theorem RoundTrip.read (reg : BitVec 6) (fe : Bool) (t : Tgt) (u : Tgt) : RoundTrip.Statement (.read reg fe t u) :=
  fun _ _ => by
    show decode (fmtR 0x01 reg (bit fe) t.code u.code) = _
    rw [decode_01 (fmtR_op 0x01 _ _ _ _)]
    simp

theorem RoundTrip.mov (p : Pm) (t : Tgt) (u : Tgt) : RoundTrip.Statement (.mov p t u) :=
  fun _ _ => by
    show decode (fmtA 0x02 p t.code u.code 0#5) = _
    rw [decode_02 (fmtA_op 0x02 _ _ _ _)]
    simp [zeroX, bind, Except.bind]

theorem RoundTrip.movi (p : Pm) (t : Tgt) (imm : BitVec 14) : RoundTrip.Statement (.movi p t imm) :=
  fun _ _ => by
    show decode (fmtI 0x03 p t.code imm) = _
    rw [decode_03 (fmtI_op 0x03 _ _ _)]
    simp

theorem RoundTrip.movis (p : Pm) (t : Tgt) (imm : BitVec 14) : RoundTrip.Statement (.movis p t imm) :=
  fun _ _ => by
    show decode (fmtI 0x04 p t.code imm) = _
    rw [decode_04 (fmtI_op 0x04 _ _ _)]
    simp

theorem RoundTrip.null (p : Pm) (t : Tgt) (u : Tgt) : RoundTrip.Statement (.null p t u) :=
  fun _ _ => by
    show decode (fmtA 0x05 p t.code u.code 0#5) = _
    rw [decode_05 (fmtA_op 0x05 _ _ _ _)]
    simp [zeroX, bind, Except.bind]

theorem RoundTrip.recv (port : BitVec 6) (t : Tgt) (u : Tgt) : RoundTrip.Statement (.recv port t u) :=
  fun _ _ => by
    show decode (fmtR 0x06 port 0 t.code u.code) = _
    rw [decode_06 (fmtR_op 0x06 _ _ _ _)]
    simp

theorem RoundTrip.recvk (port : BitVec 6) (t : Tgt) (u : Tgt) : RoundTrip.Statement (.recvk port t u) :=
  fun _ _ => by
    show decode (fmtR 0x07 port 0 t.code u.code) = _
    rw [decode_07 (fmtR_op 0x07 _ _ _ _)]
    simp

theorem RoundTrip.recvo (port : BitVec 6) (t : Tgt) (u : Tgt) : RoundTrip.Statement (.recvo port t u) :=
  fun _ _ => by
    show decode (fmtR 0x08 port 0 t.code u.code) = _
    rw [decode_08 (fmtR_op 0x08 _ _ _ _)]
    simp

theorem RoundTrip.join (pa : BitVec 6) (pb : BitVec 6) (mode : JoinMode) (t : Tgt) : RoundTrip.Statement (.join pa pb mode t) :=
  fun _ _ => by
    show decode (fmtJ 0x09 pa pb mode.code t.code) = _
    rw [decode_09 (fmtJ_op 0x09 _ _ _ _)]
    simp [zeroFld, bind, Except.bind]

theorem RoundTrip.bro (p : Pm) (exit : BitVec 3) (off : BitVec 20) : RoundTrip.Statement (.bro p exit off) :=
  fun _ _ => by
    show decode (fmtB 0x0A p exit off) = _
    rw [decode_0A (fmtB_op 0x0A _ _ _)]
    simp

theorem RoundTrip.bri (p : Pm) (exit : BitVec 3) : RoundTrip.Statement (.bri p exit) :=
  fun _ _ => by
    show decode (fmtA 0x0B p 0 0 (0#2 ++ exit)) = _
    rw [decode_0B (fmtA_op 0x0B _ _ _ _)]
    simp [zeroX, bind, Except.bind]

theorem RoundTrip.callo (p : Pm) (exit : BitVec 3) (off : BitVec 20) : RoundTrip.Statement (.callo p exit off) :=
  fun _ _ => by
    show decode (fmtB 0x0C p exit off) = _
    rw [decode_0C (fmtB_op 0x0C _ _ _)]
    simp

theorem RoundTrip.retb (p : Pm) (exit : BitVec 3) : RoundTrip.Statement (.retb p exit) :=
  fun _ _ => by
    show decode (fmtA 0x0D p 0 0 (0#2 ++ exit)) = _
    rw [decode_0D (fmtA_op 0x0D _ _ _ _)]
    simp [zeroX, bind, Except.bind]

theorem RoundTrip.halt (p : Pm) : RoundTrip.Statement (.halt p) :=
  fun _ _ => by
    show decode (fmtA 0x0E p 0 0 0#5) = _
    rw [decode_0E (fmtA_op 0x0E _ _ _ _)]
    simp [zeroX, bind, Except.bind]

theorem RoundTrip.fence (p : Pm) (gslot : BitVec 2) (scope : FenceScope) : RoundTrip.Statement (.fence p gslot scope) :=
  fun _ _ => by
    show decode (fmtA 0x0F p 0 0 (gslot ++ scope.code)) = _
    rw [decode_0F (fmtA_op 0x0F _ _ _ _)]
    simp [bind, Except.bind]

theorem RoundTrip.add (p : Pm) (t : Tgt) (u : Tgt) : RoundTrip.Statement (.add p t u) :=
  fun _ _ => by
    show decode (fmtA 0x10 p t.code u.code 0#5) = _
    rw [decode_10 (fmtA_op 0x10 _ _ _ _)]
    simp [zeroX, bind, Except.bind]

theorem RoundTrip.sub (p : Pm) (t : Tgt) (u : Tgt) : RoundTrip.Statement (.sub p t u) :=
  fun _ _ => by
    show decode (fmtA 0x11 p t.code u.code 0#5) = _
    rw [decode_11 (fmtA_op 0x11 _ _ _ _)]
    simp [zeroX, bind, Except.bind]

theorem RoundTrip.mul (p : Pm) (t : Tgt) (u : Tgt) : RoundTrip.Statement (.mul p t u) :=
  fun _ _ => by
    show decode (fmtA 0x12 p t.code u.code 0#5) = _
    rw [decode_12 (fmtA_op 0x12 _ _ _ _)]
    simp [zeroX, bind, Except.bind]

theorem RoundTrip.mulh (p : Pm) (t : Tgt) (u : Tgt) (sg : Bool) : RoundTrip.Statement (.mulh p t u sg) :=
  fun _ _ => by
    show decode (fmtA 0x13 p t.code u.code (0#4 ++ bit sg)) = _
    rw [decode_13 (fmtA_op 0x13 _ _ _ _)]
    simp [zeroX, bitOf, bind, Except.bind]

theorem RoundTrip.div (p : Pm) (t : Tgt) (u : Tgt) (sg : Bool) : RoundTrip.Statement (.div p t u sg) :=
  fun _ _ => by
    show decode (fmtA 0x14 p t.code u.code (0#4 ++ bit sg)) = _
    rw [decode_14 (fmtA_op 0x14 _ _ _ _)]
    simp [zeroX, bitOf, bind, Except.bind]

theorem RoundTrip.rem (p : Pm) (t : Tgt) (u : Tgt) (sg : Bool) : RoundTrip.Statement (.rem p t u sg) :=
  fun _ _ => by
    show decode (fmtA 0x15 p t.code u.code (0#4 ++ bit sg)) = _
    rw [decode_15 (fmtA_op 0x15 _ _ _ _)]
    simp [zeroX, bitOf, bind, Except.bind]

theorem RoundTrip.and (p : Pm) (t : Tgt) (u : Tgt) : RoundTrip.Statement (.and p t u) :=
  fun _ _ => by
    show decode (fmtA 0x16 p t.code u.code 0#5) = _
    rw [decode_16 (fmtA_op 0x16 _ _ _ _)]
    simp [zeroX, bind, Except.bind]

theorem RoundTrip.or (p : Pm) (t : Tgt) (u : Tgt) : RoundTrip.Statement (.or p t u) :=
  fun _ _ => by
    show decode (fmtA 0x17 p t.code u.code 0#5) = _
    rw [decode_17 (fmtA_op 0x17 _ _ _ _)]
    simp [zeroX, bind, Except.bind]

theorem RoundTrip.xor (p : Pm) (t : Tgt) (u : Tgt) : RoundTrip.Statement (.xor p t u) :=
  fun _ _ => by
    show decode (fmtA 0x18 p t.code u.code 0#5) = _
    rw [decode_18 (fmtA_op 0x18 _ _ _ _)]
    simp [zeroX, bind, Except.bind]

theorem RoundTrip.andn (p : Pm) (t : Tgt) (u : Tgt) : RoundTrip.Statement (.andn p t u) :=
  fun _ _ => by
    show decode (fmtA 0x19 p t.code u.code 0#5) = _
    rw [decode_19 (fmtA_op 0x19 _ _ _ _)]
    simp [zeroX, bind, Except.bind]

theorem RoundTrip.shl (p : Pm) (t : Tgt) (u : Tgt) : RoundTrip.Statement (.shl p t u) :=
  fun _ _ => by
    show decode (fmtA 0x1A p t.code u.code 0#5) = _
    rw [decode_1A (fmtA_op 0x1A _ _ _ _)]
    simp [zeroX, bind, Except.bind]

theorem RoundTrip.shr (p : Pm) (t : Tgt) (u : Tgt) : RoundTrip.Statement (.shr p t u) :=
  fun _ _ => by
    show decode (fmtA 0x1B p t.code u.code 0#5) = _
    rw [decode_1B (fmtA_op 0x1B _ _ _ _)]
    simp [zeroX, bind, Except.bind]

theorem RoundTrip.sra (p : Pm) (t : Tgt) (u : Tgt) : RoundTrip.Statement (.sra p t u) :=
  fun _ _ => by
    show decode (fmtA 0x1C p t.code u.code 0#5) = _
    rw [decode_1C (fmtA_op 0x1C _ _ _ _)]
    simp [zeroX, bind, Except.bind]

theorem RoundTrip.rot (p : Pm) (t : Tgt) (u : Tgt) : RoundTrip.Statement (.rot p t u) :=
  fun _ _ => by
    show decode (fmtA 0x1D p t.code u.code 0#5) = _
    rw [decode_1D (fmtA_op 0x1D _ _ _ _)]
    simp [zeroX, bind, Except.bind]

theorem RoundTrip.min (p : Pm) (t : Tgt) (u : Tgt) (sg : Bool) : RoundTrip.Statement (.min p t u sg) :=
  fun _ _ => by
    show decode (fmtA 0x1E p t.code u.code (0#4 ++ bit sg)) = _
    rw [decode_1E (fmtA_op 0x1E _ _ _ _)]
    simp [zeroX, bitOf, bind, Except.bind]

theorem RoundTrip.max (p : Pm) (t : Tgt) (u : Tgt) (sg : Bool) : RoundTrip.Statement (.max p t u sg) :=
  fun _ _ => by
    show decode (fmtA 0x1F p t.code u.code (0#4 ++ bit sg)) = _
    rw [decode_1F (fmtA_op 0x1F _ _ _ _)]
    simp [zeroX, bitOf, bind, Except.bind]

theorem RoundTrip.absneg (p : Pm) (t : Tgt) (u : Tgt) (sub : AbsNeg) : RoundTrip.Statement (.absneg p t u sub) :=
  fun _ _ => by
    show decode (fmtA 0x20 p t.code u.code (0#3 ++ sub.code ++ 0#1)) = _
    rw [decode_20 (fmtA_op 0x20 _ _ _ _)]
    simp [zeroX, bind, Except.bind]

theorem RoundTrip.bitc (p : Pm) (t : Tgt) (u : Tgt) (sub : BitCount) : RoundTrip.Statement (.bitc p t u sub) :=
  fun _ _ => by
    show decode (fmtA 0x21 p t.code u.code (0#2 ++ sub.code ++ 0#1)) = _
    rw [decode_21 (fmtA_op 0x21 _ _ _ _)]
    simp [zeroX, bind, Except.bind]

theorem RoundTrip.bfx (p : Pm) (t : Tgt) (u : Tgt) (sg : Bool) : RoundTrip.Statement (.bfx p t u sg) :=
  fun _ _ => by
    show decode (fmtA 0x22 p t.code u.code (0#4 ++ bit sg)) = _
    rw [decode_22 (fmtA_op 0x22 _ _ _ _)]
    simp [zeroX, bitOf, bind, Except.bind]

theorem RoundTrip.bfi (p : Pm) (t : Tgt) (u : Tgt) : RoundTrip.Statement (.bfi p t u) :=
  fun _ _ => by
    show decode (fmtA 0x23 p t.code u.code 0#5) = _
    rw [decode_23 (fmtA_op 0x23 _ _ _ _)]
    simp [zeroX, bind, Except.bind]

theorem RoundTrip.cmp (p : Pm) (t : Tgt) (u : Tgt) (cond : Cond) (sg : Bool) : RoundTrip.Statement (.cmp p t u cond sg) :=
  fun _ _ => by
    show decode (fmtA 0x24 p t.code u.code (cond.code ++ bit sg)) = _
    rw [decode_24 (fmtA_op 0x24 _ _ _ _)]
    simp [bitOf, bind, Except.bind]

theorem RoundTrip.sel (p : Pm) (t : Tgt) (u : Tgt) (nz : Bool) : RoundTrip.Statement (.sel p t u nz) :=
  fun _ _ => by
    show decode (fmtA 0x25 p t.code u.code (0#3 ++ bit nz ++ 0#1)) = _
    rw [decode_25 (fmtA_op 0x25 _ _ _ _)]
    simp [zeroX, bitOf, bind, Except.bind]

theorem RoundTrip.ext (p : Pm) (t : Tgt) (u : Tgt) (ew : ExtWidth) (sg : Bool) : RoundTrip.Statement (.ext p t u ew sg) :=
  fun _ _ => by
    show decode (fmtA 0x26 p t.code u.code (0#2 ++ ew.code ++ bit sg)) = _
    rw [decode_26 (fmtA_op 0x26 _ _ _ _)]
    simp [zeroX, bitOf, bind, Except.bind]

theorem RoundTrip.addi (p : Pm) (t : Tgt) (imm : BitVec 14) : RoundTrip.Statement (.addi p t imm) :=
  fun _ _ => by
    show decode (fmtI 0x27 p t.code imm) = _
    rw [decode_27 (fmtI_op 0x27 _ _ _)]
    simp

theorem RoundTrip.andi (p : Pm) (t : Tgt) (imm : BitVec 14) : RoundTrip.Statement (.andi p t imm) :=
  fun _ _ => by
    show decode (fmtI 0x28 p t.code imm) = _
    rw [decode_28 (fmtI_op 0x28 _ _ _)]
    simp

theorem RoundTrip.ori (p : Pm) (t : Tgt) (imm : BitVec 14) : RoundTrip.Statement (.ori p t imm) :=
  fun _ _ => by
    show decode (fmtI 0x29 p t.code imm) = _
    rw [decode_29 (fmtI_op 0x29 _ _ _)]
    simp

theorem RoundTrip.xori (p : Pm) (t : Tgt) (imm : BitVec 14) : RoundTrip.Statement (.xori p t imm) :=
  fun _ _ => by
    show decode (fmtI 0x2A p t.code imm) = _
    rw [decode_2A (fmtI_op 0x2A _ _ _)]
    simp

theorem RoundTrip.shli (p : Pm) (t : Tgt) (imm : BitVec 6) : RoundTrip.Statement (.shli p t imm) :=
  fun _ _ => by
    show decode (fmtI 0x2B p t.code (0#8 ++ imm)) = _
    rw [decode_2B (fmtI_op 0x2B _ _ _)]
    simp [zeroX, bind, Except.bind]

theorem RoundTrip.shri (p : Pm) (t : Tgt) (imm : BitVec 6) : RoundTrip.Statement (.shri p t imm) :=
  fun _ _ => by
    show decode (fmtI 0x2C p t.code (0#8 ++ imm)) = _
    rw [decode_2C (fmtI_op 0x2C _ _ _)]
    simp [zeroX, bind, Except.bind]

theorem RoundTrip.srai (p : Pm) (t : Tgt) (imm : BitVec 6) : RoundTrip.Statement (.srai p t imm) :=
  fun _ _ => by
    show decode (fmtI 0x2D p t.code (0#8 ++ imm)) = _
    rw [decode_2D (fmtI_op 0x2D _ _ _)]
    simp [zeroX, bind, Except.bind]

theorem RoundTrip.cmpi (p : Pm) (t : Tgt) (cond : CondI) (imm : BitVec 11) : RoundTrip.Statement (.cmpi p t cond imm) :=
  fun _ _ => by
    show decode (fmtI 0x2E p t.code (cond.code ++ imm)) = _
    rw [decode_2E (fmtI_op 0x2E _ _ _)]
    simp [bind, Except.bind]

theorem RoundTrip.muli (p : Pm) (t : Tgt) (imm : BitVec 14) : RoundTrip.Statement (.muli p t imm) :=
  fun _ _ => by
    show decode (fmtI 0x2F p t.code imm) = _
    rw [decode_2F (fmtI_op 0x2F _ _ _)]
    simp

theorem RoundTrip.xlate (p : Pm) (t : Tgt) (u : Tgt) (wr : Bool) (nf : Bool) : RoundTrip.Statement (.xlate p t u wr nf) :=
  fun _ _ => by
    show decode (fmtA 0x30 p t.code u.code (0#3 ++ bit wr ++ bit nf)) = _
    rw [decode_30 (fmtA_op 0x30 _ _ _ _)]
    simp [zeroX, bitOf, bind, Except.bind]

theorem RoundTrip.paadd (p : Pm) (t : Tgt) (u : Tgt) : RoundTrip.Statement (.paadd p t u) :=
  fun _ _ => by
    show decode (fmtA 0x31 p t.code u.code 0#5) = _
    rw [decode_31 (fmtA_op 0x31 _ _ _ _)]
    simp [zeroX, bind, Except.bind]

theorem RoundTrip.paoff (p : Pm) (t : Tgt) (imm : BitVec 14) : RoundTrip.Statement (.paoff p t imm) :=
  fun _ _ => by
    show decode (fmtI 0x32 p t.code imm) = _
    rw [decode_32 (fmtI_op 0x32 _ _ _)]
    simp

theorem RoundTrip.ld (p : Pm) (t : Tgt) (lsid : BitVec 4) (sz : Sz) (imm : BitVec 7) : RoundTrip.Statement (.ld p t lsid sz imm) :=
  fun _ _ => by
    show decode (fmtM 0x33 p t.code lsid sz.code imm) = _
    rw [decode_33 (fmtM_op 0x33 _ _ _ _ _)]
    simp [bind, Except.bind]

theorem RoundTrip.st (p : Pm) (lsid : BitVec 4) (sz : Sz) (imm : BitVec 7) : RoundTrip.Statement (.st p lsid sz imm) :=
  fun _ _ => by
    show decode (fmtM 0x34 p 0 lsid sz.code imm) = _
    rw [decode_34 (fmtM_op 0x34 _ _ _ _ _)]
    simp [bind, Except.bind]

theorem RoundTrip.ldv (p : Pm) (t : Tgt) (lsid : BitVec 4) (imm : BitVec 7) : RoundTrip.Statement (.ldv p t lsid imm) :=
  fun _ _ => by
    show decode (fmtM 0x35 p t.code lsid 7#3 imm) = _
    rw [decode_35 (fmtM_op 0x35 _ _ _ _ _)]
    simp [bind, Except.bind]

theorem RoundTrip.stv (p : Pm) (lsid : BitVec 4) (imm : BitVec 7) : RoundTrip.Statement (.stv p lsid imm) :=
  fun _ _ => by
    show decode (fmtM 0x36 p 0 lsid 7#3 imm) = _
    rw [decode_36 (fmtM_op 0x36 _ _ _ _ _)]
    simp [bind, Except.bind]

theorem RoundTrip.ldl (p : Pm) (t : Tgt) (lsid : BitVec 4) (sz : Sz) (imm : BitVec 7) : RoundTrip.Statement (.ldl p t lsid sz imm) :=
  fun _ _ => by
    show decode (fmtM 0x37 p t.code lsid sz.code imm) = _
    rw [decode_37 (fmtM_op 0x37 _ _ _ _ _)]
    simp [bind, Except.bind]

theorem RoundTrip.stl (p : Pm) (lsid : BitVec 4) (sz : Sz) (imm : BitVec 7) : RoundTrip.Statement (.stl p lsid sz imm) :=
  fun _ _ => by
    show decode (fmtM 0x38 p 0 lsid sz.code imm) = _
    rw [decode_38 (fmtM_op 0x38 _ _ _ _ _)]
    simp [bind, Except.bind]

theorem RoundTrip.ldlw (p : Pm) (t : Tgt) (lsid : BitVec 4) (sz : Sz) (q : Bool) (off : BitVec 6) : RoundTrip.Statement (.ldlw p t lsid sz q off) :=
  fun _ _ => by
    show decode (fmtM 0x39 p t.code lsid sz.code (bit q ++ off)) = _
    rw [decode_39 (fmtM_op 0x39 _ _ _ _ _)]
    simp [bitOf, bind, Except.bind]

theorem RoundTrip.stlf (p : Pm) (lsid : BitVec 4) (sz : Sz) (q : Bool) (off : BitVec 6) : RoundTrip.Statement (.stlf p lsid sz q off) :=
  fun _ _ => by
    show decode (fmtM 0x3A p 0 lsid sz.code (bit q ++ off)) = _
    rw [decode_3A (fmtM_op 0x3A _ _ _ _ _)]
    simp [bitOf, bind, Except.bind]

theorem RoundTrip.ldlv (p : Pm) (t : Tgt) (lsid : BitVec 4) (imm : BitVec 7) : RoundTrip.Statement (.ldlv p t lsid imm) :=
  fun _ _ => by
    show decode (fmtM 0x3B p t.code lsid 7#3 imm) = _
    rw [decode_3B (fmtM_op 0x3B _ _ _ _ _)]
    simp [bind, Except.bind]

theorem RoundTrip.stlv (p : Pm) (lsid : BitVec 4) (imm : BitVec 7) : RoundTrip.Statement (.stlv p lsid imm) :=
  fun _ _ => by
    show decode (fmtM 0x3C p 0 lsid 7#3 imm) = _
    rw [decode_3C (fmtM_op 0x3C _ _ _ _ _)]
    simp [bind, Except.bind]

theorem RoundTrip.atom (p : Pm) (t : Tgt) (lsid : BitVec 4) (sz : Sz) (sub : AtomSub) (off : BitVec 3) : RoundTrip.Statement (.atom p t lsid sz sub off) :=
  fun _ _ => by
    show decode (fmtM 0x3D p t.code lsid sz.code (sub.code ++ off)) = _
    rw [decode_3D (fmtM_op 0x3D _ _ _ _ _)]
    simp [bind, Except.bind]

theorem RoundTrip.cas (p : Pm) (t : Tgt) (lsid : BitVec 4) (sz : Sz) (imm : BitVec 7) : RoundTrip.Statement (.cas p t lsid sz imm) :=
  fun _ _ => by
    show decode (fmtM 0x3E p t.code lsid sz.code imm) = _
    rw [decode_3E (fmtM_op 0x3E _ _ _ _ _)]
    simp [bind, Except.bind]

theorem RoundTrip.atoml (p : Pm) (t : Tgt) (lsid : BitVec 4) (sz : Sz) (sub : AtomSub) (off : BitVec 3) : RoundTrip.Statement (.atoml p t lsid sz sub off) :=
  fun _ _ => by
    show decode (fmtM 0x3F p t.code lsid sz.code (sub.code ++ off)) = _
    rw [decode_3F (fmtM_op 0x3F _ _ _ _ _)]
    simp [bind, Except.bind]

theorem RoundTrip.bufdef (p : Pm) (h : BitVec 5) : RoundTrip.Statement (.bufdef p h) :=
  fun _ _ => by
    show decode (fmtA 0x40 p 0 0 h) = _
    rw [decode_40 (fmtA_op 0x40 _ _ _ _)]
    simp

theorem RoundTrip.bufget (p : Pm) (t : Tgt) (u : Tgt) (h : BitVec 5) : RoundTrip.Statement (.bufget p t u h) :=
  fun _ _ => by
    show decode (fmtA 0x41 p t.code u.code h) = _
    rw [decode_41 (fmtA_op 0x41 _ _ _ _)]
    simp

theorem RoundTrip.bufput (p : Pm) (h : BitVec 5) : RoundTrip.Statement (.bufput p h) :=
  fun _ _ => by
    show decode (fmtA 0x42 p 0 0 h) = _
    rw [decode_42 (fmtA_op 0x42 _ _ _ _)]
    simp

theorem RoundTrip.bufstat (p : Pm) (t : Tgt) (u : Tgt) (h : BitVec 5) : RoundTrip.Statement (.bufstat p t u h) :=
  fun _ _ => by
    show decode (fmtA 0x43 p t.code u.code h) = _
    rw [decode_43 (fmtA_op 0x43 _ _ _ _)]
    simp

theorem RoundTrip.cpyopen (p : Pm) (h : BitVec 5) : RoundTrip.Statement (.cpyopen p h) :=
  fun _ _ => by
    show decode (fmtA 0x44 p 0 0 h) = _
    rw [decode_44 (fmtA_op 0x44 _ _ _ _)]
    simp

theorem RoundTrip.cpyclose (p : Pm) (h : BitVec 5) : RoundTrip.Statement (.cpyclose p h) :=
  fun _ _ => by
    show decode (fmtA 0x45 p 0 0 h) = _
    rw [decode_45 (fmtA_op 0x45 _ _ _ _)]
    simp

theorem RoundTrip.cpywait (p : Pm) (t : Tgt) (u : Tgt) (h : BitVec 5) : RoundTrip.Statement (.cpywait p t u h) :=
  fun _ _ => by
    show decode (fmtA 0x46 p t.code u.code h) = _
    rw [decode_46 (fmtA_op 0x46 _ _ _ _)]
    simp

theorem RoundTrip.gather (p : Pm) (t : Tgt) (u : Tgt) (sz : Sz) : RoundTrip.Statement (.gather p t u sz) :=
  fun _ _ => by
    show decode (fmtA 0x47 p t.code u.code (0#2 ++ sz.code)) = _
    rw [decode_47 (fmtA_op 0x47 _ _ _ _)]
    simp [zeroX, bind, Except.bind]

theorem RoundTrip.scatter (p : Pm) (sz : Sz) : RoundTrip.Statement (.scatter p sz) :=
  fun _ _ => by
    show decode (fmtA 0x48 p 0 0 (0#2 ++ sz.code)) = _
    rw [decode_48 (fmtA_op 0x48 _ _ _ _)]
    simp [zeroX, bind, Except.bind]

theorem RoundTrip.epatom (p : Pm) (t : Tgt) (u : Tgt) (sub : AtomSub) : RoundTrip.Statement (.epatom p t u sub) :=
  fun _ _ => by
    show decode (fmtA 0x49 p t.code u.code (0#1 ++ sub.code)) = _
    rw [decode_49 (fmtA_op 0x49 _ _ _ _)]
    simp [zeroX, bind, Except.bind]

theorem RoundTrip.epfence (p : Pm) : RoundTrip.Statement (.epfence p) :=
  fun _ _ => by
    show decode (fmtA 0x4A p 0 0 0#5) = _
    rw [decode_4A (fmtA_op 0x4A _ _ _ _)]
    simp [zeroX, bind, Except.bind]

theorem RoundTrip.lmstream (p : Pm) (t : Tgt) : RoundTrip.Statement (.lmstream p t) :=
  fun _ _ => by
    show decode (fmtA 0x4B p t.code 0 0#5) = _
    rw [decode_4B (fmtA_op 0x4B _ _ _ _)]
    simp [zeroX, noTgt, bind, Except.bind]

theorem RoundTrip.fadd (p : Pm) (t : Tgt) (u : Tgt) (ty : FType) (rnd : Round) : RoundTrip.Statement (.fadd p t u ty rnd) :=
  fun _ _ => by
    show decode (fmtA 0x50 p t.code u.code (ty.code ++ rnd.code)) = _
    rw [decode_50 (fmtA_op 0x50 _ _ _ _)]
    simp [bind, Except.bind]

theorem RoundTrip.fsub (p : Pm) (t : Tgt) (u : Tgt) (ty : FType) (rnd : Round) : RoundTrip.Statement (.fsub p t u ty rnd) :=
  fun _ _ => by
    show decode (fmtA 0x51 p t.code u.code (ty.code ++ rnd.code)) = _
    rw [decode_51 (fmtA_op 0x51 _ _ _ _)]
    simp [bind, Except.bind]

theorem RoundTrip.fmul (p : Pm) (t : Tgt) (u : Tgt) (ty : FType) (rnd : Round) : RoundTrip.Statement (.fmul p t u ty rnd) :=
  fun _ _ => by
    show decode (fmtA 0x52 p t.code u.code (ty.code ++ rnd.code)) = _
    rw [decode_52 (fmtA_op 0x52 _ _ _ _)]
    simp [bind, Except.bind]

theorem RoundTrip.fma (p : Pm) (t : Tgt) (u : Tgt) (ty : FType) (rnd : Round) : RoundTrip.Statement (.fma p t u ty rnd) :=
  fun _ _ => by
    show decode (fmtA 0x53 p t.code u.code (ty.code ++ rnd.code)) = _
    rw [decode_53 (fmtA_op 0x53 _ _ _ _)]
    simp [bind, Except.bind]

theorem RoundTrip.fdiv (p : Pm) (t : Tgt) (u : Tgt) (ty : FType) (rnd : Round) : RoundTrip.Statement (.fdiv p t u ty rnd) :=
  fun _ _ => by
    show decode (fmtA 0x54 p t.code u.code (ty.code ++ rnd.code)) = _
    rw [decode_54 (fmtA_op 0x54 _ _ _ _)]
    simp [bind, Except.bind]

theorem RoundTrip.fsqrt (p : Pm) (t : Tgt) (u : Tgt) (ty : FType) (rnd : Round) : RoundTrip.Statement (.fsqrt p t u ty rnd) :=
  fun _ _ => by
    show decode (fmtA 0x55 p t.code u.code (ty.code ++ rnd.code)) = _
    rw [decode_55 (fmtA_op 0x55 _ _ _ _)]
    simp [bind, Except.bind]

theorem RoundTrip.frsq (p : Pm) (t : Tgt) (u : Tgt) (ty : FType) (rnd : Round) : RoundTrip.Statement (.frsq p t u ty rnd) :=
  fun _ _ => by
    show decode (fmtA 0x56 p t.code u.code (ty.code ++ rnd.code)) = _
    rw [decode_56 (fmtA_op 0x56 _ _ _ _)]
    simp [bind, Except.bind]

theorem RoundTrip.fminmax (p : Pm) (t : Tgt) (u : Tgt) (ty : FType) (sub : MinMaxSub) : RoundTrip.Statement (.fminmax p t u ty sub) :=
  fun _ _ => by
    show decode (fmtA 0x57 p t.code u.code (ty.code ++ sub.code)) = _
    rw [decode_57 (fmtA_op 0x57 _ _ _ _)]
    simp [bind, Except.bind]

theorem RoundTrip.fcmp (p : Pm) (t : Tgt) (u : Tgt) (ty : FType) (sub : FCmpSub) : RoundTrip.Statement (.fcmp p t u ty sub) :=
  fun _ _ => by
    show decode (fmtA 0x58 p t.code u.code (ty.code ++ sub.code)) = _
    rw [decode_58 (fmtA_op 0x58 _ _ _ _)]
    simp [bind, Except.bind]

theorem RoundTrip.fclass (p : Pm) (t : Tgt) (u : Tgt) (ty : FType) : RoundTrip.Statement (.fclass p t u ty) :=
  fun _ _ => by
    show decode (fmtA 0x59 p t.code u.code (ty.code ++ 0#2)) = _
    rw [decode_59 (fmtA_op 0x59 _ _ _ _)]
    simp [zeroX, bind, Except.bind]

theorem RoundTrip.fsign (p : Pm) (t : Tgt) (u : Tgt) (ty : FType) (sub : FSignSub) : RoundTrip.Statement (.fsign p t u ty sub) :=
  fun _ _ => by
    show decode (fmtA 0x5A p t.code u.code (ty.code ++ sub.code)) = _
    rw [decode_5A (fmtA_op 0x5A _ _ _ _)]
    simp [bind, Except.bind]

theorem RoundTrip.frnd (p : Pm) (t : Tgt) (u : Tgt) (ty : FType) (rnd : Round) : RoundTrip.Statement (.frnd p t u ty rnd) :=
  fun _ _ => by
    show decode (fmtA 0x5B p t.code u.code (ty.code ++ rnd.code)) = _
    rw [decode_5B (fmtA_op 0x5B _ _ _ _)]
    simp [bind, Except.bind]

theorem RoundTrip.fexp2 (p : Pm) (t : Tgt) (u : Tgt) (ty : FType) (rnd : Round) : RoundTrip.Statement (.fexp2 p t u ty rnd) :=
  fun _ _ => by
    show decode (fmtA 0x5C p t.code u.code (ty.code ++ rnd.code)) = _
    rw [decode_5C (fmtA_op 0x5C _ _ _ _)]
    simp [bind, Except.bind]

theorem RoundTrip.flog2 (p : Pm) (t : Tgt) (u : Tgt) (ty : FType) (rnd : Round) : RoundTrip.Statement (.flog2 p t u ty rnd) :=
  fun _ _ => by
    show decode (fmtA 0x5D p t.code u.code (ty.code ++ rnd.code)) = _
    rw [decode_5D (fmtA_op 0x5D _ _ _ _)]
    simp [bind, Except.bind]

theorem RoundTrip.cvt (p : Pm) (t : Tgt) (dty : FType) (rsd : Bool) (part : BitVec 2) (ty : FType) (rnd : Round) : RoundTrip.Statement (.cvt p t dty rsd part ty rnd) :=
  fun _ _ => by
    show decode (fmtI 0x5E p t.code (dty.code ++ bit rsd ++ part ++ 0#3 ++ ty.code ++ rnd.code)) = _
    rw [decode_5E (fmtI_op 0x5E _ _ _)]
    simp [zeroX, bitOf, bind, Except.bind]

theorem RoundTrip.cvti (p : Pm) (t : Tgt) (iw : IntWidth) (sg : Bool) (ty : FType) (rnd : Round) : RoundTrip.Statement (.cvti p t iw sg ty rnd) :=
  fun _ _ => by
    show decode (fmtI 0x5F p t.code (iw.code ++ bit sg ++ 0#6 ++ ty.code ++ rnd.code)) = _
    rw [decode_5F (fmtI_op 0x5F _ _ _)]
    simp [zeroX, bitOf, bind, Except.bind]

theorem RoundTrip.cvtf (p : Pm) (t : Tgt) (iw : IntWidth) (sg : Bool) (ty : FType) (rnd : Round) : RoundTrip.Statement (.cvtf p t iw sg ty rnd) :=
  fun _ _ => by
    show decode (fmtI 0x60 p t.code (iw.code ++ bit sg ++ 0#6 ++ ty.code ++ rnd.code)) = _
    rw [decode_60 (fmtI_op 0x60 _ _ _)]
    simp [zeroX, bitOf, bind, Except.bind]

theorem RoundTrip.gxpack (p : Pm) (t : Tgt) (u : Tgt) (gw : GxWidth) : RoundTrip.Statement (.gxpack p t u gw) :=
  fun _ _ => by
    show decode (fmtA 0x61 p t.code u.code (6#3 ++ gw.code)) = _
    rw [decode_61 (fmtA_op 0x61 _ _ _ _)]
    simp [bind, Except.bind]

theorem RoundTrip.gxunp (p : Pm) (t : Tgt) (u : Tgt) (ty : FType) (gw : GxWidth) : RoundTrip.Statement (.gxunp p t u ty gw) :=
  fun _ _ => by
    show decode (fmtA 0x62 p t.code u.code (ty.code ++ gw.code)) = _
    rw [decode_62 (fmtA_op 0x62 _ _ _ _)]
    simp [bind, Except.bind]

theorem RoundTrip.vred (p : Pm) (t : Tgt) (u : Tgt) (ty : VType) (rnd : Round) : RoundTrip.Statement (.vred p t u ty rnd) :=
  fun _ _ => by
    show decode (fmtA 0x63 p t.code u.code (1#1 ++ ty.code ++ rnd.code)) = _
    rw [decode_63 (fmtA_op 0x63 _ _ _ _)]
    simp [bind, Except.bind]

theorem RoundTrip.vshuf (p : Pm) (t : Tgt) (u : Tgt) (ty : VType) (rot : Bool) : RoundTrip.Statement (.vshuf p t u ty rot) :=
  fun _ _ => by
    show decode (fmtA 0x64 p t.code u.code (1#1 ++ ty.code ++ 0#1 ++ bit rot)) = _
    rw [decode_64 (fmtA_op 0x64 _ _ _ _)]
    simp [zeroX, bitOf, bind, Except.bind]

theorem RoundTrip.vbcast (p : Pm) (t : Tgt) (u : Tgt) (ty : VType) : RoundTrip.Statement (.vbcast p t u ty) :=
  fun _ _ => by
    show decode (fmtA 0x65 p t.code u.code (1#1 ++ ty.code ++ 0#2)) = _
    rw [decode_65 (fmtA_op 0x65 _ _ _ _)]
    simp [zeroX, bind, Except.bind]

theorem RoundTrip.vlane (p : Pm) (t : Tgt) (u : Tgt) (ty : VType) (put : Bool) : RoundTrip.Statement (.vlane p t u ty put) :=
  fun _ _ => by
    show decode (fmtA 0x66 p t.code u.code (1#1 ++ ty.code ++ 0#1 ++ bit put)) = _
    rw [decode_66 (fmtA_op 0x66 _ _ _ _)]
    simp [zeroX, bitOf, bind, Except.bind]

theorem RoundTrip.vdot (p : Pm) (t : Tgt) (u : Tgt) (ty : FType) (rnd : Round) : RoundTrip.Statement (.vdot p t u ty rnd) :=
  fun _ _ => by
    show decode (fmtA 0x67 p t.code u.code (ty.code ++ rnd.code)) = _
    rw [decode_67 (fmtA_op 0x67 _ _ _ _)]
    simp [bind, Except.bind]

theorem RoundTrip.mlda (p : Pm) (ty : MatType) (buf : Bool) : RoundTrip.Statement (.mlda p ty buf) :=
  fun _ _ => by
    show decode (fmtA 0x68 p 0 0 (ty.code ++ 0#1 ++ bit buf)) = _
    rw [decode_68 (fmtA_op 0x68 _ _ _ _)]
    simp [zeroX, bitOf, bind, Except.bind]

theorem RoundTrip.mldb (p : Pm) (ty : MatType) (buf : Bool) : RoundTrip.Statement (.mldb p ty buf) :=
  fun _ _ => by
    show decode (fmtA 0x69 p 0 0 (ty.code ++ 0#1 ++ bit buf)) = _
    rw [decode_69 (fmtA_op 0x69 _ _ _ _)]
    simp [zeroX, bitOf, bind, Except.bind]

theorem RoundTrip.mldl (p : Pm) (ty : MatType) (buf : TileBuf) : RoundTrip.Statement (.mldl p ty buf) :=
  fun _ _ => by
    show decode (fmtA 0x6A p 0 0 (ty.code ++ buf.code)) = _
    rw [decode_6A (fmtA_op 0x6A _ _ _ _)]
    simp [bind, Except.bind]

theorem RoundTrip.mma (p : Pm) (ty : MatType) (mode : MmaMode) : RoundTrip.Statement (.mma p ty mode) :=
  fun _ _ => by
    show decode (fmtA 0x6B p 0 0 (ty.code ++ mode.code)) = _
    rw [decode_6B (fmtA_op 0x6B _ _ _ _)]
    simp [bind, Except.bind]

theorem RoundTrip.mst (p : Pm) (ty : MatType) (acc : BitVec 2) : RoundTrip.Statement (.mst p ty acc) :=
  fun _ _ => by
    show decode (fmtA 0x6C p 0 0 (ty.code ++ acc)) = _
    rw [decode_6C (fmtA_op 0x6C _ _ _ _)]
    simp [bind, Except.bind]

theorem RoundTrip.mrel (p : Pm) (t : Tgt) (ty : MatType) (acc : BitVec 2) : RoundTrip.Statement (.mrel p t ty acc) :=
  fun _ _ => by
    show decode (fmtA 0x6D p t.code 0 (ty.code ++ acc)) = _
    rw [decode_6D (fmtA_op 0x6D _ _ _ _)]
    simp [noTgt, bind, Except.bind]

theorem RoundTrip.mjob (p : Pm) (ty : MatType) (acc : BitVec 2) : RoundTrip.Statement (.mjob p ty acc) :=
  fun _ _ => by
    show decode (fmtA 0x6E p 0 0 (ty.code ++ acc)) = _
    rw [decode_6E (fmtA_op 0x6E _ _ _ _)]
    simp [bind, Except.bind]

theorem RoundTrip.ctr (p : Pm) (t : Tgt) (u : Tgt) (bp : Bool) (reg : BitVec 4) : RoundTrip.Statement (.ctr p t u bp reg) :=
  fun _ _ => by
    show decode (fmtA 0x6F p t.code u.code (bit bp ++ reg)) = _
    rw [decode_6F (fmtA_op 0x6F _ _ _ _)]
    simp [bitOf]

theorem RoundTrip.pldef (p : Pm) (plane : BitVec 4) : RoundTrip.Statement (.pldef p plane) :=
  fun _ _ => by
    show decode (fmtA 0x70 p 0 0 (0#1 ++ plane)) = _
    rw [decode_70 (fmtA_op 0x70 _ _ _ _)]
    simp [zeroX, bind, Except.bind]

theorem RoundTrip.pshift (p : Pm) (cst : Bool) : RoundTrip.Statement (.pshift p cst) :=
  fun _ _ => by
    show decode (fmtA 0x71 p 0 0 (0#4 ++ bit cst)) = _
    rw [decode_71 (fmtA_op 0x71 _ _ _ _)]
    simp [zeroX, bitOf, bind, Except.bind]

theorem RoundTrip.pstep (p : Pm) : RoundTrip.Statement (.pstep p) :=
  fun _ _ => by
    show decode (fmtA 0x72 p 0 0 0#5) = _
    rw [decode_72 (fmtA_op 0x72 _ _ _ _)]
    simp [zeroX, bind, Except.bind]

theorem RoundTrip.pact (p : Pm) (t : Tgt) (u : Tgt) (sub : PactSub) : RoundTrip.Statement (.pact p t u sub) :=
  fun _ _ => by
    show decode (fmtA 0x73 p t.code u.code (0#2 ++ sub.code)) = _
    rw [decode_73 (fmtA_op 0x73 _ _ _ _)]
    simp [zeroX, bind, Except.bind]

theorem RoundTrip.psum (p : Pm) (t : Tgt) (u : Tgt) (sub : PsumSub) : RoundTrip.Statement (.psum p t u sub) :=
  fun _ _ => by
    show decode (fmtA 0x74 p t.code u.code (0#3 ++ sub.code)) = _
    rw [decode_74 (fmtA_op 0x74 _ _ _ _)]
    simp [zeroX, bind, Except.bind]

theorem RoundTrip.pcopy (p : Pm) (sub : PcopySub) : RoundTrip.Statement (.pcopy p sub) :=
  fun _ _ => by
    show decode (fmtA 0x75 p 0 0 (0#3 ++ sub.code)) = _
    rw [decode_75 (fmtA_op 0x75 _ _ _ _)]
    simp [zeroX, bind, Except.bind]

theorem RoundTrip.lmarch (p : Pm) (t : Tgt) (u : Tgt) (plane : BitVec 4) : RoundTrip.Statement (.lmarch p t u plane) :=
  fun _ _ => by
    show decode (fmtA 0x76 p t.code u.code (0#1 ++ plane)) = _
    rw [decode_76 (fmtA_op 0x76 _ _ _ _)]
    simp [zeroX, bind, Except.bind]

theorem RoundTrip.site (p : Pm) (t : Tgt) (u : Tgt) (sel : SiteSel) : RoundTrip.Statement (.site p t u sel) :=
  fun _ _ => by
    show decode (fmtA 0x77 p t.code u.code sel.code) = _
    rw [decode_77 (fmtA_op 0x77 _ _ _ _)]
    simp [bind, Except.bind]

theorem RoundTrip.timeNow (p : Pm) (t : Tgt) (u : Tgt) : RoundTrip.Statement (.timeNow p t u) :=
  fun _ _ => by
    show decode (fmtA 0x78 p t.code u.code 0#5) = _
    rw [decode_78 (fmtA_op 0x78 _ _ _ _)]
    simp

theorem RoundTrip.timeCmp (p : Pm) (t : Tgt) (u : Tgt) : RoundTrip.Statement (.timeCmp p t u) :=
  fun _ _ => by
    show decode (fmtA 0x78 p t.code u.code 1#5) = _
    rw [decode_78 (fmtA_op 0x78 _ _ _ _)]
    simp

theorem RoundTrip.timeMake (p : Pm) (t : Tgt) (u : Tgt) : RoundTrip.Statement (.timeMake p t u) :=
  fun _ _ => by
    show decode (fmtA 0x78 p t.code u.code 2#5) = _
    rw [decode_78 (fmtA_op 0x78 _ _ _ _)]
    simp

theorem RoundTrip.timeField (p : Pm) (t : Tgt) (u : Tgt) : RoundTrip.Statement (.timeField p t u) :=
  fun _ _ => by
    show decode (fmtA 0x78 p t.code u.code 3#5) = _
    rw [decode_78 (fmtA_op 0x78 _ _ _ _)]
    simp

theorem RoundTrip.frontRead (p : Pm) (t : Tgt) (u : Tgt) : RoundTrip.Statement (.frontRead p t u) :=
  fun _ _ => by
    show decode (fmtA 0x79 p t.code u.code 0#5) = _
    rw [decode_79 (fmtA_op 0x79 _ _ _ _)]
    simp

theorem RoundTrip.frontWait (p : Pm) (t : Tgt) (u : Tgt) : RoundTrip.Statement (.frontWait p t u) :=
  fun _ _ => by
    show decode (fmtA 0x79 p t.code u.code 1#5) = _
    rw [decode_79 (fmtA_op 0x79 _ _ _ _)]
    simp

theorem RoundTrip.frontSubscribe (p : Pm) : RoundTrip.Statement (.frontSubscribe p) :=
  fun _ _ => by
    show decode (fmtA 0x79 p 0 0 2#5) = _
    rw [decode_79 (fmtA_op 0x79 _ _ _ _)]
    simp

theorem RoundTrip.tcapNew (p : Pm) (t : Tgt) (u : Tgt) : RoundTrip.Statement (.tcapNew p t u) :=
  fun _ _ => by
    show decode (fmtA 0x7A p t.code u.code 0#5) = _
    rw [decode_7A (fmtA_op 0x7A _ _ _ _)]
    simp

theorem RoundTrip.tcapAdvance (p : Pm) : RoundTrip.Statement (.tcapAdvance p) :=
  fun _ _ => by
    show decode (fmtA 0x7A p 0 0 1#5) = _
    rw [decode_7A (fmtA_op 0x7A _ _ _ _)]
    simp

theorem RoundTrip.tcapDrop (p : Pm) : RoundTrip.Statement (.tcapDrop p) :=
  fun _ _ => by
    show decode (fmtA 0x7A p 0 0 2#5) = _
    rw [decode_7A (fmtA_op 0x7A _ _ _ _)]
    simp

theorem RoundTrip.callq (p : Pm) (queue : Queue) (ord : Bool) : RoundTrip.Statement (.callq p queue ord) :=
  fun _ _ => by
    show decode (fmtA 0x7B p 0 0 (queue.code ++ bit ord ++ 0#1)) = _
    rw [decode_7B (fmtA_op 0x7B _ _ _ _)]
    simp [zeroX, bitOf, bind, Except.bind]

theorem RoundTrip.sysTrap (p : Pm) : RoundTrip.Statement (.sysTrap p) :=
  fun _ _ => by
    show decode (fmtA 0x7C p 0 0 0#5) = _
    rw [decode_7C (fmtA_op 0x7C _ _ _ _)]
    simp

theorem RoundTrip.sysEret (p : Pm) : RoundTrip.Statement (.sysEret p) :=
  fun _ _ => by
    show decode (fmtA 0x7C p 0 0 1#5) = _
    rw [decode_7C (fmtA_op 0x7C _ _ _ _)]
    simp

theorem RoundTrip.sysBkpt (p : Pm) : RoundTrip.Statement (.sysBkpt p) :=
  fun _ _ => by
    show decode (fmtA 0x7C p 0 0 2#5) = _
    rw [decode_7C (fmtA_op 0x7C _ _ _ _)]
    simp

theorem RoundTrip.sysFeatq (p : Pm) (t : Tgt) (u : Tgt) : RoundTrip.Statement (.sysFeatq p t u) :=
  fun _ _ => by
    show decode (fmtA 0x7C p t.code u.code 3#5) = _
    rw [decode_7C (fmtA_op 0x7C _ _ _ _)]
    simp

theorem RoundTrip.sysWdog (p : Pm) (t : Tgt) (u : Tgt) : RoundTrip.Statement (.sysWdog p t u) :=
  fun _ _ => by
    show decode (fmtA 0x7C p t.code u.code 4#5) = _
    rw [decode_7C (fmtA_op 0x7C _ _ _ _)]
    simp

theorem RoundTrip.sysPmonctl (p : Pm) : RoundTrip.Statement (.sysPmonctl p) :=
  fun _ _ => by
    show decode (fmtA 0x7C p 0 0 5#5) = _
    rw [decode_7C (fmtA_op 0x7C _ _ _ _)]
    simp

theorem RoundTrip.sysPmonrd (p : Pm) (t : Tgt) (u : Tgt) : RoundTrip.Statement (.sysPmonrd p t u) :=
  fun _ _ => by
    show decode (fmtA 0x7C p t.code u.code 6#5) = _
    rw [decode_7C (fmtA_op 0x7C _ _ _ _)]
    simp

theorem RoundTrip.sysRrmark (p : Pm) : RoundTrip.Statement (.sysRrmark p) :=
  fun _ _ => by
    show decode (fmtA 0x7C p 0 0 7#5) = _
    rw [decode_7C (fmtA_op 0x7C _ _ _ _)]
    simp

theorem RoundTrip.sysTlbinv (p : Pm) : RoundTrip.Statement (.sysTlbinv p) :=
  fun _ _ => by
    show decode (fmtA 0x7C p 0 0 8#5) = _
    rw [decode_7C (fmtA_op 0x7C _ _ _ _)]
    simp

theorem RoundTrip.sysCsload (p : Pm) : RoundTrip.Statement (.sysCsload p) :=
  fun _ _ => by
    show decode (fmtA 0x7C p 0 0 9#5) = _
    rw [decode_7C (fmtA_op 0x7C _ _ _ _)]
    simp

theorem RoundTrip.sregRd (p : Pm) (t : Tgt) (num : BitVec 13) : RoundTrip.Statement (.sregRd p t num) :=
  fun _ _ => by
    show decode (fmtI 0x7D p t.code (0#1 ++ num)) = _
    rw [decode_7D (fmtI_op 0x7D _ _ _)]
    simp [bitOf]

theorem RoundTrip.sregWr (p : Pm) (num : BitVec 13) : RoundTrip.Statement (.sregWr p num) :=
  fun _ _ => by
    show decode (fmtI 0x7D p 0 (1#1 ++ num)) = _
    rw [decode_7D (fmtI_op 0x7D _ _ _)]
    simp [noTgt, bitOf, pmOf, bind, Except.bind]

theorem RoundTrip.sectCfgload (p : Pm) : RoundTrip.Statement (.sectCfgload p) :=
  fun _ _ => by
    show decode (fmtA 0x7E p 0 0 0#5) = _
    rw [decode_7E (fmtA_op 0x7E _ _ _ _)]
    simp

theorem RoundTrip.sectArm (p : Pm) : RoundTrip.Statement (.sectArm p) :=
  fun _ _ => by
    show decode (fmtA 0x7E p 0 0 1#5) = _
    rw [decode_7E (fmtA_op 0x7E _ _ _ _)]
    simp

theorem RoundTrip.sectBound (p : Pm) : RoundTrip.Statement (.sectBound p) :=
  fun _ _ => by
    show decode (fmtA 0x7E p 0 0 2#5) = _
    rw [decode_7E (fmtA_op 0x7E _ _ _ _)]
    simp

theorem RoundTrip.sectDrain (p : Pm) : RoundTrip.Statement (.sectDrain p) :=
  fun _ _ => by
    show decode (fmtA 0x7E p 0 0 3#5) = _
    rw [decode_7E (fmtA_op 0x7E _ _ _ _)]
    simp

theorem RoundTrip.sectSinkw (p : Pm) (t : Tgt) (u : Tgt) : RoundTrip.Statement (.sectSinkw p t u) :=
  fun _ _ => by
    show decode (fmtA 0x7E p t.code u.code 4#5) = _
    rw [decode_7E (fmtA_op 0x7E _ _ _ _)]
    simp

theorem RoundTrip.sectRelease (p : Pm) : RoundTrip.Statement (.sectRelease p) :=
  fun _ _ => by
    show decode (fmtA 0x7E p 0 0 5#5) = _
    rw [decode_7E (fmtA_op 0x7E _ _ _ _)]
    simp

theorem RoundTrip.sectGred (p : Pm) (t : Tgt) (u : Tgt) : RoundTrip.Statement (.sectGred p t u) :=
  fun _ _ => by
    show decode (fmtA 0x7E p t.code u.code 6#5) = _
    rw [decode_7E (fmtA_op 0x7E _ _ _ _)]
    simp

theorem RoundTrip.sectGbcast (p : Pm) : RoundTrip.Statement (.sectGbcast p) :=
  fun _ _ => by
    show decode (fmtA 0x7E p 0 0 7#5) = _
    rw [decode_7E (fmtA_op 0x7E _ _ _ _)]
    simp

theorem RoundTrip.sliceAccess (slice cls victim : Nat) (sram : SoftError) : RoundTrip.Statement (.sliceAccess slice cls victim sram) :=
  fun h => nomatch h

theorem RoundTrip.sectorFill (slice idx : Nat) (ecc : SoftError) : RoundTrip.Statement (.sectorFill slice idx ecc) :=
  fun h => nomatch h

theorem RoundTrip.bolterFill (slice idx : Nat) : RoundTrip.Statement (.bolterFill slice idx) :=
  fun h => nomatch h

theorem RoundTrip.scrubRead (line : Nat) (ecc : SoftError) : RoundTrip.Statement (.scrubRead line ecc) :=
  fun h => nomatch h

theorem RoundTrip.mailboxForward (slice tag : Nat) : RoundTrip.Statement (.mailboxForward slice tag) :=
  fun h => nomatch h

theorem RoundTrip.relayForward (packet : Nat) : RoundTrip.Statement (.relayForward packet) :=
  fun h => nomatch h

theorem RoundTrip.artEntryEnable (entry : Nat) (stride : BitVec 5) : RoundTrip.Statement (.artEntryEnable entry stride) :=
  fun h => nomatch h

theorem RoundTrip.artEntryDisable (entry : Nat) : RoundTrip.Statement (.artEntryDisable entry) :=
  fun h => nomatch h

theorem RoundTrip.ownerTagWrite (page : Nat) (tag : BitVec 16) : RoundTrip.Statement (.ownerTagWrite page tag) :=
  fun h => nomatch h

theorem RoundTrip.errorLogFree (slice entry : Nat) : RoundTrip.Statement (.errorLogFree slice entry) :=
  fun h => nomatch h

theorem RoundTrip.lostClear (slice : Nat) : RoundTrip.Statement (.lostClear slice) :=
  fun h => nomatch h

theorem RoundTrip.writeBackRange : RoundTrip.Statement .writeBackRange :=
  fun h => nomatch h

theorem RoundTrip.writeBackInvalidateRange : RoundTrip.Statement .writeBackInvalidateRange :=
  fun h => nomatch h

theorem RoundTrip.writeBackInvalidateAll : RoundTrip.Statement .writeBackInvalidateAll :=
  fun h => nomatch h

theorem RoundTrip.rebase : RoundTrip.Statement .rebase :=
  fun h => nomatch h

theorem RoundTrip.maintenanceDone : RoundTrip.Statement .maintenanceDone :=
  fun h => nomatch h

theorem RoundTrip.formatWindowEnable (window : Nat) (word3 : W64) : RoundTrip.Statement (.formatWindowEnable window word3) :=
  fun h => nomatch h

theorem RoundTrip.formatWindowDisable (window : Nat) : RoundTrip.Statement (.formatWindowDisable window) :=
  fun h => nomatch h

theorem RoundTrip.registerWrite (place : RegPlace) (value : W64) : RoundTrip.Statement (.registerWrite place value) :=
  fun h => nomatch h

theorem RoundTrip.pageResume (job vpage : Nat) : RoundTrip.Statement (.pageResume job vpage) :=
  fun h => nomatch h

theorem RoundTrip.pageRefuse (job vpage : Nat) : RoundTrip.Statement (.pageRefuse job vpage) :=
  fun h => nomatch h

theorem RoundTrip.withheldTimeout (idx : Nat) : RoundTrip.Statement (.withheldTimeout idx) :=
  fun h => nomatch h

theorem RoundTrip.deviceReply (packet : Nat) : RoundTrip.Statement (.deviceReply packet) :=
  fun h => nomatch h

theorem RoundTrip.copyTileStart (bay stream : Nat) : RoundTrip.Statement (.copyTileStart bay stream) :=
  fun h => nomatch h

theorem RoundTrip.copyTileComplete (bay stream : Nat) (host : List Byte) : RoundTrip.Statement (.copyTileComplete bay stream host) :=
  fun h => nomatch h

theorem RoundTrip.copyPoison (bay stream : Nat) (fcode : BitVec 7) : RoundTrip.Statement (.copyPoison bay stream fcode) :=
  fun h => nomatch h

theorem RoundTrip.freeNotice (bay stream : Nat) : RoundTrip.Statement (.freeNotice bay stream) :=
  fun h => nomatch h

theorem RoundTrip.fullNotice (bay stream : Nat) : RoundTrip.Statement (.fullNotice bay stream) :=
  fun h => nomatch h

theorem RoundTrip.copyMarker (bay : Nat) : RoundTrip.Statement (.copyMarker bay) :=
  fun h => nomatch h

theorem RoundTrip.pageRefill (pe page : Nat) : RoundTrip.Statement (.pageRefill pe page) :=
  fun h => nomatch h

theorem RoundTrip.frameWriteback (pe page : Nat) : RoundTrip.Statement (.frameWriteback pe page) :=
  fun h => nomatch h

theorem RoundTrip.fullEmptyWake (pe granule : Nat) : RoundTrip.Statement (.fullEmptyWake pe granule) :=
  fun h => nomatch h

theorem RoundTrip.lmstreamSourceToken (pe : Nat) : RoundTrip.Statement (.lmstreamSourceToken pe) :=
  fun h => nomatch h

theorem RoundTrip.lmstreamSinkToken (pe : Nat) : RoundTrip.Statement (.lmstreamSinkToken pe) :=
  fun h => nomatch h

theorem RoundTrip.tokenHop (pe tag : Nat) : RoundTrip.Statement (.tokenHop pe tag) :=
  fun h => nomatch h

theorem RoundTrip.packetHop (packet : Nat) (merge : Option Nat) : RoundTrip.Statement (.packetHop packet merge) :=
  fun h => nomatch h

theorem RoundTrip.requestDamaged (packet : Nat) : RoundTrip.Statement (.requestDamaged packet) :=
  fun h => nomatch h

theorem RoundTrip.replyResend (packet : Nat) : RoundTrip.Statement (.replyResend packet) :=
  fun h => nomatch h

theorem RoundTrip.linkuncorr (packet : Nat) : RoundTrip.Statement (.linkuncorr packet) :=
  fun h => nomatch h

theorem RoundTrip.circuitUncorr (pe tag : Nat) : RoundTrip.Statement (.circuitUncorr pe tag) :=
  fun h => nomatch h

theorem RoundTrip.softerr (pe : Nat) : RoundTrip.Statement (.softerr pe) :=
  fun h => nomatch h

theorem RoundTrip.confArrival (pe : Nat) : RoundTrip.Statement (.confArrival pe) :=
  fun h => nomatch h

theorem RoundTrip.configSwitch (pe : Nat) : RoundTrip.Statement (.configSwitch pe) :=
  fun h => nomatch h

theorem RoundTrip.nodeFiring (pe : Nat) : RoundTrip.Statement (.nodeFiring pe) :=
  fun h => nomatch h

theorem RoundTrip.sourceFiring (pe : Nat) : RoundTrip.Statement (.sourceFiring pe) :=
  fun h => nomatch h

theorem RoundTrip.agAdmit (ag : Nat) : RoundTrip.Statement (.agAdmit ag) :=
  fun h => nomatch h

theorem RoundTrip.controlBlockFetch (region : Nat) : RoundTrip.Statement (.controlBlockFetch region) :=
  fun h => nomatch h

theorem RoundTrip.blockCommit : RoundTrip.Statement .blockCommit :=
  fun h => nomatch h

theorem RoundTrip.coalesceLaunch (pe port : Nat) : RoundTrip.Statement (.coalesceLaunch pe port) :=
  fun h => nomatch h

theorem RoundTrip.coalesceTimeout (pe port : Nat) : RoundTrip.Statement (.coalesceTimeout pe port) :=
  fun h => nomatch h

theorem RoundTrip.streamBlockSelect (region : Nat) : RoundTrip.Statement (.streamBlockSelect region) :=
  fun h => nomatch h

theorem RoundTrip.streamThreadReport (region pe : Nat) : RoundTrip.Statement (.streamThreadReport region pe) :=
  fun h => nomatch h

theorem RoundTrip.countBatchForward (unit : CountPlace) (mergeNext : Bool) : RoundTrip.Statement (.countBatchForward unit mergeNext) :=
  fun h => nomatch h

theorem RoundTrip.rootBatchApply (job : Nat) : RoundTrip.Statement (.rootBatchApply job) :=
  fun h => nomatch h

theorem RoundTrip.announcementArrival (job idx : Nat) : RoundTrip.Statement (.announcementArrival job idx) :=
  fun h => nomatch h

theorem RoundTrip.peerBatch (job : Nat) (changes : PeerChanges) (stamp : Nat) :
    RoundTrip.Statement (.peerBatch job changes stamp) :=
  fun h => nomatch h

theorem RoundTrip.peerConnectionLoss (job : Nat) : RoundTrip.Statement (.peerConnectionLoss job) :=
  fun h => nomatch h

theorem RoundTrip.mmaExecute (pe : Nat) (residueOk : Bool) : RoundTrip.Statement (.mmaExecute pe residueOk) :=
  fun h => nomatch h

theorem RoundTrip.tileLoadExecute (pe : Nat) : RoundTrip.Statement (.tileLoadExecute pe) :=
  fun h => nomatch h

theorem RoundTrip.mstExecute (pe : Nat) : RoundTrip.Statement (.mstExecute pe) :=
  fun h => nomatch h

theorem RoundTrip.mrelExecute (pe : Nat) : RoundTrip.Statement (.mrelExecute pe) :=
  fun h => nomatch h

theorem RoundTrip.mjobExecute (pe : Nat) : RoundTrip.Statement (.mjobExecute pe) :=
  fun h => nomatch h

theorem RoundTrip.matrixMarker (pe : Nat) : RoundTrip.Statement (.matrixMarker pe) :=
  fun h => nomatch h

theorem RoundTrip.latticeLocalApply (pe : Nat) : RoundTrip.Statement (.latticeLocalApply pe) :=
  fun h => nomatch h

theorem RoundTrip.pshiftRun (region : Nat) : RoundTrip.Statement (.pshiftRun region) :=
  fun h => nomatch h

theorem RoundTrip.pstepRun (region : Nat) : RoundTrip.Statement (.pstepRun region) :=
  fun h => nomatch h

theorem RoundTrip.marchHandoff (pe : Nat) : RoundTrip.Statement (.marchHandoff pe) :=
  fun h => nomatch h

theorem RoundTrip.callTake (die : Nat) (queue : Queue) (unit : Nat) : RoundTrip.Statement (.callTake die queue unit) :=
  fun h => nomatch h

theorem RoundTrip.callReturn (die : Nat) (queue : Queue) (unit : Nat) : RoundTrip.Statement (.callReturn die queue unit) :=
  fun h => nomatch h

theorem RoundTrip.zbRelease (die unit : Nat) : RoundTrip.Statement (.zbRelease die unit) :=
  fun h => nomatch h

theorem RoundTrip.unitTimeout (die : Nat) (queue : Queue) (unit : Nat) : RoundTrip.Statement (.unitTimeout die queue unit) :=
  fun h => nomatch h

theorem RoundTrip.queueMarker (die : Nat) (queue : Queue) (region : Nat) : RoundTrip.Statement (.queueMarker die queue region) :=
  fun h => nomatch h

theorem RoundTrip.wsEntryRead (job : Nat) : RoundTrip.Statement (.wsEntryRead job) :=
  fun h => nomatch h

theorem RoundTrip.wsPoolEnter (job : Nat) : RoundTrip.Statement (.wsPoolEnter job) :=
  fun h => nomatch h

theorem RoundTrip.wsEntryComplete (job entry : Nat) : RoundTrip.Statement (.wsEntryComplete job entry) :=
  fun h => nomatch h

theorem RoundTrip.sluiceDecision : RoundTrip.Statement .sluiceDecision :=
  fun h => nomatch h

theorem RoundTrip.handlerEntry (region : Nat) : RoundTrip.Statement (.handlerEntry region) :=
  fun h => nomatch h

theorem RoundTrip.qovf (region : Nat) (record : TrapRecord) : RoundTrip.Statement (.qovf region record) :=
  fun h => nomatch h

theorem RoundTrip.deadline (region : Nat) : RoundTrip.Statement (.deadline region) :=
  fun h => nomatch h

theorem RoundTrip.stall (region : Nat) : RoundTrip.Statement (.stall region) :=
  fun h => nomatch h

theorem RoundTrip.haltGraceExpiry (region : Nat) : RoundTrip.Statement (.haltGraceExpiry region) :=
  fun h => nomatch h

theorem RoundTrip.jobdeadline (job : Nat) : RoundTrip.Statement (.jobdeadline job) :=
  fun h => nomatch h

theorem RoundTrip.preemptInject (region : Nat) : RoundTrip.Statement (.preemptInject region) :=
  fun h => nomatch h

theorem RoundTrip.markReceived (pe port : Nat) : RoundTrip.Statement (.markReceived pe port) :=
  fun h => nomatch h

theorem RoundTrip.cutComplete (region : Nat) : RoundTrip.Statement (.cutComplete region) :=
  fun h => nomatch h

theorem RoundTrip.draintimeout (region : Nat) : RoundTrip.Statement (.draintimeout region) :=
  fun h => nomatch h

theorem RoundTrip.restoreContext (context : Nat) : RoundTrip.Statement (.restoreContext context) :=
  fun h => nomatch h

theorem RoundTrip.jobsubmit (conn : Nat) (seq : Word) (pkg : LaunchPackage) : RoundTrip.Statement (.jobsubmit conn seq pkg) :=
  fun h => nomatch h

theorem RoundTrip.jobabort (conn : Nat) (seq : Word) (job : Nat) : RoundTrip.Statement (.jobabort conn seq job) :=
  fun h => nomatch h

theorem RoundTrip.epattach (conn : Nat) (seq : Word) (job idx extent : Nat) : RoundTrip.Statement (.epattach conn seq job idx extent) :=
  fun h => nomatch h

theorem RoundTrip.epdetach (conn : Nat) (seq : Word) (job idx : Nat) : RoundTrip.Statement (.epdetach conn seq job idx) :=
  fun h => nomatch h

theorem RoundTrip.checkpoint (conn : Nat) (seq : Word) (idx : Nat) : RoundTrip.Statement (.checkpoint conn seq idx) :=
  fun h => nomatch h

theorem RoundTrip.restoreImage (conn : Nat) (seq : Word) (idx : Nat) : RoundTrip.Statement (.restoreImage conn seq idx) :=
  fun h => nomatch h

theorem RoundTrip.telemetry (conn : Nat) (seq : Word) : RoundTrip.Statement (.telemetry conn seq) :=
  fun h => nomatch h

theorem RoundTrip.replay (conn : Nat) (seq : Word) (job npass : Nat) : RoundTrip.Statement (.replay conn seq job npass) :=
  fun h => nomatch h

theorem RoundTrip.exportRange (conn : Nat) (seq : Word) (job : Nat) (base len : W64) (perm : BitVec 2) : RoundTrip.Statement (.exportRange conn seq job base len perm) :=
  fun h => nomatch h

theorem RoundTrip.unexportRange (conn : Nat) (seq : Word) (job idx : Nat) : RoundTrip.Statement (.unexportRange conn seq job idx) :=
  fun h => nomatch h

theorem RoundTrip.rmaRead (conn job idx offset len : Nat) : RoundTrip.Statement (.rmaRead conn job idx offset len) :=
  fun h => nomatch h

theorem RoundTrip.rmaWrite (conn job idx offset : Nat) (data : List Byte) : RoundTrip.Statement (.rmaWrite conn job idx offset data) :=
  fun h => nomatch h

theorem RoundTrip.rmaAtomic (conn job idx offset : Nat) (sub : AtomSub) (operand : W64) : RoundTrip.Statement (.rmaAtomic conn job idx offset sub operand) :=
  fun h => nomatch h

theorem RoundTrip.endpointAck (transfer : Nat) (old : W64) : RoundTrip.Statement (.endpointAck transfer old) :=
  fun h => nomatch h

theorem RoundTrip.epfail (transfer : Nat) : RoundTrip.Statement (.epfail transfer) :=
  fun h => nomatch h

theorem RoundTrip.pageCapture (job page : Nat) : RoundTrip.Statement (.pageCapture job page) :=
  fun h => nomatch h

theorem RoundTrip.powerUp : RoundTrip.Statement .powerUp :=
  fun h => nomatch h

theorem RoundTrip.bootImageArrival (hosts : List Nat) (signatureOk : Bool) : RoundTrip.Statement (.bootImageArrival hosts signatureOk) :=
  fun h => nomatch h

theorem RoundTrip.bootRetry : RoundTrip.Statement .bootRetry :=
  fun h => nomatch h

theorem RoundTrip.bayIdleEntry (bay : Nat) : RoundTrip.Statement (.bayIdleEntry bay) :=
  fun h => nomatch h

theorem RoundTrip.thermalThrottle (die celsius : Nat) : RoundTrip.Statement (.thermalThrottle die celsius) :=
  fun h => nomatch h

theorem RoundTrip.thermalShutdown (die celsius : Nat) : RoundTrip.Statement (.thermalShutdown die celsius) :=
  fun h => nomatch h

theorem RoundTrip.breakResume (agent : Agent) : RoundTrip.Statement (.breakResume agent) :=
  fun h => nomatch h

theorem RoundTrip.connectionRequest (host : Nat) : RoundTrip.Statement (.connectionRequest host) :=
  fun h => nomatch h

theorem RoundTrip.badmsg (conn : Nat) (seq : Word) (op : Byte) : RoundTrip.Statement (.badmsg conn seq op) :=
  fun h => nomatch h

theorem RoundTrip.rmaReadResponse (conn : Nat) (data : List Byte) : RoundTrip.Statement (.rmaReadResponse conn data) :=
  fun h => nomatch h

theorem RoundTrip.bayPowerGating (bay : Nat) (off : Bool) : RoundTrip.Statement (.bayPowerGating bay off) :=
  fun h => nomatch h

theorem RoundTrip.selfRefresh (stack : Nat) (on : Bool) : RoundTrip.Statement (.selfRefresh stack on) :=
  fun h => nomatch h

end Sys2Proof.Laws
end

