-- ==== Sys2Proof/Certificates/Slice0/Obligations.lean ====
section
/-! DEFINITION. Obligations of slice 0: what the rules of the manual say of the instructions and of the machine, stated for
the provers. The words that the statements share come first. -/

namespace Sys2Proof.Claim

open Machine

/-- The slot whose turn it is can issue now, with a predicate mode and these operands: its block runs, its predicate matches and
its operands have arrived (09 R138, R144). -/
def Ready (s : State) (p : Pm) (vs : List Value) : Prop := s.cur.ready p vs.length = some vs

/-- An instruction issues and makes deliveries: where each delivery is taken, the next state is `s1` with those deliveries in the
block and the slot issued, and in nothing else does it differ from `s1`. -/
def Delivers (i : Instr) (s s1 : State) (out : List (Tgt × Value)) : Prop :=
  ∀ f, s1.cur.deliverAll out = .ok f → exec i s = .next { s1 with cur := f.mark .issued }

/-- An instruction issues, delivers nothing and changes its block by `g`; nothing else of the state changes. -/
def Acts (i : Instr) (s : State) (g : Frame → Frame) : Prop := exec i s = .next (s.onCur fun f => (g f).mark .issued)

/-- An instruction raises a precise fault. -/
def Traps (i : Instr) (s : State) (t : Trap) : Prop := exec i s = .next (s.raisePrecise t)

/-- An instruction has issued and waits for another agent; nothing else changes. -/
def Waits (i : Instr) (s : State) : Prop := exec i s = .next (s.onCur (·.mark .blocked))

/-- The effects that an event has: it answers a next state of which `q` holds. -/
def Goes (i : Instr) (s : State) (q : State → Prop) : Prop := ∃ t, exec i s = .next t ∧ q t

/-- A slot that has not waited, in a block that has used no LSID and has room for a store: the LSID checks of 09 R149 pass. -/
def Fresh (s : State) : Prop := s.cur.slot.phase = .idle ∧ s.cur.lsids = [] ∧ s.cur.stores < s.cur.nst

end Sys2Proof.Claim

open Sys2Proof Sys2Proof.Machine Sys2Proof.Claim


/-! ## Steps, words and the machine as a whole -/

/-- A step runs the decoded instruction (09 R133, R144, R159; 18 R275): where a slot is due, or the agenda gives it or an event the turn,
step is exec of what its word decodes to, in the state after the cycle has passed; a word that is no well-formed instruction is
ILLINSN; an ordered slot whose turn has not come is passed over (18 R278, R279), and a soft error strikes. What a cycle changes is the
counters of the watchdogs, budgets and performance events, which graph entries are ready, the batches that a port has held for
4,096 cycles (17 R273), and the clocks of bays that have held no region for 1,024 (26 R404). -/
def Obligations.StepRunsDecodedInstruction : Prop :=
  ∀ (s : State) (k : Nat) (i : Instr) (w : Word) (ts : List Turn), s.fabricOff = false →
    let t := s.tick
    let turn := fun (t : State) => t.onCur fun f => { f with turn := k }
    let reads := t.cur.words[k]? = some w ∧ decode w = .ok i ∧ i.wellFormed = true
    let illegal := t.cur.words[k]? = some w ∧ ∀ i, decode w = .ok i → i.wellFormed = false
    (t.agenda = [] → t.cur.dueSlot = some k → reads → step s = exec i (turn t)) ∧
    (t.agenda = .slot k :: ts → t.cur.mayTake k = true → reads → step s = exec i (turn { t with agenda := ts })) ∧
    (t.agenda = .slot k :: ts → t.cur.mayTake k = false → step s = .next { t with agenda := ts }) ∧
    (t.agenda = .event i :: ts → i.encoded = false → step s = exec i { t with agenda := ts }) ∧
    (t.agenda = .slot k :: ts → t.cur.mayTake k = true → illegal →
      step s = .next ((turn { t with agenda := ts }).raisePrecise ⟨.illinsn, 0, 0⟩)) ∧
    (∀ u, t.agenda = .upset u :: ts → step s = .next (({ t with agenda := ts } : State).strike u)) ∧
    t.cycle = s.cycle + 1 ∧ t.cur = s.cur ∧ t.parked = s.parked ∧ t.agenda = s.agenda ∧ t.mem = s.mem ∧
    t.pes = s.pes.mapVals (fun _ p => p.launchAllLate t.cycle) ∧ t.bays = s.bays.mapVals (fun b x => s.cool b (s.count b x)) ∧
    t.slices = s.slices ∧ t.packets = s.packets ∧ t.dies = s.dies

/-- The words that the manual writes out (05; 09 R161; 11 R188, R190, R191; 12; 13 R208; 15; 18; 22; 24), one of each family, decode to what
the manual says they are. -/
def Obligations.DecodesSpecWords : Prop :=
  decode 0x0C008600#32 = .ok (.recv 0 (.opL 3) .none) ∧
  decode 0xA0D14008#32 = .ok (.fadd .ifTrue (.port 5) .none .f32 .rn) ∧
  decode 0x12002E8A#32 = .ok (.join 0 1 .madd (.port 5)) ∧
  decode 0x60118001#32 = .ok (.xlate .always (.opL 6) .none false true) ∧
  decode 0x1E000005#32 = .ok (.fence .always 0 .system) ∧
  decode 0x66514300#32 = .ok (.ld .always (.port 5) 0 .x64 0) ∧
  decode 0x68000700#32 = .ok (.st .always 1 .x64 0) ∧
  decode 0x7A404340#32 = .ok (.atom .always (.reg 1) 0 .x64 .xchg 0) ∧
  decode 0xBC11CC08#32 = .ok (.cvt .always (.opL 7) .bf16 true 0 .f32 .rn) ∧
  decode 0xE2000001#32 = .ok (.pshift .always true) ∧
  decode 0xF6000006#32 = .ok (.callq .always .zb true) ∧
  decode 0xFC404004#32 = .ok (.sectSinkw .always (.reg 1) .none) ∧
  decode 0xF8414003#32 = .ok (.sysFeatq .always (.reg 5) .none) ∧
  decode 0xF8000001#32 = .ok (.sysEret .always) ∧
  decode 0xFA414000#32 = .ok (.sregRd .always (.reg 5) 0)

/-- Decoding an encoded instruction gives it back: every encoded instruction with every operand at every value (09 R135 to R138, R155
to R159), and its word is legal. -/
def Obligations.DecodeAndEncodeAgree : Prop :=
  ∀ i : Instr, i.encoded = true → i.wellFormed = true → decode (encode i) = .ok i ∧ instrOf (encode i) = some i

/-- Every step keeps the canonical form of device memory: addresses strictly rising, and no entry that holds what an unlisted byte
reads as (02 R16 to R20 give the address space; the form is the model's, log entry 1). -/
def Obligations.StepKeepsMemoryCanonical : Prop :=
  ∀ (s t : State), s.mem.wf = true → step s = .next t → t.mem.wf = true

/-- Reset (26 R390; 02 Table 2-2; 24 Table 24-3; 26 R398): the machine waits for POWER_UP with no job, no region and nothing in flight;
memory is canonical and lists nothing; no table entry is enabled and every counter is 0. The values that the manual does not state are the
model's (log entries 1 to 6). -/
def Obligations.ResetIsPowerUp : Prop :=
  let s := State.reset
  s.mem = [] ∧ s.mem.wf = true ∧ s.boot = .cold ∧ s.fabricOff = false ∧ s.jobs = [] ∧ s.packets = [] ∧ s.transfers = [] ∧
  s.cur.live = false ∧ s.maint.busy = false ∧
  (∀ k, s.pe k = Pe.blank ∧ s.region k = Region.blank ∧ (s.artAt k).en = false ∧ s.ownerOf k = 0 ∧ (∀ i, s.counter k i = ⟨false, false, 0, 0⟩) ∧
    (s.slice k).corrHbm = 0 ∧ (s.slice k).lost = 0) ∧
  Region.blank.live = false ∧ Region.blank.status = 0 ∧ Region.blank.tvec = 0 ∧ Region.blank.wdog = 0 ∧ Region.blank.faultq = [] ∧
  Pe.blank.region = none ∧ Pe.blank.active.node = none ∧ Pe.blank.status = 0 ∧ Pe.blank.lpt = [] ∧ Pe.blank.planes = [] ∧
  exec .powerUp s = .next { s with boot := .requested 0 }

/-- The rule of kinds (09 R145), predicates (09 R138) and waiting for operands (09 R144), over the two-operand integer instructions, the
compare and the lane-wise arithmetic: an operand that is not DATA passes the kind of highest precedence on and nothing else happens; a
predicate that does not match leaves nothing, not even NULL; until the operands have arrived nothing happens. -/
def Obligations.KindsPredicatesAndWaiting : Prop :=
  ∀ (s : State) (p : Pm) (t u : Tgt) (sg : Bool) (c : Cond) (ty : FType) (r : Round) (a b : Value) (i : Instr),
    i ∈ [.add p t u, .sub p t u, .mul p t u, .mulh p t u sg, .div p t u sg, .rem p t u sg, .and p t u, .or p t u, .xor p t u,
      .andn p t u, .shl p t u, .shr p t u, .sra p t u, .rot p t u, .min p t u sg, .max p t u sg, .bfx p t u sg, .cmp p t u c sg,
      .fadd p t u ty r, .fsub p t u ty r, .fmul p t u ty r, .fdiv p t u ty r] →
    let some_ := fun (k : Kind) => a.kind = k ∨ b.kind = k
    (∀ k, Ready s p [a, b] → nonData [a, b] = some k → Delivers i s s [(t, .ofKind k), (u, .ofKind k)]) ∧
    (some_ .null → nonData [a, b] = some .null) ∧
    (¬ some_ .null → some_ .err → nonData [a, b] = some .err) ∧
    (¬ some_ .null → ¬ some_ .err → some_ .eos → nonData [a, b] = some .eos) ∧
    (¬ some_ .null → ¬ some_ .err → ¬ some_ .eos → some_ .eor → nonData [a, b] = some .eor) ∧
    (a.kind = .data → b.kind = .bound → nonData [a, b] = some .bound) ∧
    (a.kind = .bound → b.kind = .absent → nonData [a, b] = some .bound) ∧
    (a.kind = .data → b.kind = .data → nonData [a, b] = none) ∧
    (∀ k, Value.ofKind k = ⟨k, false, false, 0⟩) ∧
    (s.cur.skips p = true → exec i s = .next (s.onCur (·.mark .skipped))) ∧
    (s.cur.live = true → s.cur.phase = .running → s.cur.slot.phase = .idle → s.cur.skips p = false →
      (s.cur.slot.op0 = none ∨ s.cur.slot.op1 = none) → exec i s = .next s)

/-- What a delivery does (09 R144, R146, R147, Table 9-15; 10 R162): an operand or predicate takes any value once (OPDUP); a register takes
DATA at the commit and is unchanged by another kind, once (REGDUP); a port sends at the commit, zero payload for a kind other than DATA,
nothing for NULL; registers and ports count toward NOUT (OUTCOUNT). -/
def Obligations.DeliveriesHaveTheirEffect : Prop :=
  ∀ (f : Frame) (v : Value) (k : BitVec 6),
    let sl := f.slotAt k.toNat
    let counted := { f with outs := f.outs + 1 }
    let toReg := Act.reg k.toNat (if v.isData then some (v.forReg f.kind k.toNat) else none)
    let toPort := Act.send k.toNat (if v.kind = .null then none else some v.onPort)
    let late := v.kind ≠ .null ∧ f.ovf.contains k.toNat = true
    (sl.op0 = none → f.deliver (.opL k) v = .ok (f.onSlot k.toNat fun s => { s with op0 := some v })) ∧
    (sl.op1 = none → f.deliver (.opR k) v = .ok (f.onSlot k.toNat fun s => { s with op1 := some v })) ∧
    (sl.op2 = none → f.deliver (.opX k) v = .ok (f.onSlot k.toNat fun s => { s with op2 := some v })) ∧
    (sl.pred = none → f.deliver (.pred k) v = .ok (f.onSlot k.toNat fun s => { s with pred := some v })) ∧
    (∀ w, sl.op0 = some w → f.deliver (.opL k) v = .error ⟨.opdup, 0, 0⟩) ∧
    (∀ w, sl.op1 = some w → f.deliver (.opR k) v = .error ⟨.opdup, 0, 0⟩) ∧
    (∀ w, sl.op2 = some w → f.deliver (.opX k) v = .error ⟨.opdup, 0, 0⟩) ∧
    (∀ w, sl.pred = some w → f.deliver (.pred k) v = .error ⟨.opdup, 0, 0⟩) ∧
    f.deliver .none v = .ok f ∧
    (f.regTaken k.toNat = true → f.deliver (.reg k) v = .error ⟨.regdup, 0, 0⟩) ∧
    (f.regTaken k.toNat = false → f.outs < f.nout → f.deliver (.reg k) v = .ok (counted.act toReg)) ∧
    (f.regTaken k.toNat = false → f.nout ≤ f.outs → f.deliver (.reg k) v = .error ⟨.outcount, 0, 0⟩) ∧
    (late → f.deliver (.port k) v = .error ⟨.timeovf, 0, 0⟩) ∧
    (¬ late → f.outs < f.nout → f.deliver (.port k) v = .ok (counted.act toPort)) ∧
    (¬ late → f.nout ≤ f.outs → f.deliver (.port k) v = .error ⟨.outcount, 0, 0⟩) ∧
    (v.kind ≠ .data → v.onPort.bits = 0 ∧ v.onPort.kind = v.kind) ∧ (v.isData = true → v.onPort = v)


/-! ## Moves and integer arithmetic (chapter 10) -/

/-- READ (09 R140; 10 R163): a full register is delivered and its stamp raises the pts; an empty one waits, or is REGEMPTY with FE;
a failed one raises the fault that it records. -/
def Sys2Proof.Claim.ReadDeliversRegister : Prop :=
  ∀ (s : State) (reg : BitVec 6) (fe : Bool) (t u : Tgt), Ready s .always [] →
    let r := s.getReg s.cur.agent reg.toNat
    (r.st = .full →
      Delivers (.read reg fe t u) s (s.raisePts r.ts) (toEach [t, u] (r.value s.cur.kind reg.toNat))) ∧
    (r.st = .empty → fe = true → Traps (.read reg fe t u) s ⟨.regempty, 0, 0⟩) ∧
    (r.st = .empty → fe = false → Waits (.read reg fe t u) s) ∧
    (∀ e, r.st = .failed e → Traps (.read reg fe t u) s e)

/-- MOV, MOVI, MOVIS and NULL (10 R164). -/
def Sys2Proof.Claim.MovesDeliverTheirValue : Prop :=
  ∀ (s : State) (p : Pm) (t u : Tgt) (imm : BitVec 14) (a : Value),
    (Ready s p [a] → Delivers (.mov p t u) s s [(t, a), (u, a)]) ∧
    (Ready s p [] → Delivers (.movi p t imm) s s [(t, .data (imm.signExtend 64))]) ∧
    (Ready s p [a] → a.isData = true →
      Delivers (.movis p t imm) s s [(t, .data (a.lo <<< 14 ||| imm.setWidth 64))]) ∧
    (Ready s p [] → Delivers (.null p t u) s s [(t, .ofKind .null), (u, .ofKind .null)])

/-- The two-operand instructions of Table 10-2 (10 R165 to R167): results, division by zero, and shift amounts of six bits. -/
def Obligations.TwoOperandIntegerResults : Prop :=
  ∀ (s : State) (p : Pm) (t u : Tgt) (sg : Bool) (a b : Value), Ready s p [a, b] → a.isData = true → b.isData = true →
    let x := a.lo
    let y := b.lo
    let n := y.toNat % 64
    let less := fun (v w : W64) => if sg then v.toInt < w.toInt else v.toNat < w.toNat
    let gives := fun (i : Instr) (v : W64) => Delivers i s s [(t, .data v), (u, .data v)]
    gives (.add p t u) (x + y) ∧ gives (.sub p t u) (x - y) ∧ gives (.mul p t u) (x * y) ∧
    gives (.mulh p t u true) (BitVec.ofInt 64 (x.toInt * y.toInt / 2 ^ 64)) ∧
    gives (.mulh p t u false) (BitVec.ofNat 64 (x.toNat * y.toNat / 2 ^ 64)) ∧
    (y = 0 → gives (.div p t u sg) (BitVec.allOnes 64) ∧ gives (.rem p t u sg) x) ∧
    (x = BitVec.intMin 64 → y = BitVec.allOnes 64 →
      gives (.div p t u true) (BitVec.intMin 64) ∧ gives (.rem p t u true) 0) ∧
    (y ≠ 0 →
      gives (.div p t u true) (BitVec.ofInt 64 (x.toInt.tdiv y.toInt)) ∧
      gives (.rem p t u true) (BitVec.ofInt 64 (x.toInt - x.toInt.tdiv y.toInt * y.toInt)) ∧
      gives (.div p t u false) (BitVec.ofNat 64 (x.toNat / y.toNat)) ∧
      gives (.rem p t u false) (BitVec.ofNat 64 (x.toNat - x.toNat / y.toNat * y.toNat))) ∧
    gives (.and p t u) (x &&& y) ∧ gives (.or p t u) (x ||| y) ∧ gives (.xor p t u) (x ^^^ y) ∧
    gives (.andn p t u) (x &&& ~~~y) ∧
    gives (.shl p t u) (BitVec.ofNat 64 (x.toNat * 2 ^ n)) ∧ gives (.shr p t u) (BitVec.ofNat 64 (x.toNat / 2 ^ n)) ∧
    gives (.sra p t u) (BitVec.ofInt 64 (x.toInt / 2 ^ n)) ∧ gives (.rot p t u) (x <<< n ||| x >>> (64 - n)) ∧
    (less x y → gives (.min p t u sg) x ∧ gives (.max p t u sg) y) ∧
    (¬ less x y → gives (.min p t u sg) y ∧ gives (.max p t u sg) x)

/-- The one-operand instructions (10 R168) and the bit fields (10 R169): each result bit by bit, or as a count. -/
def Obligations.BitFieldsAndCounts : Prop :=
  ∀ (s : State) (p : Pm) (t u : Tgt) (sg : Bool) (a b c : Value), a.isData = true → b.isData = true → c.isData = true →
    let x := a.lo
    let gives := fun (i : Instr) (q : W64 → Prop) => ∃ v, q v ∧ Delivers i s s [(t, .data v), (u, .data v)]
    let widened := fun (w : Nat) => if sg then (x.setWidth w).signExtend 64 else (x.setWidth w).setWidth 64
    let pos := fun (w : W64) => w.toNat % 64
    let len := fun (w : W64) => Nat.min (w.toNat / 256 % 64 + 1) (64 - pos w)
    (Ready s p [a] →
      gives (.absneg p t u .neg) (fun v => v = -x) ∧
      gives (.absneg p t u .abs) (fun v => v = BitVec.ofNat 64 x.toInt.natAbs) ∧
      gives (.bitc p t u .clz) (fun v => (x = 0 → v = 64) ∧
        (x ≠ 0 → v.toNat < 64 ∧ 2 ^ (63 - v.toNat) ≤ x.toNat ∧ x.toNat < 2 ^ (64 - v.toNat))) ∧
      gives (.bitc p t u .ctz) (fun v => (x = 0 → v = 64) ∧
        (x ≠ 0 → v.toNat < 64 ∧ x.getLsbD v.toNat = true ∧ ∀ i, i < v.toNat → x.getLsbD i = false)) ∧
      gives (.bitc p t u .popc) (fun v => v.toNat = ((List.range 64).filter x.getLsbD).length) ∧
      gives (.ext p t u .w8 sg) (fun v => v = widened 8) ∧
      gives (.ext p t u .w16 sg) (fun v => v = widened 16) ∧
      gives (.ext p t u .w32 sg) (fun v => v = widened 32)) ∧
    (Ready s p [a, b] →
      gives (.bfx p t u sg) (fun v => ∀ i, i < 64 → v.getLsbD i =
        if i < len b.lo then x.getLsbD (pos b.lo + i) else sg && x.getLsbD (pos b.lo + len b.lo - 1))) ∧
    (Ready s p [a, b, c] →
      gives (.bfi p t u) (fun v => ∀ i, i < 64 → v.getLsbD i =
        if pos c.lo ≤ i ∧ i < pos c.lo + len c.lo then b.lo.getLsbD (i - pos c.lo) else x.getLsbD i))

/-- CMP (10 R170): 1 where the condition holds and 0 where it does not. -/
def Sys2Proof.Claim.CompareGivesOneOrZero : Prop :=
  ∀ (s : State) (p : Pm) (t u : Tgt) (sg : Bool) (a b : Value), Ready s p [a, b] → a.isData = true → b.isData = true →
    let x := a.lo
    let y := b.lo
    let less := fun (v w : W64) => if sg then v.toInt < w.toInt else v.toNat < w.toNat
    let tells := fun (c : Cond) (q : Prop) =>
      (q → Delivers (.cmp p t u c sg) s s [(t, .data 1), (u, .data 1)]) ∧
      (¬ q → Delivers (.cmp p t u c sg) s s [(t, .data 0), (u, .data 0)])
    tells .eq (x = y) ∧ tells .ne (x ≠ y) ∧ tells .lt (less x y) ∧ tells .le (¬ less y x) ∧ tells .gt (less y x) ∧
    tells .ge (¬ less x y) ∧ tells .tst (x &&& y ≠ 0)

/-- The immediate instructions (10 R172, R173). -/
def Sys2Proof.Claim.ImmediateIntegerResults : Prop :=
  ∀ (s : State) (p : Pm) (t : Tgt) (imm : BitVec 14) (n : BitVec 6) (k : BitVec 11) (a : Value),
    Ready s p [a] → a.isData = true →
    let x := a.lo
    let i : W64 := imm.signExtend 64
    let ks : W64 := k.signExtend 64
    let gives := fun (i : Instr) (v : W64) => Delivers i s s [(t, .data v)]
    let tells := fun (c : CondI) (q : Prop) => (q → gives (.cmpi p t c k) 1) ∧ (¬ q → gives (.cmpi p t c k) 0)
    gives (.addi p t imm) (x + i) ∧ gives (.andi p t imm) (x &&& i) ∧ gives (.ori p t imm) (x ||| i) ∧
    gives (.xori p t imm) (x ^^^ i) ∧ gives (.muli p t imm) (x * i) ∧
    gives (.shli p t n) (BitVec.ofNat 64 (x.toNat * 2 ^ n.toNat)) ∧
    gives (.shri p t n) (BitVec.ofNat 64 (x.toNat / 2 ^ n.toNat)) ∧
    gives (.srai p t n) (BitVec.ofInt 64 (x.toInt / 2 ^ n.toNat)) ∧
    tells .eq (x = ks) ∧ tells .ne (x ≠ ks) ∧ tells .ltS (x.toInt < k.toInt) ∧ tells .geS (k.toInt ≤ x.toInt) ∧
    tells .leS (x.toInt ≤ k.toInt) ∧ tells .gtS (k.toInt < x.toInt) ∧ tells .ltZ (x.toNat < k.toNat) ∧
    tells .geZ (k.toNat ≤ x.toNat)

/-- SEL (10 R171): the chosen operand keeps its kind, payload, CAP and width; an op0 that is not DATA follows the rule of
kinds. -/
def Sys2Proof.Claim.SelectKeepsTheChosenOperand : Prop :=
  ∀ (s : State) (p : Pm) (t u : Tgt) (a b c : Value), Ready s p [a, b, c] →
    (a.isData = true →
      (a.lo ≠ 0 → Delivers (.sel p t u true) s s [(t, b), (u, b)]) ∧
      (a.lo = 0 → Delivers (.sel p t u true) s s [(t, c), (u, c)]) ∧
      (a.bits.getLsbD 0 = true → Delivers (.sel p t u false) s s [(t, b), (u, b)]) ∧
      (a.bits.getLsbD 0 = false → Delivers (.sel p t u false) s s [(t, c), (u, c)])) ∧
    (∀ nz k, a.isData = false → nonData [a, b, c] = some k →
      Delivers (.sel p t u nz) s s [(t, .ofKind k), (u, .ofKind k)])


/-! ## Receiving and joining (chapters 09 and 12) -/

/-- RECV, RECVO and RECVK at the firing's time t (09 R151 to R153; 12 R190): which head each delivers, how many heads leave the
port at the commit, and where it waits or is RECVORDER. -/
def Sys2Proof.Claim.ReceiveTakesTheHeads : Prop :=
  ∀ (s : State) (port : BitVec 6) (t u : Tgt), Ready s .always [] →
    let now := s.cur.time
    let hs := s.heads s.cur port.toNat
    let passed := now < (s.portOf s.cur port.toNat).frontier
    let gives := fun (i : Instr) (v : Value) (stamp n : Nat) =>
      Delivers i s ((s.raisePts stamp).onCur (·.take port.toNat n)) [(t, v), (u, v)]
    let order := fun (i : Instr) => Traps i s ⟨.recvorder, 0, 0⟩
    (∀ x xs, hs = x :: xs → x.time = now →
      gives (.recv port t u) x.val x.stamp 1 ∧ gives (.recvo port t u) x.val x.stamp 1) ∧
    ((∀ x, hs.head? = some x → x.time ≠ now) → Waits (.recv port t u) s) ∧
    (∀ x xs, hs = x :: xs → now < x.time →
      gives (.recvo port t u) (.ofKind .absent) (s.portOf s.cur port.toNat).fstamp 0 ∧ order (.recvk port t u)) ∧
    (∀ x xs, hs = x :: xs → x.time < now → order (.recvo port t u)) ∧
    (hs = [] → passed →
      gives (.recvo port t u) (.ofKind .absent) (s.portOf s.cur port.toNat).fstamp 0 ∧ order (.recvk port t u)) ∧
    (hs = [] → ¬ passed → Waits (.recvo port t u) s ∧ Waits (.recvk port t u) s) ∧
    (∀ pre x post, hs = pre ++ x :: post → (∀ y ∈ pre ++ [x], y.time ≤ now) →
      (∀ y ys, post = y :: ys → now < y.time → gives (.recvk port t u) x.val x.stamp pre.length) ∧
      (post = [] → passed → gives (.recvk port t u) x.val x.stamp pre.length) ∧
      (post = [] → ¬ passed → Waits (.recvk port t u) s))

/-- JOIN with a head on each port (12 R192 and Table 12-1): what it delivers, how many heads of A and of B it takes, and where it is
JOINORDER. -/
def Sys2Proof.Claim.JoinFollowsItsTable : Prop :=
  ∀ (s : State) (pa pb : BitVec 6) (t : Tgt) (a b : Token) (as bs : List Token), Ready s .always [] →
    s.heads s.cur pa.toNat = a :: as → s.heads s.cur pb.toNat = b :: bs →
    let ka := a.val.kind
    let kb := b.val.kind
    let kept := fun (p : BitVec 6) (v : Value) => ∀ k, s.lastKey s.cur p.toNat = some k → k < keyOf v
    let gives := fun (m : JoinMode) (na nb : Nat) (v : Value) (fl : Flags) =>
      Delivers (.join pa pb m t) s ((s.onCur (·.take pa.toNat na)).onCur fun f => (f.take pb.toNat nb).flag fl) [(t, v)]
    let null := Value.ofKind .null
    let dataA := ka = .data ∧ kept pa a.val
    let dataB := kb = .data ∧ kept pb b.val
    (∀ m, a.time ≠ b.time → Traps (.join pa pb m t) s (joinTrap pa.toNat pb.toNat a b)) ∧
    (a.time = b.time →
      (∀ m, ka = .err ∨ kb = .err → gives m (b2n (ka == .err)) (b2n (kb == .err)) (.ofKind .err) Flags.none) ∧
      (∀ m, ka = .eos → kb = .eos → gives m 1 1 (.ofKind .eos) Flags.none) ∧
      (∀ m, ka = .eor → kb = .eor → gives m 1 1 (.ofKind .eor) Flags.none) ∧
      (∀ m, ka = .eos → kb = .data ∨ kb = .eor → Traps (.join pa pb m t) s (joinTrap pa.toNat pb.toNat a b)) ∧
      (dataA → (dataB ∧ keyOf a.val < keyOf b.val) ∨ kb = .eor →
        gives .isect 1 0 null Flags.none ∧ gives .union 1 0 (pairOf (some a.val) none) Flags.none ∧
        (∀ m, m = .sub ∨ m = .madd ∨ m = .less → gives m 1 0 (.data a.val.lo) Flags.none)) ∧
      (dataB → (dataA ∧ keyOf b.val < keyOf a.val) ∨ ka = .eor →
        gives .isect 0 1 null Flags.none ∧ gives .sub 0 1 null Flags.none ∧
        gives .union 0 1 (pairOf none (some b.val)) Flags.none ∧
        (∀ m, m = .madd ∨ m = .less → gives m 0 1 (.data b.val.lo) Flags.none)) ∧
      (dataA → dataB → keyOf a.val = keyOf b.val →
        (∀ m, m = .isect ∨ m = .union → gives m 1 1 (pairOf (some a.val) (some b.val)) Flags.none) ∧
        gives .sub 1 1 null Flags.none ∧
        (let r := fp32.add .rn (valOf a.val) (valOf b.val)
         gives .madd 1 1 (.data (packFields 64 [(32, 32, keyOf a.val), (0, 32, r.1)])) r.2) ∧
        gives .less 1 0 (.data a.val.lo) Flags.none) ∧
      (∀ m, ka = .data → (kb = .data ∨ kb = .eor) → ¬ kept pa a.val →
        Traps (.join pa pb m t) s (joinTrap pa.toNat pb.toNat a b)))

/-! ## Control (chapter 18) -/

/-- The exits of a control block and FENCE at their issue (18 R277, R278; 09 R147; 11 R188): the exit that the block will take, and
where each is a fault. -/
def Obligations.ExitsAreTaken : Prop :=
  ∀ (s : State) (p : Pm) (n : BitVec 3) (off : BitVec 20) (a : Value) (g : BitVec 2) (sc : FenceScope),
    let h := s.cur.addr
    let target := h + 4 * off.signExtend 64
    let free := s.cur.exit = none
    let takes := fun (i : Instr) (k : ExitKind) (m : BitVec 3) => Acts i s fun f => { f with exit := some (k, m) }
    (Ready s p [] →
      (free → takes (.bro p n off) (.goto target) n) ∧
      (free → s.myRegion.rstack.length < 16 → takes (.callo p n off) (.call target) n) ∧
      (16 ≤ s.myRegion.rstack.length → Traps (.callo p n off) s ⟨.calldepth, 0, 0⟩) ∧
      (free → s.myRegion.rstack ≠ [] → takes (.retb p n) .ret n) ∧
      (s.myRegion.rstack = [] → Traps (.retb p n) s ⟨.retempty, 0, 0⟩) ∧
      (free → s.sectView.st = .idle → takes (.halt p) .halt 0) ∧
      (s.sectView.st ≠ .idle → Traps (.halt p) s (sectTrap .sectstate s 0 0)) ∧
      (¬ free → Traps (.bro p n off) s ⟨.blockexit, 0, 0⟩) ∧
      (sc ≠ .group ∨ s.myGroup g.toNat ≠ none → Acts (.fence p g sc) s (·.act (.fence sc g.toNat))) ∧
      (sc = .group → s.myGroup g.toNat = none → Traps (.fence p g sc) s ⟨.illinsn, 0, 0⟩)) ∧
    (Ready s p [a] → a.isData = true →
      (free → bits a.lo 1 0 = 0 → takes (.bri p n) (.goto a.lo) n) ∧
      (bits a.lo 1 0 ≠ 0 → Traps (.bri p n) s ⟨.align, a.lo, 0⟩))

/-! ## Translation (chapter 05) -/

/-- XLATE (05 R77, R78, R80): a page capability with its fields, a fault token with NF, a withheld result, or the fault. The walk
is a statement of its own. -/
def Obligations.TranslateDeliversCapability : Prop :=
  ∀ (s s1 : State) (p : Pm) (t u : Tgt) (wr nf : Bool) (a : Value) (r : Walk), Ready s p [a] → a.isData = true →
    let w := Waiter.slot s.cur.agent s.cur.turn
    let va := a.lo
    let page := bits va 54 16
    let hold := s.holdOf w page
    let i := Instr.xlate p t u wr nf
    (hold = .waiting → Waits i s) ∧
    (hold = .refused → Traps i s ⟨.xlate, BitVec.ofNat 64 XlCode.refused.num, va⟩) ∧
    (hold = .free ∨ hold = .resumed → (s.unwithhold w page).translate (.pe (agentNumber s.cur.agent)) s.cur.job
      (s.region s.cur.region).xroot va (hold == .resumed) false wr = (s1, r) →
    let fails := fun (c : XlCode) =>
      let tok : W64 := packFields 64 [(63, 1, 1), (55, 8, c.num), (0, 55, bits va 54 0)]
      (nf = true → Delivers i s s1 [(t, .data tok), (u, .data tok)]) ∧
      (nf = false → ∀ n, c.need = some n → exec i s =
        .next ((s1.withhold w s1.cur.region s1.cur.job page n).onCur (·.mark .blocked))) ∧
      (nf = false → c.need = none → exec i s = .next (s1.raisePrecise ⟨.xlate, BitVec.ofNat 64 c.num, va⟩))
    (∀ e big, r = .leaf e big →
      let pa := if big then bits e 45 29 * 2 ^ 29 + bits va 28 0 else bits e 45 16 * 2 ^ 16 + bits va 15 0
      let cap : Value := ⟨.data, false, true,
        (packFields 64 [(48, 1, b2n big), (47, 1, b2n (bitAt e 1)), (46, 1, b2n (bitAt e 0)), (0, 46, pa)]).setWidth 512⟩
      Delivers i s s1 [(t, cap), (u, cap)]) ∧
    (∀ c, r = .fail c → fails c) ∧ (∀ e big, wr = true → r = .leaf e big → bitAt e 1 = true))

/-- The walk of the translation tables (05 R73 to R76, R78): three levels of 8-byte entries, from bits [54:42], [41:29] and [28:16]
of the address; a leaf at level 2 covers 512 MiB and one at level 3 covers 64 KiB. -/
def Obligations.WalkReadsThreeLevels : Prop :=
  ∀ (s s1 s2 s3 : State) (w : Requester) (root va e1 e2 e3 : W64),
    let table := fun (e : W64) (i : Nat) => bits e 45 16 * 65536 + 8 * i
    let valid := fun (lvl : Nat) (e : W64) (leaf : Bool) => bitAt e 63 = true ∧ malformed lvl e = false ∧ bitAt e 2 = leaf
    canonical va = true → bitAt root 63 = true →
    s.walkRead w (table root (bits va 54 42)) = (s1, some e1) → valid 1 e1 false →
    s1.walkRead w (table e1 (bits va 41 29)) = (s2, some e2) →
    (valid 2 e2 true → s.walk w root va = (s2, .leaf e2 true)) ∧
    (valid 2 e2 false → s2.walkRead w (table e2 (bits va 28 16)) = (s3, some e3) →
      (valid 3 e3 true → s.walk w root va = (s3, .leaf e3 false)) ∧
      (bitAt e3 63 = false → s.walk w root va = (s3, .fail .notmapped)) ∧
      (bitAt e3 63 = true → malformed 3 e3 = true → s.walk w root va = (s3, .fail .badpte))) ∧
    (bitAt e2 63 = false → s.walk w root va = (s2, .fail .notmapped))

/-- PAADD and PAOFF (05 R84): the offset is added exactly to the address of a capability; CAP is kept only inside the page; a
fault token passes unchanged. Neither faults: a value without CAP faults where a load uses it as an address. -/
def Obligations.PageAddKeepsCapInsideThePage : Prop :=
  ∀ (s : State) (p : Pm) (t u : Tgt) (imm : BitVec 14) (a b : Value),
    let c := a.lo
    let base : Int := (c.setWidth 46).toNat
    let page : Int := if bitAt c 48 then 2 ^ 29 else 2 ^ 16
    let stepped := fun (off : Int) (v : Value) =>
      v.kind = .data ∧ v.wide = false ∧ v.lo.setWidth 46 = BitVec.ofInt 46 (base + off) ∧
      (∀ i, 46 ≤ i → i < 64 → v.bits.getLsbD i = c.getLsbD i) ∧
      v.cap = (a.cap && decide (0 ≤ base + off ∧ (base + off) / page = base / page))
    let isFault := a.cap = false ∧ bitAt c 63 = true
    (Ready s p [a, b] → a.isData = true → b.isData = true →
      (¬ isFault → ∃ v, stepped b.lo.toInt v ∧ Delivers (.paadd p t u) s s [(t, v), (u, v)]) ∧
      (isFault → Delivers (.paadd p t u) s s [(t, .data c), (u, .data c)])) ∧
    (Ready s p [a] → a.isData = true →
      (¬ isFault → ∃ v, stepped imm.toInt v ∧ Delivers (.paoff p t imm) s s [(t, v)]) ∧
      (isFault → Delivers (.paoff p t imm) s s [(t, .data c)])) ∧
    (∀ l sz off, Fresh s → Ready s p [a] → a.isData = true → a.cap = false →
      ∃ info0 info1, Traps (.ld p t l sz off) s ⟨.capability, info0, info1⟩)


/-! ## Memory instructions (chapter 11) -/

namespace Sys2Proof.Claim

/-- What an instruction that addresses device memory does there, its offset in bytes, its width in bytes, and its operands
(11 Table 11-1; 12 R196). -/
def deviceForm : Instr → Option (AccessKind × Int × Nat × Nat)
  | .ld _ _ _ sz imm => some (.load, imm.toInt * szBytes sz, szBytes sz, 1)
  | .ldv _ _ _ imm => some (.load, imm.toInt * 64, 64, 1)
  | .st _ _ sz imm => some (.store, imm.toInt * szBytes sz, szBytes sz, 2)
  | .stv _ _ imm => some (.store, imm.toInt * 64, 64, 2)
  | .atom _ _ _ sz _ off => some (.rmw, off.toInt * szBytes sz, szBytes sz, 2)
  | .cas _ _ _ sz imm => some (.rmw, imm.toInt * szBytes sz, szBytes sz, 3)
  | .gather _ _ _ sz => some (.load, 0, szBytes sz, 1)
  | .scatter _ sz => some (.store, 0, szBytes sz, 2)
  | _ => none

/-- The offset in bytes, the width in bytes and the operands of an instruction that addresses local memory (11 R186). -/
def localForm : Instr → Option (Int × Nat × Nat)
  | .ldl _ _ _ sz imm => some (imm.toInt * szBytes sz, szBytes sz, 1)
  | .ldlv _ _ _ imm => some (imm.toInt * 64, 64, 1)
  | .ldlw _ _ _ sz _ off => some (off.toInt * szBytes sz, szBytes sz, 1)
  | .stl _ _ sz imm => some (imm.toInt * szBytes sz, szBytes sz, 2)
  | .stlv _ _ imm => some (imm.toInt * 64, 64, 2)
  | .stlf _ _ sz _ off => some (off.toInt * szBytes sz, szBytes sz, 2)
  | .atoml _ _ _ sz _ off => some (off.toInt * szBytes sz, szBytes sz, 2)
  | _ => none

/-- The block as a format-M instruction enters it: its LSID is used and a store-class one is counted (09 R146, R149). -/
def entered (s : State) (lsid : BitVec 4) (store : Bool) : State :=
  s.onCur fun f => { f with lsids := f.lsids ++ [lsid.toNat], stores := if store then f.stores + 1 else f.stores }

/-- A request that a block makes of device memory: its operation, its bytes, and what it carries. -/
def Asks (s : State) (r : Req) (op : ReqOp) (a n : Nat) (o : Origin) (regs : List Nat) : Prop :=
  r.origin = o ∧ r.op = op ∧ r.addr = a ∧ r.n = n ∧ r.regs = regs ∧ r.cls = 1 ∧ r.pe = agentNumber s.cur.agent ∧
    r.job = (if statusExe (s.statusOf s.cur.agent) then 0xFFFF#16 else BitVec.ofNat 16 s.cur.job)

end Sys2Proof.Claim

/-- The capability faults (11 R177 and Table 11-2), of every instruction that addresses device memory: the reason in INFO0, and
ALIGN with the address. -/
def Sys2Proof.Claim.CapabilityFaultsArePrecise : Prop :=
  ∀ (s : State) (i : Instr) (p : Pm) (kind : AccessKind) (off : Int) (k n : Nat) (c : Value) (vs : List Value),
    deviceForm i = some (kind, off, k, n) → predMode i = some p → Fresh s → Ready s p (c :: vs) → (c :: vs).length = n →
    (∀ v ∈ c :: vs, v.isData = true) →
    let w := c.lo
    let base : Int := (w.setWidth 46).toNat
    let page : Int := if bitAt w 48 then 2 ^ 29 else 2 ^ 16
    let allowed := match kind with
      | .load => bitAt w 46 = true
      | .store => bitAt w 47 = true
      | .rmw => bitAt w 46 = true ∧ bitAt w 47 = true
    let cap := fun (reason code : Nat) => Traps i s ⟨.capability, BitVec.ofNat 64 reason, BitVec.ofNat 64 code⟩
    (c.cap = false → bitAt w 63 = false → cap 0 0) ∧
    (c.cap = false → bitAt w 63 = true → cap 1 (bits w 62 55)) ∧
    (c.cap = true → ¬ allowed → cap 2 0) ∧
    (c.cap = true → allowed → (base + off) % k ≠ 0 → Traps i s ⟨.align, BitVec.ofInt 64 (base + off), 0⟩) ∧
    (c.cap = true → allowed → (base + off) % k = 0 → (base + off < 0 ∨ (base + off) / page ≠ base / page) → cap 3 0)

/-- The local address faults (11 R186), of every instruction that addresses local memory: LMRANGE outside its 512 KiB, then
ALIGN, with the address. -/
def Sys2Proof.Claim.LocalAddressFaultsArePrecise : Prop :=
  ∀ (s : State) (i : Instr) (p : Pm) (off : Int) (k n : Nat) (b : Value) (vs : List Value),
    localForm i = some (off, k, n) → predMode i = some p → Fresh s → Ready s p (b :: vs) → (b :: vs).length = n →
    (∀ v ∈ b :: vs, v.isData = true) →
    let a := b.lo.toInt + off
    ((a < 0 ∨ 524288 < a + k) → Traps i s ⟨.lmrange, BitVec.ofInt 64 a, 0⟩) ∧
    (0 ≤ a → a + k ≤ 524288 → a % k ≠ 0 → Traps i s ⟨.align, BitVec.ofInt 64 a, 0⟩)

/-- LD, LDV and GATHER (11 R179, R182; 12 R196): the access is made at the issue, carrying the bytes of the block's own
lower stores, in LSID order among the block's device loads (16 R249) and with at most eight in its stream (08 R124); a register target
becomes a deferred write and the slot has issued, any other target waits for the reply. LD and LDV are counted (27 R407). -/
def Sys2Proof.Claim.DeviceLoadsMakeTheirAccess : Prop :=
  ∀ (s : State) (p : Pm) (t u : Tgt) (l : BitVec 4) (sz : Sz) (imm : BitVec 7) (c : Value) (a : Nat),
    Ready s p [c] → c.isData = true → Fresh s → s.loadsFull = false →
    let loads := fun (i : Instr) (s1 : State) (ts : List Tgt) (op : ReqOp) (n : Nat) (z : Sz) (o : W512 × W512) (cnt : Nat) =>
      ∃ r, Asks s r op a n (.load s.cur.turn z) (regsOf ts) ∧ r.data = o.1 ∧ r.data2 = o.2 ∧
        (regsOf ts = [] → exec i s = .next (((s1.request r).tallyCur 0x07 cnt).onCur (·.mark .inflight))) ∧
        (∀ f, regsOf ts ≠ [] → s1.cur.deferAll (regsOf ts) = .ok f →
          exec i s = .next ((({ s1 with cur := f }.request r).tallyCur 0x07 cnt).onCur (·.mark .issued)))
    let turn := s.cur.storesClear l.toNat = true ∧ s.cur.loadTurn l.toNat false = true
    let own := fun (n : Nat) => overlayOf a n (s.cur.deviceStores l.toNat) (0, 0)
    (turn → capAddress c .load (imm.toInt * szBytes sz) (szBytes sz) = .ok a →
      loads (.ld p t l sz imm) (entered s l false) [t] .load (szBytes sz) sz (own (szBytes sz)) 1) ∧
    (turn → capAddress c .load (imm.toInt * 64) 64 = .ok a →
      loads (.ldv p t l imm) (entered s l false) [t] .loadV 64 .x128 (own 64) 1) ∧
    (capAddress c .load 0 (szBytes sz) = .ok a → loads (.gather p t u sz) s [t, u] .load (szBytes sz) sz (0, 0) 0)

/-- ST, STV, ATOM, CAS and SCATTER (11 R180, R184; 12 R196): each joins the commit with its LSID, its bytes and its deferred
register; memory does not change at the issue. -/
def Sys2Proof.Claim.DeviceStoresJoinTheCommit : Prop :=
  ∀ (s : State) (p : Pm) (t : Tgt) (l : BitVec 4) (sz : Sz) (imm : BitVec 7) (sub : AtomSub) (off : BitVec 3) (c d e : Value)
    (a : Nat), c.isData = true → d.isData = true → e.isData = true → Fresh s →
    let n := szBytes sz
    let joins := fun (i : Instr) (regs : List Nat) (op : ReqOp) (n : Nat) (z : Sz) (x y : W512) =>
      ∃ r, Asks s r op a n (.store s.cur.turn z) regs ∧ r.data = x ∧ r.data2 = y ∧
        ∀ f, (entered s l true).cur.deferAll regs = .ok f →
          exec i s = .next { s with cur := (f.act (.store l.toNat r)).mark .issued }
    (Ready s p [c, d] →
      (capAddress c .store (imm.toInt * n) n = .ok a → joins (.st p l sz imm) [] .store n sz d.bits 0) ∧
      (capAddress c .store (imm.toInt * 64) 64 = .ok a → joins (.stv p l imm) [] .storeV 64 .x128 d.bits 0) ∧
      (capAddress c .rmw (off.toInt * n) n = .ok a → joins (.atom p t l sz sub off) (regsOf [t]) (.atom sub) n sz d.bits 0) ∧
      (capAddress c .store 0 n = .ok a →
        ∃ r, Asks s r .store a n (.store s.cur.turn sz) [] ∧ r.data = d.bits ∧ Acts (.scatter p sz) s (·.act (.scatter r)))) ∧
    (Ready s p [c, e, d] → capAddress c .rmw (imm.toInt * n) n = .ok a →
      joins (.cas p t l sz imm) (regsOf [t]) .cas n sz e.bits d.bits)

/-- LDL, LDLV and LDLW on a page that is present (07 R107, R109; 11 R176, R186): the bytes of local memory under those of the block's
own lower stores, in LSID order among the block's local loads (07 R110; 16 R249); LDLW waits for a full granule, and Q empties it. -/
def Sys2Proof.Claim.LocalLoadsReadLocalMemory : Prop :=
  ∀ (s : State) (p : Pm) (t : Tgt) (l : BitVec 4) (sz : Sz) (imm : BitVec 7) (q : Bool) (off : BitVec 6) (b : Value) (a n : Nat),
    Ready s p [b] → b.isData = true → Fresh s → s.cur.storesClear l.toNat = true → s.cur.loadTurn l.toNat true = true →
    let pe := s.pe s.cur.pe
    let s1 := entered s l false
    let page := a / 4096
    let gran := a / 16
    let value := overlaid (BitVec.ofNat 512 (pe.lmem.readNat a n)) (overlayOf a n (s.cur.localStores l.toNat) (0, 0))
    let read := fun (g : Pe → Pe) => ((s1.onPe s.cur.pe g).correct s.cur.pe a n).tallyCur 0x05 1
    pe.present s.cur.job page = true → pe.refillBad (.slot s.cur.agent s.cur.turn) [page] = none → pe.badGran a n = none →
    (n = szBytes sz → localAddress b (imm.toInt * n) n = .ok a →
      Delivers (.ldl p t l sz imm) s (read (·.pin page)) [(t, szExtend sz value)]) ∧
    (n = 64 → localAddress b (imm.toInt * n) n = .ok a →
      Delivers (.ldlv p t l imm) s (read (·.pin page)) [(t, .wideData value)]) ∧
    (n = szBytes sz → localAddress b (off.toInt * n) n = .ok a →
      let waits := !(pe.isFull gran) || pe.queuedBefore gran s.cur.agent s.cur.turn true
      let took := fun (x : Pe) =>
        let y := (x.pin page).served gran s.cur.agent s.cur.turn
        if q then (y.setFull gran false).dirty page else y
      (waits = false → Delivers (.ldlw p t l sz q off) s (read took) [(t, szExtend sz value)]) ∧
      (waits = true → exec (.ldlw p t l sz q off) s =
        .next ((s1.onPe s.cur.pe fun x => (x.pin page).await gran s.cur.agent s.cur.turn true).onCur (·.mark .blocked))))

/-- STL, STLV, STLF and ATOML (11 R185 to R187): each joins the commit with its LSID, its address and its bytes; ATOML names the
register that takes the old value. -/
def Sys2Proof.Claim.LocalStoresJoinTheCommit : Prop :=
  ∀ (s : State) (p : Pm) (t : Tgt) (l : BitVec 4) (sz : Sz) (imm : BitVec 7) (q : Bool) (sub : AtomSub) (off : BitVec 6)
    (ao : BitVec 3) (b d : Value) (a : Nat), Ready s p [b, d] → b.isData = true → d.isData = true → Fresh s →
    let n := szBytes sz
    let joins := fun (i : Instr) (act : Act) => exec i s = .next ((entered s l true).onCur fun f => (f.act act).mark .issued)
    (localAddress b (imm.toInt * n) n = .ok a → joins (.stl p l sz imm) (.lstore l.toNat a n d.bits .keep)) ∧
    (localAddress b (imm.toInt * 64) 64 = .ok a → joins (.stlv p l imm) (.lstore l.toNat a 64 d.bits .keep)) ∧
    (localAddress b (off.toInt * n) n = .ok a →
      joins (.stlf p l sz q off) (.lstore l.toNat a n d.bits (if q then .waitFill else .fill))) ∧
    (localAddress b (ao.toInt * n) n = .ok a → t = .none →
      joins (.atoml p t l sz sub ao) (.latom l.toNat a n sub d.bits sz none)) ∧
    (localAddress b (ao.toInt * n) n = .ok a → ∀ i, t = .reg i →
      (∀ f, (entered s l true).cur.toReg i.toNat (.latom l.toNat a n sub d.bits sz (some i.toNat)) = .ok f →
        exec (.atoml p t l sz sub ao) s = .next { s with cur := f.mark .issued }) ∧
      (s.cur.regTaken i.toNat = true → Traps (.atoml p t l sz sub ao) s ⟨.regdup, 0, 0⟩))

/-- A local store and a local atomic at the commit (11 R185 to R187), on a page that is present: the bytes stored, every other byte
of local memory unchanged, the granule full or as it was, and the old value for the register. -/
def Obligations.LocalAccessesAtTheCommit : Prop :=
  ∀ (p : Pe) (job l a n : Nat) (d : W512) (fe : FeAct) (sub : AtomSub) (sz : Sz) (reg : Option Nat),
    p.present job (a / 4096) = true → 0 < n → n ≤ 64 →
    let st := p.applyLocal job (.lstore l a n d fe)
    let at_ := p.applyLocal job (.latom l a n sub d sz reg)
    let old := p.lmem.readNat a n
    (∀ k, k < n → st.1.lmem.read (a + k) = BitVec.ofNat 8 (d.toNat / 256 ^ k)) ∧
    (∀ b, b < a ∨ a + n ≤ b → st.1.lmem.read b = p.lmem.read b ∧ at_.1.lmem.read b = p.lmem.read b) ∧
    at_.1.lmem.readNat a n = atomNew sub n old (d.toNat % 2 ^ (8 * n)) % 2 ^ (8 * n) ∧
    at_.2 = reg.map (fun i => (i, szExtend sz (BitVec.ofNat 512 old))) ∧ st.2 = none ∧
    st.1.full = (if fe = .keep then p.full else insertNat (a / 16) p.full) ∧ at_.1.full = p.full ∧
    st.1.nregs = p.nregs ∧ at_.1.nregs = p.nregs ∧ st.1.vregs = p.vregs ∧ at_.1.vregs = p.vregs

/-- What an access does at its line (11 R184 and Table 11-4; 04 R56 and Table 4-1): the old value, the bytes written, every other
byte of the line as before, and the leases. -/
def Obligations.AtomicsReturnTheOldValue : Prop :=
  ∀ (r : Req) (l : Line) (sub : AtomSub), r.addr % 64 + r.n ≤ 64 → 0 < r.n →
    let o := r.addr % 64
    let byte := fun (x : Line) (k : Nat) => x.get k 1
    let same := fun (x : Line) => ∀ k, k < 64 → k < o ∨ o + r.n ≤ k → byte x k = byte l k
    let cut := fun (v : W512) => v.toNat % 2 ^ (8 * r.n)
    (r.op = .load → r.apply l = (l, BitVec.ofNat 512 (l.get o r.n), false)) ∧
    (r.op = .store → (r.apply l).1.get o r.n = cut r.data ∧ same (r.apply l).1 ∧ (r.apply l).2.2 = true) ∧
    (r.op = .atom sub →
      (r.apply l).1.get o r.n = atomNew sub r.n (l.get o r.n) (cut r.data) % 2 ^ (8 * r.n) ∧ same (r.apply l).1 ∧
      (r.apply l).2.1 = BitVec.ofNat 512 (l.get o r.n) ∧ (r.apply l).2.2 = true) ∧
    (r.op = .cas → l.get o r.n = cut r.data → (r.apply l).1.get o r.n = cut r.data2 ∧ same (r.apply l).1 ∧
      (r.apply l).2.1 = BitVec.ofNat 512 (l.get o r.n) ∧ (r.apply l).2.2 = true) ∧
    (r.op = .cas → l.get o r.n ≠ cut r.data → r.apply l = (l, BitVec.ofNat 512 (l.get o r.n), false)) ∧
    (∀ pts k, loadLease l pts k = (l.wts, max l.rts (max pts l.wts + k)) ∧
      storeLease l pts = (max pts (l.rts + 1), max pts (l.rts + 1)))


/-! ## Buffers, copies and streams (chapters 06 and 12) -/

namespace Sys2Proof.Claim

/-- The block after a buffer or copy command has named a handle (12 R194). -/
def named (s : State) (h : BitVec 5) : State := s.onCur fun f => { f with bufs := f.bufs ++ [(h.toNat, f.turn)] }

/-- A slot that has not waited names a handle that no earlier slot of its block has named. -/
def Names (s : State) (h : BitVec 5) : Prop := s.cur.slot.phase = .idle ∧ ∀ b ∈ s.cur.bufs, b.1 ≠ h.toNat

end Sys2Proof.Claim

/-- BUFDEF, BUFGET, BUFPUT and BUFSTAT (06 R93 and Table 6-3; 12 R193, R194): the slot whose address BUFGET delivers, EOS at the end
of the stream, the status word, and where each waits or faults. The slots move at the commit. -/
def Obligations.BufferCommandsFollowTheSlots : Prop :=
  ∀ (s : State) (p : Pm) (t u : Tgt) (h : BitVec 5) (a : Value),
    let hd := s.myHandle h.toNat
    let inb := hd.dir = 1#2
    let joins := fun (i : Instr) (act : Act) => exec i s = .next ((named s h).onCur fun f => (f.act act).mark .issued)
    let faults := fun (i : Instr) (c : FaultCode) => Traps i s ⟨c, h.setWidth 64, hd.status⟩
    let at_ := fun (x : SlotState) => hd.slots.getD hd.rd .free = x
    let ready := (inb → at_ .full) ∧ (¬ inb → at_ .free)
    let addr : W64 := BitVec.ofNat 64 (hd.base + hd.rd * hd.slotb)
    let ended := hd.opened = true ∧ hd.total ≤ hd.taken
    (Ready s p [] → Delivers (.bufstat p t u h) s s [(t, .data hd.status), (u, .data hd.status)]) ∧
    (Ready s p [a] → a.isData = true → Names s h →
      (badDefinition a.lo = false → hd.isOpen = false → joins (.bufdef p h) (.bufdef h.toNat a.lo)) ∧
      (badDefinition a.lo = true → faults (.bufdef p h) .badbuf) ∧
      (badDefinition a.lo = false → hd.isOpen = true → faults (.bufdef p h) .bufbusy)) ∧
    (Ready s p [] → Names s h → hd.psn = false →
      (ended → Delivers (.bufget p t u h) s ((named s h).onCur (·.act (.bufget h.toNat hd.rd hd.taken true)))
        [(t, .ofKind .eos), (u, .ofKind .eos)]) ∧
      (¬ ended → hd.dir ≠ 0 → ready →
        Delivers (.bufget p t u h) s (((named s h).raisePts (hd.slotPts.getD hd.rd 0)).onCur (·.act (.bufget h.toNat hd.rd hd.taken false)))
          [(t, .data addr), (u, .data addr)]) ∧
      (¬ ended → ¬ ready → exec (.bufget p t u h) s = .next ((named s h).onCur (·.mark .blocked))) ∧
      (hd.slots.contains (if inb then .draining else .filling) = true → joins (.bufput p h) (.bufput h.toNat)) ∧
      (hd.slots.contains (if inb then .draining else .filling) = false → faults (.bufput p h) .bufstate)) ∧
    (Ready s p [] → s.cur.slot.phase = .idle → (∃ b ∈ s.cur.bufs, b.1 = h.toNat) →
      faults (.bufget p t u h) .bufdup ∧ faults (.bufput p h) .bufdup ∧ faults (.cpyclose p h) .bufdup)

/-- CPYOPEN, CPYCLOSE and CPYWAIT (06 R86, R95, R96, R99, R100): the descriptor is read at the issue, the stream opens and closes
at the commit, and CPYWAIT waits for the close and joins the copy's pts. -/
def Sys2Proof.Claim.CopyCommandsOpenCloseAndWait : Prop :=
  ∀ (s : State) (p : Pm) (t u : Tgt) (h : BitVec 5) (a b : Value),
    let hd := s.myHandle h.toNat
    let d := a.lo.toNat
    let pe := s.pe s.cur.pe
    let ws := (List.range 16).map fun k => BitVec.ofNat 64 (pe.lmem.readNat d 128 / 2 ^ (64 * k))
    let pages := pagesOf d 128
    let s1 := ((named s h).onPe s.cur.pe fun x => pages.foldl Pe.pin x).correct s.cur.pe d 128
    (Ready s p [a, b] → a.isData = true → b.isData = true → Names s h → d + 128 ≤ 524288 → d % 16 = 0 →
      (∀ n ∈ pages, pe.present s.cur.job n = true) → pe.refillBad (.slot s.cur.agent s.cur.turn) pages = none → pe.badGran d 128 = none →
      (openFault s1 h.toNat d ws b.lo = none → exec (.cpyopen p h) s = .next (s1.onCur fun f =>
        (f.act (.cpyopen h.toNat (unpackDesc ws) (branchesOf s.cur.pe h.toNat b.lo))).mark .issued)) ∧
      (∀ e, openFault s1 h.toNat d ws b.lo = some e → Traps (.cpyopen p h) s e)) ∧
    (Ready s p [] → Names s h →
      exec (.cpyclose p h) s = .next ((named s h).onCur fun f => (f.act (.cpyclose h.toNat)).mark .issued)) ∧
    (Ready s p [] → hd.psn = false →
      (hd.opened = false → Traps (.cpywait p t u h) s ⟨.bufstate, h.setWidth 64, hd.status⟩) ∧
      (hd.opened = true → hd.isOpen = true → Waits (.cpywait p t u h) s) ∧
      (hd.opened = true → hd.isOpen = false → Delivers (.cpywait p t u h) s (s.raisePts hd.joinPts)
        [(t, .data hd.status), (u, .data hd.status)])) ∧
    (Ready s p [] → hd.psn = true → exec (.cpywait p t u h) s =
      .next ((s.joinRecord s.cur.pe h.toNat).raisePrecise (copyTrap s.cur.pe h.toNat hd)))

/-- LMSTREAM, EPATOM and EPFENCE (12 R198 to R200): the stream word's fields start an engine at the commit, the endpoint's range is
checked, and the operation leaves after the commit. -/
def Sys2Proof.Claim.StreamAndEndpointCommands : Prop :=
  ∀ (s : State) (p : Pm) (t u : Tgt) (k : BitVec 6) (sub : AtomSub) (a b : Value),
    let w := a.lo
    let len := bits w 51 32
    let start := bits w 18 0
    let shape := bits w 62 58 = 0 ∧ bits w 31 19 = 0 ∧ len ≠ 0 ∧ len % 64 = 0 ∧ start % 64 = 0
    let pe := s.pe s.cur.pe
    let ext := (s.job s.cur.job).endpts.find (bits w 63 56)
    let off := bits w 55 0
    (Ready s p [a] → a.isData = true →
      (shape → start + len ≤ 524288 → bitAt w 63 = true →
        (pe.snk.busy = false → Acts (.lmstream p .none) s (·.act (.lmSink (bits w 57 52) start len))) ∧
        (pe.snk.busy = true → Waits (.lmstream p .none) s)) ∧
      (shape → start + len ≤ 524288 → bitAt w 63 = false → bits w 57 52 = 0 →
        (pe.src.busy = false → Acts (.lmstream p (.port k)) s (·.act (.lmSource k.toNat start len))) ∧
        (pe.src.busy = true → Waits (.lmstream p (.port k)) s)) ∧
      (bitAt w 63 = true → Traps (.lmstream p (.port k)) s ⟨.illinsn, 0, 0⟩) ∧
      (bitAt w 63 = true → ¬ shape → Traps (.lmstream p .none) s ⟨.align, w, 0⟩) ∧
      (bitAt w 63 = true → shape → 524288 < start + len → Traps (.lmstream p .none) s ⟨.lmrange, w, 0⟩)) ∧
    (Ready s p [a, b] → a.isData = true → b.isData = true → s.cur.stores < s.cur.nst →
      let s1 := s.onCur fun f => { f with stores := f.stores + 1 }
      (∀ n, ext = some n → off % 8 = 0 → off + 8 ≤ n →
        ∀ f, s1.cur.deferAll (regsOf [t, u]) = .ok f → exec (.epatom p t u sub) s =
          .next { s with cur := (f.act (.epatom (bits w 63 56) off sub b.lo (regsOf [t, u]))).mark .issued }) ∧
      (ext = none → Traps (.epatom p t u sub) s ⟨.eprange, w, 0⟩) ∧
      (∀ n, ext = some n → (off % 8 ≠ 0 ∨ n < off + 8) → Traps (.epatom p t u sub) s ⟨.eprange, w, 0⟩)) ∧
    (Ready s p [] → Acts (.epfence p) s (·.act .epfence))


/-! ## Floating point, conversion and vectors (chapters 03 and 13) -/

namespace Sys2Proof.Claim

/-- A result that a function computes lane by lane, with the union of the lanes' flags (13 R201; 03 R43). -/
def Lanes (ty : FType) (g : Nat → Nat × Flags) (v : Value) (fl : Flags) : Prop :=
  v.kind = .data ∧ v.cap = false ∧ v.wide = !ty.scalar ∧ v.bits.toNat < 2 ^ (ty.bits * ftLanes ty) ∧
    (∀ j, j < ftLanes ty → lane v.bits ty.bits j = (g j).1 % 2 ^ ty.bits) ∧
    fl = ((List.range (ftLanes ty)).map fun j => (g j).2).foldl Flags.or Flags.none

/-- The state in which a floating-point instruction delivers: its flags wait for the commit (13 R202), and a vector instruction is
counted. -/
def flagged (s : State) (fl : Flags) (vec : Bool) : State := (s.onCur (·.flag fl)).tallyCur 0x04 (if vec then 1 else 0)

end Sys2Proof.Claim

/-- The arithmetic of Table 13-2 in every lane, with the union of the lanes' flags (13 R203; 03 R43). -/
def Sys2Proof.Claim.FloatArithmeticLaneByLane : Prop :=
  ∀ (s : State) (p : Pm) (t u : Tgt) (ty : FType) (rnd : Round) (a b c : Value),
    a.isData = true → b.isData = true → c.isData = true →
    let f := ftFmt ty
    let x := fun j => lane a.bits ty.bits j
    let y := fun j => lane b.bits ty.bits j
    let z := fun j => lane c.bits ty.bits j
    let gives := fun (i : Instr) (g : Nat → Nat × Flags) =>
      ∃ v fl, Lanes ty g v fl ∧ Delivers i s (flagged s fl (!ty.scalar)) [(t, v), (u, v)]
    (Ready s p [a, b] →
      gives (.fadd p t u ty rnd) (fun j => f.add rnd (x j) (y j)) ∧
      gives (.fsub p t u ty rnd) (fun j => f.sub rnd (x j) (y j)) ∧
      gives (.fmul p t u ty rnd) (fun j => f.mul rnd (x j) (y j)) ∧
      gives (.fdiv p t u ty rnd) (fun j => f.div rnd (x j) (y j))) ∧
    (Ready s p [a, b, c] → gives (.fma p t u ty rnd) (fun j => f.fma rnd (x j) (y j) (z j))) ∧
    (Ready s p [a] →
      gives (.fsqrt p t u ty rnd) (fun j => f.sqrt rnd (x j)) ∧ gives (.frsq p t u ty rnd) (fun j => f.rsq rnd (x j)) ∧
      gives (.frnd p t u ty rnd) (fun j => f.rndInt rnd (x j)) ∧ gives (.fexp2 p t u ty rnd) (fun j => f.exp2 rnd (x j)) ∧
      gives (.flog2 p t u ty rnd) (fun j => f.log2 rnd (x j)))

/-- One rounding (03 R36 to R38): the result is the neighbour that the mode names of the exact magnitude m · 2^e, on the grid of its
binade or of the subnormals; NX tells whether it differs; an overflow is where the rounding in the greatest binade would pass the
greatest finite value, and it gives what Rule R38 names. `cut` and `at_` scale by powers of two. -/
def Obligations.RoundsOnceToTheNeighbour : Prop :=
  ∀ (f : Fmt) (rnd : Round) (neg : Bool) (m : Nat) (e : Int), f ∈ [fp16, bf16, fp32, fp64] → 0 < m →
    let r := f.round rnd neg m e
    let grid : Int := max ((m.log2 : Int) + e) f.emin - f.fb
    let low := min e grid
    let cut := fun (n : Nat) (q : Int) => n * 2 ^ (q - low).toNat
    let exact := cut m e
    let unit := cut 1 grid
    r.2.nv = false ∧ r.2.dz = false ∧
    (r.2.ovf = false → ∃ n q, f.decode r.1 = .fin neg n q ∧ low ≤ q ∧
      let v := cut n q
      (rnd = .rz ∨ (rnd = .rp ∧ neg = true) ∨ (rnd = .rm ∧ neg = false) → v ≤ exact ∧ exact < v + unit) ∧
      ((rnd = .rp ∧ neg = false) ∨ (rnd = .rm ∧ neg = true) → exact ≤ v ∧ v < exact + unit) ∧
      (rnd = .rn → 2 * v ≤ 2 * exact + unit ∧ 2 * exact ≤ 2 * v + unit ∧
        (2 * v = 2 * exact + unit ∨ 2 * exact = 2 * v + unit → v / unit % 2 = 0)) ∧
      (r.2.nx = true ↔ v ≠ exact)) ∧
    (let most : Int := (f.bias : Int) - f.fb
     let at_ := fun (n : Nat) (q : Int) => n * 2 ^ (q - min e most).toNat
     let x := at_ m e
     let greatest := at_ (2 ^ (f.fb + 1) - 1) most
     let ulp := at_ 1 most
     (rnd = .rz ∨ (rnd = .rp ∧ neg = true) ∨ (rnd = .rm ∧ neg = false) → (r.2.ovf = true ↔ greatest + ulp ≤ x)) ∧
     ((rnd = .rp ∧ neg = false) ∨ (rnd = .rm ∧ neg = true) → (r.2.ovf = true ↔ greatest < x)) ∧
     (rnd = .rn → (r.2.ovf = true ↔ 2 * greatest + ulp ≤ 2 * x))) ∧
    (r.2.ovf = true → r.2.nx = true ∧
      let inf := fun s => f.decode r.1 = .inf s
      let greatest := fun s => f.decode r.1 = .fin s (2 ^ (f.fb + 1) - 1) ((f.bias : Int) - f.fb)
      (rnd = .rn → inf neg) ∧ (rnd = .rz → greatest neg) ∧
      (rnd = .rp → if neg then greatest true else inf false) ∧ (rnd = .rm → if neg then inf true else greatest false))

/-- NaNs and invalid operations (03 R42), and the special cases of Table 13-2 (13 R203), over the values that the codes stand for. -/
def Obligations.FloatSpecialCases : Prop :=
  ∀ (f : Fmt) (rnd : Round) (a b c : Nat) (sa sb : Bool) (m : Nat) (e : Int), f ∈ [fp16, bf16, fp32, fp64] →
    let inf := fun s => f.signed s f.infCode
    let invalid := (f.nanCode, Flags.mk true false false false false)
    let quieted := fun (n : Nat) (l : List Nat) =>
      (f.quiet (n % 2 ^ f.width), Flags.mk (l.any f.isSnan) false false false false)
    (∀ op ∈ [f.add rnd, f.sub rnd, f.mul rnd, f.div rnd],
      (f.isNan a = true → op a b = quieted a [a, b]) ∧
      (f.isNan a = false → f.isNan b = true → op a b = quieted b [a, b])) ∧
    (∀ op ∈ [f.sqrt rnd, f.rsq rnd, f.rndInt rnd, f.exp2 rnd, f.log2 rnd], f.isNan a = true → op a = quieted a [a]) ∧
    (f.decode a = .inf sa → f.decode b = .inf sb →
      (sa ≠ sb → f.add rnd a b = invalid) ∧ (sa = sb → f.add rnd a b = (inf sa, Flags.none)) ∧ f.div rnd a b = invalid) ∧
    (f.decode a = .inf sa → f.decode b = .fin sb m e →
      (m = 0 → f.mul rnd a b = invalid ∧ f.mul rnd b a = invalid) ∧
      (m = 0 → f.isNan c = false → f.fma rnd a b c = invalid) ∧
      (m = 0 → f.isNan c = true → f.fma rnd a b c = ((quieted c [a, b, c]).1, Flags.mk true false false false false)) ∧
      (m ≠ 0 → f.mul rnd a b = (inf (sa != sb), Flags.none)) ∧ f.div rnd a b = (inf (sa != sb), Flags.none) ∧
      f.div rnd b a = (f.signed (sb != sa) 0, Flags.none)) ∧
    (f.decode a = .fin sa m e → ∀ n g, f.decode b = .fin sb n g → n = 0 →
      (m = 0 → f.div rnd a b = invalid) ∧
      (m ≠ 0 → f.div rnd a b = (inf (sa != sb), Flags.mk false true false false false))) ∧
    (f.decode a = .fin sa m e →
      (m = 0 → f.sqrt rnd a = (f.signed sa 0, Flags.none) ∧
        f.rsq rnd a = (inf sa, Flags.mk false true false false false) ∧
        f.log2 rnd a = (inf true, Flags.mk false true false false false)) ∧
      (m ≠ 0 → sa = true → f.sqrt rnd a = invalid ∧ f.rsq rnd a = invalid ∧ f.log2 rnd a = invalid)) ∧
    (f.decode a = .inf sa →
      f.rndInt rnd a = (inf sa, Flags.none) ∧
      (sa = false → f.sqrt rnd a = (inf false, Flags.none) ∧ f.rsq rnd a = (0, Flags.none) ∧
        f.exp2 rnd a = (inf false, Flags.none) ∧ f.log2 rnd a = (inf false, Flags.none)) ∧
      (sa = true → f.sqrt rnd a = invalid ∧ f.rsq rnd a = invalid ∧ f.log2 rnd a = invalid ∧
        f.exp2 rnd a = (0, Flags.none)))

/-- FMINMAX, FCMP, FCLASS and FSIGN in every lane (13 R204 to R207). -/
def Sys2Proof.Claim.FloatComparesAndSigns : Prop :=
  ∀ (s : State) (p : Pm) (t u : Tgt) (ty : FType) (mm : MinMaxSub) (cs : FCmpSub) (sg : FSignSub) (a b : Value),
    a.isData = true → b.isData = true →
    let f := ftFmt ty
    let x := fun j => lane a.bits ty.bits j
    let y := fun j => lane b.bits ty.bits j
    let top := 2 ^ (ty.bits - 1)
    let nv := fun (q : Bool) => Flags.mk q false false false false
    let gives := fun (i : Instr) (q : Nat → Nat × Flags → Prop) =>
      ∃ g v fl, (∀ j, j < ftLanes ty → q j (g j)) ∧ Lanes ty g v fl ∧
        Delivers i s (flagged s fl (!ty.scalar)) [(t, v), (u, v)]
    (Ready s p [a, b] →
      gives (.fminmax p t u ty mm) (fun j r =>
        (r.2 = nv (f.isSnan (x j) || f.isSnan (y j))) ∧
        (f.isNan (x j) = false → f.isNan (y j) = false →
          (f.order (x j) (y j) = 0 → r.1 = x j) ∧
          (f.order (x j) (y j) < 0 → r.1 = if mm = .min ∨ mm = .minp then x j else y j) ∧
          (0 < f.order (x j) (y j) → r.1 = if mm = .min ∨ mm = .minp then y j else x j)) ∧
        (mm = .min ∨ mm = .max → (f.isNan (x j) = true → f.isNan (y j) = false → r.1 = y j) ∧
          (f.isNan (x j) = false → f.isNan (y j) = true → r.1 = x j)) ∧
        ((f.isNan (x j) = true ∧ (f.isNan (y j) = true ∨ mm = .minp ∨ mm = .maxp)) → r.1 = f.quiet (x j)) ∧
        (f.isNan (x j) = false → f.isNan (y j) = true → mm = .minp ∨ mm = .maxp → r.1 = f.quiet (y j))) ∧
      (∃ v fl, (∀ j, j < 64 → v.getLsbD j = (decide (j < ftLanes ty) && (f.cmp cs (x j) (y j)).1)) ∧
        fl = ((List.range (ftLanes ty)).map fun j => (f.cmp cs (x j) (y j)).2).foldl Flags.or Flags.none ∧
        Delivers (.fcmp p t u ty cs) s (flagged s fl (!ty.scalar)) [(t, .data v), (u, .data v)]) ∧
      gives (.fsign p t u ty sg) (fun j r => r.2 = Flags.none ∧ r.1 % top = x j % top ∧ r.1 < 2 * top ∧
        let minus := fun (n : Nat) => decide (top ≤ n)
        minus r.1 = match sg with
          | .cpy => minus (y j)
          | .ncpy => !(minus (y j))
          | .xsgn => minus (x j) != minus (y j))) ∧
    (Ready s p [a] → gives (.fclass p t u ty) (fun j r => r.2 = Flags.none ∧ match f.decode (x j) with
        | .inf neg => r.1 = if neg then 1 else 128
        | .nan n => r.1 = if f.signalling n then 256 else 512
        | .fin neg m _ => r.1 = if m = 0 then (if neg then 8 else 16) else if m < 2 ^ f.fb then (if neg then 4 else 32)
            else (if neg then 2 else 64)))

/-- CVT, CVTI and CVTF (13 R208 to R210; 03 R41, R44): the lanes that move, the random bits of `.rsd`, and the integer's
extension. -/
def Sys2Proof.Claim.ConversionsMoveTheirLanes : Prop :=
  ∀ (s : State) (p : Pm) (t : Tgt) (ty dty : FType) (rsd sg : Bool) (part : BitVec 2) (rnd : Round) (iw : IntWidth) (a : Value),
    Ready s p [a] → a.isData = true →
    let conv := fun j => (ftFmt ty).convert (ftFmt dty) rnd
      (if rsd then some (mix32 s.cur.time (agentNumber s.cur.agent) s.cur.turn j).toNat else none) (lane a.bits ty.bits j)
    let union := fun (l : List Nat) => (l.map fun j => (conv j).2).foldl Flags.or Flags.none
    let ns := ftLanes ty
    let nd := ftLanes dty
    let k := part.toNat
    let w := dty.bits
    let gives := fun (q : W512 → Prop) (fl : Flags) => ∃ v, q v ∧
      Delivers (.cvt p t dty rsd part ty rnd) s (flagged s fl (!ty.scalar)) [(t, ⟨.data, !dty.scalar, false, v⟩)]
    let n := iwBits iw
    let r := (ftFmt ty).toInt rnd n sg (a.bits.toNat % 2 ^ ty.bits)
    let v : Int := if sg then (a.lo.setWidth n).toInt else (a.lo.setWidth n).toNat
    let q := (ftFmt ty).ofInt rnd v
    ((Instr.cvt p t dty rsd part ty rnd).wellFormed = true →
      (ty.bits < w → gives (fun v => ∀ i, i < nd → lane v w i = (conv (k * nd + i)).1 % 2 ^ w)
        (union ((List.range nd).map (k * nd + ·)))) ∧
      (w ≤ ty.bits → gives (fun v => ∀ i, i < nd →
          (k * ns ≤ i ∧ i < k * ns + ns → lane v w i = (conv (i - k * ns)).1 % 2 ^ w) ∧
          (¬ (k * ns ≤ i ∧ i < k * ns + ns) → lane v w i = 0))
        (union (List.range ns)))) ∧
    (ty.scalar = true →
      Delivers (.cvti p t iw sg ty rnd) s (flagged s r.2 false)
        [(t, .data (if sg then (BitVec.ofInt n r.1).signExtend 64 else (BitVec.ofInt n r.1).setWidth 64))] ∧
      Delivers (.cvtf p t iw sg ty rnd) s (flagged s q.2 false) [(t, ⟨.data, false, false, BitVec.ofNat 512 q.1⟩)])

/-- Conversions to and from integers (03 R44): the range of the integer type bounds the result, with NV outside it; a NaN gives 0
with NV; and a narrowing of a NaN keeps its sign and never loses the whole fraction (03 R42). -/
def Sys2Proof.Claim.IntegerConversionsSaturate : Prop :=
  ∀ (f g : Fmt) (rnd : Round) (w : Nat) (sg : Bool) (c : Nat), f ∈ [fp16, bf16, fp32, fp64] → g ∈ [fp16, bf16, fp32, fp64] →
    w ∈ [8, 16, 32, 64] →
    let least : Int := if sg then -(2 ^ (w - 1)) else 0
    let greatest : Int := if sg then 2 ^ (w - 1) - 1 else 2 ^ w - 1
    let r := f.toInt rnd w sg c
    least ≤ r.1 ∧ r.1 ≤ greatest ∧ r.2.dz = false ∧ r.2.ovf = false ∧ r.2.unf = false ∧
    (∀ n, f.decode c = .nan n → r = (0, Flags.mk true false false false false)) ∧
    (∀ s, f.decode c = .inf s → r = (if s then least else greatest, Flags.mk true false false false false)) ∧
    (∀ s m e, f.decode c = .fin s m e → 0 ≤ e →
      let v : Int := (if s then -1 else 1) * (m * 2 ^ e.toNat)
      (v < least → r = (least, Flags.mk true false false false false)) ∧
      (greatest < v → r = (greatest, Flags.mk true false false false false)) ∧
      (least ≤ v → v ≤ greatest → r = (v, Flags.none))) ∧
    (∀ s m e, f.decode c = .fin s m e → e < 0 →
      let v : Int := (if s then -1 else 1) * (m : Int)
      let d := (2 : Int) ^ (-e).toNat
      r.2.nv = false → (rnd = .rm → r.1 = v / d) ∧ (rnd = .rz → r.1 = v.tdiv d) ∧ (rnd = .rp → r.1 = -((-v) / d)) ∧
        (rnd = .rn → (2 * (r.1 * d - v)).natAbs ≤ d.natAbs) ∧ (r.2.nx = true ↔ r.1 * d ≠ v)) ∧
    (∀ n, f.decode c = .nan n → ∃ k, g.decode (f.convert g rnd none c).1 = .nan k ∧ g.sign k = f.sign n ∧
      (f.convert g rnd none c).2 = Flags.none)

/-- GXPACK, GXUNP and the vector instructions (13 R211 to R216): the block of the sixteen lanes and its elements, the sum rounded
once, and the lanes that move. -/
def Obligations.VectorResults : Prop :=
  ∀ (s : State) (p : Pm) (t u : Tgt) (ty : FType) (vt : VType) (rnd : Round) (gw : GxWidth) (a b c : Value),
    a.isData = true → b.isData = true → c.isData = true →
    let ft := vtFt vt
    let w := ft.bits
    let n := ftLanes ft
    let k := b.lo.toNat % n
    let gives := fun (i : Instr) (v : Value) (fl : Flags) => Delivers i s (flagged s fl true) [(t, v), (u, v)]
    let moves := fun (i : Instr) (g : Nat → Nat) => ∃ v : W512, (∀ j, j < n → lane v w j = g j) ∧ gives i (.wideData v) Flags.none
    let packed := gxEncode (gwWidth gw) ((lanesOf a.bits 32 16).map fp32.decode)
    let sum := vredValue ft rnd a.bits
    let dot := fun (x : FType) (d : Option Nat) => dotValue x rnd a.bits b.bits d
    (Ready s p [a] →
      gives (.gxpack p t u gw) (.wideData (BitVec.ofNat 512 (gxPack (gwWidth gw) packed.1))) packed.2 ∧
      (ty ∈ [.vf16, .vbf16, .vf32] →
        let g := gxUnpack (gwWidth gw) (a.bits.toNat % 2 ^ (8 * (2 + 2 * gwWidth gw)))
        let rs := gxLanes ty (gxVals (gwWidth gw) g)
        ∃ v : W512, (∀ j, j < ftLanes ty → lane v ty.bits j = (rs.getD j (0, Flags.none)).1 % 2 ^ ty.bits) ∧
          gives (.gxunp p t u ty gw) (.wideData v) ((rs.map Prod.snd).foldl Flags.or Flags.none)) ∧
      gives (.vred p t u vt rnd) (.data (BitVec.ofNat 64 sum.1)) sum.2 ∧
      moves (.vbcast p t u vt) (fun _ => lane a.bits w 0)) ∧
    (Ready s p [a, b] →
      moves (.vshuf p t u vt false) (fun j => lane a.bits w (lane b.bits w j % n)) ∧
      moves (.vshuf p t u vt true) (fun j => lane a.bits w ((j + b.lo.toNat) % n)) ∧
      gives (.vlane p t u vt false) (.data (BitVec.ofNat 64 (lane a.bits w k))) Flags.none ∧
      (ty.scalar = false → gives (.vdot p t u ty rnd) (.data (BitVec.ofNat 64 (dot ty none).1)) (dot ty none).2)) ∧
    (Ready s p [a, b, c] →
      moves (.vlane p t u vt true) (fun j => if j = k then c.bits.toNat % 2 ^ w else lane a.bits w j) ∧
      (ty.scalar = true →
        let d := dot (dotType ty) (some (c.lo.toNat % 2 ^ (if ty = .f64 then 64 else 32)))
        gives (.vdot p t u ty rnd) (.data (BitVec.ofNat 64 d.1)) d.2))


/-! ## Matrix and lattice commands at their issue (chapters 14 and 15) -/

/-- The matrix commands (14 R220 to R227, R229): each is checked at its issue and joins the commit, after which it enters the queue;
what each fault names. -/
def Obligations.MatrixCommandsJoinTheQueue : Prop :=
  ∀ (s : State) (p : Pm) (ty : MatType) (bf : Bool) (tb : TileBuf) (acc : BitVec 2) (k : BitVec 6) (a b c : Value),
    let joins := fun (i : Instr) (op : MatOp) => Acts i s (·.act (.matrix op))
    let x := a.lo
    let y := b.lo
    let row := fun (r : Nat) => x.toInt + r * y.toInt
    let even := x.toNat % 32 = 0 ∧ y.toNat % 32 = 0
    let unit := fun (v : W64) => v.toNat % matUnit ty = 0
    let ctl := c.lo
    let rnd := fun (w : W64) => [Round.rn, .rz, .rp, .rm].getD (bits w 1 0) .rn
    (Ready s p [a, b] → a.isData = true → b.isData = true →
      (even → (∀ r, r < 8 → exactCanonical (row r) = true) →
        joins (.mlda p ty bf) (.load ⟨if bf then .ta1 else .ta0, false, x, y⟩) ∧
        joins (.mldb p ty bf) (.load ⟨if bf then .tb1 else .tb0, false, x, y⟩)) ∧
      (even → (∀ r, r < 8 → 0 ≤ row r ∧ row r + 32 ≤ 524288) → joins (.mldl p ty tb) (.load ⟨tb, true, x, y⟩)) ∧
      (x.toNat % 32 ≠ 0 → Traps (.mlda p ty bf) s ⟨.align, x, 0⟩ ∧ Traps (.mldb p ty bf) s ⟨.align, x, 0⟩ ∧
        Traps (.mldl p ty tb) s ⟨.align, x, 0⟩) ∧
      (bits x 63 4 = 0 → joins (.mma p ty .d) (.mma ty .d (bits x 1 0) (bitAt x 2) (bitAt x 3) (y.setWidth 32))) ∧
      (bits x 63 4 ≠ 0 → Traps (.mma p ty .d) s ⟨.matopnd, x, 0⟩)) ∧
    (Ready s p [a] → a.isData = true →
      (∀ m, m ≠ .d → bits x 63 4 = 0 → joins (.mma p ty m) (.mma ty m (bits x 1 0) (bitAt x 2) (bitAt x 3) 0)) ∧
      (s.cur.ovf.contains k.toNat = false → bits x 63 2 = 0 →
        joins (.mrel p (.port k) ty acc) (.mrel ty acc.toNat k.toNat (rnd x) s.cur.time)) ∧
      (s.cur.ovf.contains k.toNat = true → Traps (.mrel p (.port k) ty acc) s ⟨.timeovf, 0, 0⟩)) ∧
    (Ready s p [a] → a.isData = false → a.kind ≠ .null → s.cur.ovf.contains k.toNat = false →
      Acts (.mrel p (.port k) ty acc) s (·.act (.mrelKind k.toNat a.kind))) ∧
    (Ready s p [a] → a.kind = .null → Acts (.mrel p (.port k) ty acc) s id) ∧
    (Ready s p [a, b, c] → a.isData = true → b.isData = true → c.isData = true →
      (bits ctl 63 3 = 0 → unit x → unit y →
        (∀ r, r < matUnits ty → if bitAt ctl 2 then 0 ≤ row r ∧ row r + matUnit ty ≤ 524288 else exactCanonical (row r) = true) →
        joins (.mst p ty acc) (.mst ty acc.toNat x y (rnd ctl) (bitAt ctl 2))) ∧
      (bits ctl 63 3 ≠ 0 → Traps (.mst p ty acc) s ⟨.matopnd, ctl, 0⟩)) ∧
    (∀ d, Ready s p [a] → a.isData = true → localAddress a 0 64 = .ok d →
      let pe := s.pe s.cur.pe
      let ws := (List.range 8).map fun j => BitVec.ofNat 64 (pe.lmem.readNat d 64 / 2 ^ (64 * j))
      pe.present s.cur.job (d / 4096) = true → pe.refillBad (.slot s.cur.agent s.cur.turn) [d / 4096] = none →
      pe.badGran d 64 = none →
      (badCard ws = none → exec (.mjob p ty acc) s = .next (((s.onPe s.cur.pe (·.pin (d / 4096))).correct s.cur.pe d 64).onCur
        fun f => (f.act (.matrix (.job ty acc.toNat (cardOf ws)))).mark .issued)) ∧
      (∀ w, badCard ws = some w → Traps (.mjob p ty acc) s ⟨.badjob, w, 0⟩))

/-- CTR (14 R228): the word delivered, from the counts before, and the register after, with the limits' meaning of 0. With `.bp` the
bound of port 63 takes the place of the limits. -/
def Obligations.CounterStepsAndReports : Prop :=
  ∀ (s : State) (p : Pm) (t u : Tgt) (reg : BitVec 4), Ready s p [] →
    let r := s.getReg s.cur.agent reg.toNat
    let s1 := s.raisePts r.ts
    let w : W64 := r.bits.setWidth 64
    let limit := fun (n : Nat) => if n = 0 then 65536 else n
    let ip := s.portOf s.cur 63
    let steps := fun (bp : Bool) (s1 : State) (w : W64) =>
      let c1 := bits w 15 0
      let c2 := bits w 31 16
      let ek := limit (bits w 47 32) ≤ c1 + 1
      let er := ek ∧ limit (bits w 63 48) ≤ c2 + 1
      ∃ out next : W64,
        bits out 63 48 = c2 ∧ bits out 47 32 = c1 ∧ bits out 31 3 = 0 ∧ (bitAt out 2 = true ↔ er) ∧
        (bitAt out 1 = true ↔ ek) ∧ (bitAt out 0 = true ↔ c1 = 0) ∧
        bits next 63 32 = bits w 63 32 ∧ bits next 15 0 = (if ek then 0 else c1 + 1) ∧
        bits next 31 16 = (if er then 0 else if ek then c2 + 1 else c2) ∧
        Delivers (.ctr p t u bp reg) s (s1.onCur (·.act (.ctr reg.toNat next))) [(t, .data out), (u, .data out)]
    (r.st = .full → s.cur.regTaken reg.toNat = false → steps false s1 w) ∧
    (r.st = .full → s.cur.regTaken reg.toNat = true → Traps (.ctr p t u false reg) s ⟨.regdup, 0, 0⟩) ∧
    (r.st = .empty → ∀ bp, Waits (.ctr p t u bp reg) s) ∧
    (∀ x xs, r.st = .full → s.cur.regTaken reg.toNat = false → s.heads s.cur 63 = x :: xs → x.time = s.cur.time →
      let s2 := (s1.raisePts x.stamp).onCur (·.take 63 1)
      (x.val.kind = .bound → steps true s2 (packFields 64 [(32, 32, bits x.val.lo 63 32), (0, 32, bits w 31 0)])) ∧
      (x.val.kind = .eos → steps true s2 w)) ∧
    (r.st = .full → s.cur.regTaken reg.toNat = false → s.heads s.cur 63 = [] → s.cur.time < ip.frontier →
      steps true ((s1.raisePts ip.fstamp).onCur (·.take 63 0)) w)

/-- The lattice instructions (15 R234 to R245): the words checked at the issue, the operation that joins the commit, and what each
fault names. -/
def Sys2Proof.Claim.LatticeCommandsJoinTheCommit : Prop :=
  ∀ (s : State) (p : Pm) (t u : Tgt) (plane : BitVec 4) (sub : PcopySub) (ps : PactSub) (a b : Value),
    let x := a.lo
    let y := b.lo
    let g := geoOf x
    let e := (s.pe s.cur.pe).plane (bits x 3 0)
    let joins := fun (i : Instr) (op : LatOp) => Acts i s (·.act (.lattice op))
    (Ready s p [a, b] → a.isData = true → b.isData = true →
      (∀ w, badPlane x y = some w → Traps (.pldef p plane) s ⟨.badplane, w, 0⟩) ∧
      (badPlane x y = none → g.base + g.count * g.slot ≤ 524288 → joins (.pldef p plane) (.pldef plane.toNat x y)) ∧
      (badShift x true s.myRegion.stitch = false → joins (.pshift p true) (.pshift x y)) ∧
      (badShift x true s.myRegion.stitch = true → Traps (.pshift p true) s ⟨.badshift, x, 0⟩) ∧
      (bitAt x 7 = false → bits x 63 40 = 0 → bitAt y 3 = false → bits y 63 36 = 0 → joins (.pstep p) (.pstep x y)) ∧
      (bitAt x 7 = true ∨ bits x 63 40 ≠ 0 → Traps (.pstep p) s ⟨.badplane, x, 0⟩) ∧
      (ps ≠ .get → ps ≠ .tidy → bits x 63 6 = 0 → joins (.pact p t u ps) (.pact ps (bits x 3 0) (bits x 5 4) y))) ∧
    (Ready s p [a] → a.isData = true →
      (badShift x false s.myRegion.stitch = false → joins (.pshift p false) (.pshift x 0)) ∧
      (bits x 63 6 = 0 → joins (.pact p t u .tidy) (.pact .tidy (bits x 3 0) (bits x 5 4) 0)) ∧
      (bits x 63 6 = 0 → e.defined = true → 64 * bits x 5 4 < e.geo.count →
        ∃ v : W64, (∀ i, i < 64 → v.getLsbD i = e.act.getLsbD (64 * bits x 5 4 + i)) ∧
          Delivers (.pact p t u .get) s s [(t, .data v), (u, .data v)]) ∧
      (bits x 63 6 = 0 → e.defined = false ∨ e.geo.count ≤ 64 * bits x 5 4 → Traps (.pact p t u .get) s ⟨.badplane, x, 0⟩) ∧
      (bits x 63 8 = 0 → joins (.pcopy p sub) (.pcopy sub (bits x 3 0) (bits x 7 4))) ∧
      (bits x 63 8 ≠ 0 → Traps (.pcopy p sub) s ⟨.badplane, x, 0⟩))

/-- PSUM, LMARCH and SITE (15 R242, R243, R245): the reduction over the bricks of a plane, a ray that starts and is waited for, and
the lane values of a rule firing. -/
def Sys2Proof.Claim.LatticeValuesAreDelivered : Prop :=
  ∀ (s : State) (p : Pm) (t u : Tgt) (plane : BitVec 4) (op : PsumSub) (a : Value) (k : BitVec 3),
    let pe := s.pe s.cur.pe
    let e := pe.plane (bits a.lo 3 0)
    let pages := e.pages e.actives
    let pinned := (s.onPe s.cur.pe fun q => pages.foldl Pe.pin q).correctBricks s.cur.pe e e.actives
    let bricks := (List.range e.geo.count).map fun b => (List.range e.geo.sites).map fun i =>
      if e.act.getLsbD b then pe.lmem.readNat (e.geo.addr b i) (e.geo.width / 8) else e.q.toNat % 2 ^ e.geo.width
    let result := match op with
      | .sum => planeSum e.geo.efmt bricks
      | .max => planeExtreme true e.geo.efmt bricks.flatten
      | .min => planeExtreme false e.geo.efmt bricks.flatten
    let mine := fun (r : Ray) => r.agent = s.cur.agent ∧ r.slot = s.cur.turn
    let pl := pe.plane plane.toNat
    let site := fun (sel : SiteSel) (v : Value) => Delivers (.site p t u sel) s s [(t, v), (u, v)]
    let g := s.cur.group
    (Ready s p [a] → a.isData = true →
      (bits a.lo 63 4 = 0 → e.defined = true → (∀ n ∈ pages, pe.present s.cur.job n = true) →
        pe.refillBad (.slot s.cur.agent s.cur.turn) pages = none → pe.badBrick e e.actives = none → Delivers (.psum p t u op) s (pinned.onCur (·.flag result.2))
          [(t, .data (BitVec.ofNat 64 result.1)), (u, .data (BitVec.ofNat 64 result.1))]) ∧
      (bits a.lo 63 4 ≠ 0 ∨ e.defined = false → Traps (.psum p t u op) s ⟨.badplane, a.lo, 0⟩) ∧
      ((∀ r ∈ pe.march, ¬ mine r) → pl.defined = true → badRay a.bits pl.geo.dim = false →
        exec (.lmarch p t u plane) s = .next ((s.onPe s.cur.pe fun q =>
          { q with march := q.march ++ [startRay a.bits s.cur.agent s.cur.turn plane.toNat] }).onCur (·.mark .blocked))) ∧
      ((∀ r ∈ pe.march, ¬ mine r) → pl.defined = false → Traps (.lmarch p t u plane) s ⟨.badplane, plane.setWidth 64, 0⟩) ∧
      (∀ r w, pe.march.find? (fun r => r.agent == s.cur.agent && r.slot == s.cur.turn) = some r → r.result = some w →
        Delivers (.lmarch p t u plane) s (s.onPe s.cur.pe fun q => { q with march := q.march.filter fun x => x != r })
          [(t, .data w), (u, .data w)])) ∧
    (Ready s p [] →
      site (.inp k) (.wideData (g.inputs.getD k.toNat 0)) ∧ site .x (.wideData g.x) ∧ site .y (.wideData g.y) ∧
      site .z (.wideData g.z) ∧ site .rule (.wideData g.rules) ∧ site .walls (.wideData g.walls) ∧
      site .count (.data (BitVec.ofNat 64 g.sites.length)))


/-! ## Logical time (chapter 20) -/

/-- TIME (20 R309 and Table 20-5): NOW, the order of two times with the fields in which they agree, one field changed, and one field
read. -/
def Sys2Proof.Claim.TimeInstructionsFollowTheirTable : Prop :=
  ∀ (s : State) (p : Pm) (t u : Tgt) (a b : Value), a.isData = true → b.isData = true →
    let x := a.lo
    let y := b.lo
    let gives := fun (i : Instr) (v : W64) => Delivers i s s [(t, .data v), (u, .data v)]
    let k := bits y 2 0
    let n := (if bitAt y 3 then timeField x k else 0) + bits y 31 12
    let most := if k = 0 then 2 ^ 20 - 1 else 2 ^ 11 - 1
    let formed := k ≤ 4 ∧ bits y 63 32 = 0 ∧ bits y 11 5 = 0
    (Ready s p [] → gives (.timeNow p t u) s.cur.time) ∧
    (Ready s p [a, b] →
      (∃ v : W64, gives (.timeCmp p t u) v ∧ bits v 63 5 = 0 ∧
        (bits v 1 0 = if x = y then 0 else if x.toNat < y.toNat then 1 else 2) ∧ bits v 4 2 ≤ 5 ∧
        (∀ j, j < bits v 4 2 → timeField x j = timeField y j) ∧
        (bits v 4 2 < 5 → timeField x (bits v 4 2) ≠ timeField y (bits v 4 2))) ∧
      (formed → n ≤ most → ∃ v : W64, gives (.timeMake p t u) v ∧ timeField v k = n ∧
        (∀ j, j < k → timeField v j = timeField x j) ∧
        (∀ j, k < j → j ≤ 4 → timeField v j = if bitAt y 4 then 0 else timeField x j)) ∧
      (formed → most < n → Traps (.timeMake p t u) s ⟨.timeovf, y, 0⟩) ∧
      (¬ formed → Traps (.timeMake p t u) s ⟨.timeopnd, y, 0⟩) ∧
      (y.toNat ≤ 4 → gives (.timeField p t u) (BitVec.ofNat 64 (timeField x y.toNat))) ∧
      (4 < y.toNat → Traps (.timeField p t u) s ⟨.timeopnd, y, 0⟩))

/-- FRONT (20 R310, R311): READ delivers the frontier and joins its stamp, WAIT waits until it has passed a time, and SUBSCRIBE
acts at the commit. -/
def Sys2Proof.Claim.FrontiersAreReadAndWaitedFor : Prop :=
  ∀ (s : State) (p : Pm) (t u : Tgt) (l : Nat) (a b : Value), a.isData = true → b.isData = true →
    let f := s.frontAt l
    let gives := fun (i : Instr) => Delivers i s (s.raisePts f.2) [(t, .data f.1), (u, .data f.1)]
    let port := bits a.lo 25 20
    (Ready s p [a] →
      (frontLoc s a.lo false = .ok l → gives (.frontRead p t u)) ∧
      (∀ e, frontLoc s a.lo false = .error e → Traps (.frontRead p t u) s e) ∧
      (∀ r, s.cur.agent = .ctl r → frontLoc s a.lo false = .ok l →
        Acts (.frontSubscribe p) s (·.act (.subscribe 0 l))) ∧
      (∀ k, s.cur.agent = .node k → frontLoc s a.lo true = .ok l →
        (badFrontPort s k port l = false → Acts (.frontSubscribe p) s (·.act (.subscribe port l))) ∧
        (badFrontPort s k port l = true → Traps (.frontSubscribe p) s ⟨.frontsub, a.lo, 0⟩))) ∧
    (Ready s p [a, b] → frontLoc s a.lo false = .ok l →
      (b.lo < f.1 → gives (.frontWait p t u)) ∧ (¬ b.lo < f.1 → Waits (.frontWait p t u) s)) ∧
    (bits a.lo 63 26 ≠ 0 ∨ bits a.lo 19 17 ≠ 0 ∨ bits a.lo 15 10 ≠ 0 → frontLoc s a.lo false = .error ⟨.timeopnd, a.lo, 0⟩) ∧
    (a.lo.toNat < (s.job s.cur.job).root.nloc → a.lo.toNat < 1024 → frontLoc s a.lo false = .ok a.lo.toNat)

/-- TCAP (20 R298, R312): what NEW, ADVANCE and DROP demand of the held times, the epochs opened and the free slots, and what each
adds to the commit. -/
def Obligations.TimeCapabilitiesFollowTheirRules : Prop :=
  ∀ (s : State) (p : Pm) (t u : Tgt) (k l : Nat) (old : LTime) (a b : Value), a.isData = true → b.isData = true →
    let c := s.capsView
    let n := b.lo
    let fits := fun (d : Nat) => timeFits n d = true ∧ epochOf n ≠ 0xFFFFF
    let opens := (∀ e, c.hi.find l = some e → e < epochOf n) ∨ ∃ x ∈ c.held, (c.placeOf x.1).1 = l ∧ x.2.toNat ≤ n.toNat
    let fault := fun (i : Instr) (w : W64) => Traps i s ⟨.timecap, a.lo, w⟩
    (Ready s p [a, b] →
      (∀ r, s.cur.agent = .ctl r → c.loc = some l → c.free = some k → a.lo.toNat = l → fits c.depth →
        (opens → Delivers (.tcapNew p t u) s (s.onCur (·.act (.tcap (.new k l n))))
          [(t, .data (BitVec.ofNat 64 k)), (u, .data (BitVec.ofNat 64 k))]) ∧
        (¬ opens → fault (.tcapNew p t u) n)) ∧
      (c.free = none → fault (.tcapNew p t u) n) ∧
      (c.held.find a.lo.toNat = some old → fits (c.placeOf a.lo.toNat).2 → old.toNat ≤ n.toNat →
        Acts (.tcapAdvance p) s (·.act (.tcap (.advance a.lo.toNat n)))) ∧
      (c.held.find a.lo.toNat = some old → n.toNat < old.toNat → fault (.tcapAdvance p) n) ∧
      (c.held.find a.lo.toNat = none → fault (.tcapAdvance p) n)) ∧
    (Ready s p [a] →
      (c.held.find a.lo.toNat = some old → Acts (.tcapDrop p) s (·.act (.tcap (.drop a.lo.toNat)))) ∧
      (c.held.find a.lo.toNat = none → fault (.tcapDrop p) 0))

/-! ## Calls, system instructions and registers (chapters 22, 24 and 26) -/

/-- CALLQ (22 R329): the record joins the commit, or CALLFMT names its header. -/
def Sys2Proof.Claim.CallRecordsAreChecked : Prop :=
  ∀ (s : State) (p : Pm) (q : Queue) (ord : Bool) (a : Value), Ready s p [a] → a.isData = true →
    let h := a.lo
    let circ := bits h 21 10
    let known := ∃ e ∈ s.myRegion.retTable, e.1 = 8 * circ + queueCode q
    let sorted := s.myRegion.retTable.Pairwise fun x y => x.1 < y.1
    let good := bitAt h 22 = false ∧ bits h 9 8 = 0 ∧ (bitAt h 23 = true → circ = 0) ∧ (bitAt h 23 = false → known)
    sorted → (good → Acts (.callq p q ord) s (·.act (.callq q ord a.bits))) ∧
      (¬ good → Traps (.callq p q ord) s ⟨.callfmt, h, 0⟩)

/-- TRAP, BKPT, ERET, FEATQ and WDOG (24 R371 to R375). -/
def Sys2Proof.Claim.SystemInstructionsActAsDescribed : Prop :=
  ∀ (s : State) (p : Pm) (t u : Tgt) (a b : Value),
    let x := a.lo
    let y := b.lo
    let st := s.statusOf s.cur.agent
    let r := s.myRegion
    let origin := bits r.trec 51 48
    let sev := bits r.trec 47 46
    let limit := (s.job s.cur.job).pkg.stall
    let allowed := (x = 0) ∨ (x = 1 ∧ (origin = 0 ∨ origin = 8) ∧ y.toNat % 4 = 0) ∨ (x = 2 ∧ origin ≠ 0 ∧ sev ≠ 3)
    (Ready s p [a] → a.isData = true →
      (x.toNat < 65536 → Traps (.sysTrap p) s ⟨.swtrap, x, 0⟩) ∧
      (65536 ≤ x.toNat → Traps (.sysTrap p) s ⟨.sysopnd, x, 0⟩ ∧ Traps (.sysBkpt p) s ⟨.sysopnd, x, 0⟩) ∧
      (x.toNat < 65536 → bitAt st 13 = false ∨ bitAt st 12 = true →
        exec (.sysBkpt p) s = .next ((s.onStatus s.cur.agent fun w => statusSet w 12 false).onCur (·.mark .issued))) ∧
      (x.toNat < 65536 → bitAt st 13 = true → bitAt st 12 = false → exec (.sysBkpt p) s = .next s.breakStop)) ∧
    (Ready s p [a, b] → a.isData = true → b.isData = true →
      (x.toNat < 4 → bitAt r.status 14 = true → allowed → s.cur.exit = none →
        Acts (.sysEret p) s fun f => { f with exit := some (.eret x.toNat y, 0) }) ∧
      (x.toNat < 4 → bitAt r.status 14 = false ∨ ¬ allowed → Traps (.sysEret p) s ⟨.eretstate, x, y⟩) ∧
      (x.toNat < 2 ^ 32 → y.toNat < 2 ^ 24 → y.toNat ≤ limit → (y = 0 → limit = 0) →
        Delivers (.sysWdog p t u) s
          (s.onCur (·.act (.wdog (packFields 64 [(0, 32, x.toNat), (32, 24, y.toNat)]))))
          [(t, .data r.wdog), (u, .data r.wdog)]) ∧
      (x.toNat < 2 ^ 32 → (limit < y.toNat ∨ (y = 0 ∧ limit ≠ 0)) → Traps (.sysWdog p t u) s ⟨.sysopnd, y, 0⟩)) ∧
    (Ready s p [] → ∃ v : W64, bits v 31 16 = 0x1640 ∧ bits v 15 14 = peDie s.cur.pe % 4 ∧ bits v 5 0 = 63 ∧ bits v 63 32 = 0 ∧
      bits v 13 6 = 0 ∧ Delivers (.sysFeatq p t u) s s [(t, .data v), (u, .data v)])

/-- TLBINV, CSLOAD, PMONCTL, PMONRD and RRMARK (24 R371, R376, R377; 26 R400 to R402): the privilege rule, the operand checks, and
what joins the commit. -/
def Sys2Proof.Claim.PrivilegeAndOperandsOfSystemCommands : Prop :=
  ∀ (s : State) (p : Pm) (t u : Tgt) (a b : Value), a.isData = true → b.isData = true →
    let x := a.lo
    let y := b.lo
    let exe := bitAt (s.statusOf s.cur.agent) 15
    let bay := bits x 21 16
    let bayGood := bay < s.myBays.length ∧ (bitAt x 22 = true → bay = 0)
    let only := fun (v mask : W64) => v &&& ~~~mask = 0
    let aligned := x.toNat % 131072 = 0 ∧ x.toNat < 2 ^ 40 ∧ s.ownerOf x.toNat = 0xFFFF#16 ∧
      s.ownerOf (x.toNat + 65536) = 0xFFFF#16
    (Ready s p [a, b] →
      (exe = false → Traps (.sysTlbinv p) s ⟨.privop, 8, 0⟩ ∧ Traps (.sysCsload p) s ⟨.privop, 9, 0⟩) ∧
      (exe = true → only y 0xFFFF0003 → bits y 1 0 ≠ 3 → Acts (.sysTlbinv p) s (·.act (.tlbinv y x))) ∧
      (exe = true → bits y 1 0 = 3 → Traps (.sysTlbinv p) s ⟨.sysopnd, y, 0⟩) ∧
      (exe = true → only y 0x1FFFF0007 → bits y 2 0 < 6 →
        (bitAt y 32 = true ∨ aligned → Acts (.sysCsload p) s (·.act (.csload y x))) ∧
        (bitAt y 32 = false → ¬ aligned → Traps (.sysCsload p) s ⟨.csbad, x, y⟩)) ∧
      (exe = true → 6 ≤ bits y 2 0 → Traps (.sysCsload p) s ⟨.sysopnd, y, 0⟩)) ∧
    (Ready s p [a] →
      (only x 0x7F07F3 → bayGood → Acts (.sysPmonctl p) s (·.act (.pmonctl x))) ∧
      (¬ bayGood → Traps (.sysPmonctl p) s ⟨.sysopnd, x, 0⟩ ∧ Traps (.sysPmonrd p t u) s ⟨.sysopnd, x, 0⟩) ∧
      (only x 0x7F0003 → bayGood →
        let c := fun b => Map.get Pmon.blank (s.bay b).pmon (bits x 1 0)
        let v := if bitAt x 22 then (sumCounters (s.myBays.map c)).word else (c (s.myBays.getD bay 0)).word
        Delivers (.sysPmonrd p t u) s s [(t, .data v), (u, .data v)]) ∧
      Acts (.sysRrmark p) s (·.act (.rrmark x)))

/-- SREG (24 R378, R379 and Table 24-12): a read delivers the register as it stands; a write of bits inside the writable fields
joins the commit; SYSOPND and PRIVOP otherwise. -/
def Obligations.SystemRegistersFollowTheirTable : Prop :=
  ∀ (s : State) (p : Pm) (t : Tgt) (num : BitVec 13) (a : Value),
    let n := num.toNat
    let exe := bitAt (s.statusOf s.cur.agent) 15
    let thread := ∃ r, s.cur.agent = .ctl r
    let may := fun (r : Role) => match r with
      | .any => True
      | .thread => thread
      | .exec => exe = true
      | .nodeExec => ¬ thread ∨ exe = true
    (Ready s p [] →
      (∀ i, sregInfo n = some i → may i.rd → Delivers (.sregRd p t num) s s [(t, .data (s.sregRead n))]) ∧
      (sregInfo n = none → Traps (.sregRd p t num) s ⟨.sysopnd, 0, num.setWidth 64⟩) ∧
      (∀ i, sregInfo n = some i → i.rd = .exec → exe = false → Traps (.sregRd p t num) s ⟨.privop, 0, num.setWidth 64⟩) ∧
      (∀ i, sregInfo n = some i → i.rd = .thread → ¬ thread → Traps (.sregRd p t num) s ⟨.sysopnd, 0, num.setWidth 64⟩)) ∧
    (Ready s p [a] → a.isData = true →
      (∀ i role mask, sregInfo n = some i → i.wr = some (role, mask) → may i.rd → may role → a.lo &&& ~~~mask = 0 →
        badSelector s n a.lo = false → Acts (.sregWr p num) s (·.act (.sregWr n a.lo))) ∧
      (∀ i role mask, sregInfo n = some i → i.wr = some (role, mask) → may i.rd → may role → a.lo &&& ~~~mask ≠ 0 →
        Traps (.sregWr p num) s ⟨.sysopnd, a.lo, num.setWidth 64⟩) ∧
      (∀ i, sregInfo n = some i → i.wr = none → may i.rd → Traps (.sregWr p num) s ⟨.sysopnd, a.lo, num.setWidth 64⟩))

/-! ## Section commands (chapter 18) -/

/-- ARM, BOUND, DRAIN, RELEASE and GBCAST (18 R279, R282 to R284, R286, R287 and Table 18-3): what each demands of the section's
state and its operands, and that it joins the commit. -/
def Sys2Proof.Claim.SectionCommandsFollowTheStates : Prop :=
  ∀ (s : State) (p : Pm) (a b c : Value), a.isData = true → b.isData = true → c.isData = true →
    let v := s.sectView
    let running := v.st = .armed ∨ v.st = .draining
    let joins := fun (i : Instr) (op : SectOp) => Acts i s (·.act (.sect op))
    let faults := fun (i : Instr) (code : FaultCode) (sub : Nat) (w : W64) => Traps i s (sectTrap code s sub w)
    let e := b.lo.toNat
    let r := s.myRegion
    (Ready s p [a, b] →
      (v.st = .loaded ∨ (v.st = .done ∧ v.next = true) → e < 0xFFFFF → (∀ x, v.epoch = some x → x < e) →
        joins (.sectArm p) (.arm a.lo e)) ∧
      (v.st = .loaded → (∃ x, v.epoch = some x ∧ e ≤ x) → e < 0xFFFFF → faults (.sectArm p) .secttime 1 b.lo) ∧
      (v.st = .loaded → e = 0xFFFFF → Traps (.sectArm p) s ⟨.timeovf, b.lo, 0⟩) ∧
      (v.st = .loaded → 0xFFFFF < e → faults (.sectArm p) .sectopnd 1 b.lo) ∧
      (v.st = .idle ∨ running → faults (.sectArm p) .sectstate 1 b.lo) ∧
      (running → bits a.lo 63 15 = 0 → bits a.lo 10 8 = 0 → s.goodGroup (bits a.lo 7 0) = true →
        joins (.sectGbcast p) (.gbcast (bits a.lo 7 0) (bits a.lo 14 11) b.lo)) ∧
      (running → bits a.lo 63 15 = 0 → bits a.lo 10 8 = 0 → s.goodGroup (bits a.lo 7 0) = false →
        faults (.sectGbcast p) .badgroup 7 a.lo) ∧
      (¬ running → faults (.sectGbcast p) .sectstate 7 a.lo)) ∧
    (Ready s p [a, b, c] →
      (∀ n, running → a.lo.toNat < 2 ^ 15 → s.sectNode a.lo.toNat = some n → epochTime (v.epoch.getD 0) ≤ c.lo →
        Map.get 0 v.times n.place ≤ c.lo → joins (.sectBound p) (.bound n.place b.lo c.lo)) ∧
      (running → a.lo.toNat < 2 ^ 15 → s.sectNode a.lo.toNat = none → faults (.sectBound p) .sectdest 2 a.lo) ∧
      (¬ running → faults (.sectBound p) .sectstate 2 a.lo)) ∧
    (Ready s p [] →
      (v.st = .armed → joins (.sectDrain p) .drain) ∧
      (v.st ≠ .armed → faults (.sectDrain p) .sectstate 3 0) ∧
      ((v.st = .idle ∧ v.gone = false) ∨ (v.st = .done ∧ v.next = false) → s.anyOpen r = false →
        let still := r.nodes.all s.nodeIdle && !s.countsMoving s.cur.job && !(s.root s.cur.job).holdsAt v.info.locs
        (still = true → joins (.sectRelease p) .release) ∧ (still = false → Waits (.sectRelease p) s)) ∧
      (s.anyOpen r = true ∨ (v.st = .idle ∧ v.gone = true) → faults (.sectRelease p) .sectstate 5 0))

/-- CFGLOAD, SINKW and GRED (18 R281, R285, R287): the image that joins the commit, the wait for the sinks and the frontier
delivered, and the reduction of the members' registers. -/
def Sys2Proof.Claim.SectionCommandsWaitAndDeliver : Prop :=
  ∀ (s s1 : State) (p : Pm) (t u : Tgt) (a b : Value), a.isData = true → b.isData = true →
    let v := s.sectView
    let r := s.myRegion
    let root := s.root s.cur.job
    let sinks := v.info.sinks
    let front := fun l => Map.get 0 root.front l
    let least := if root.holdsAt sinks then (sinks.map front).foldl minTime LTime.top else LTime.top
    let grp := bits a.lo 7 0
    let e := s.groupEntry s.cur.job grp
    let ms := s.groupMembers r grp
    let regs := ms.map fun k => Map.get Reg.blank (s.pe k).nregs (bits a.lo 14 11)
    let result := gredValue (bits a.lo 10 8) (regs.map fun x => x.bits.setWidth 64)
    let running := v.st = .armed ∨ v.st = .draining
    (Ready s p [a] →
      (∀ raw img, (v.st = .idle ∧ v.gone = false) ∨ ((v.st = .draining ∨ v.st = .done) ∧ v.next = false) → a.lo.toNat % 64 = 0 →
        s.fetchImage (.slot s.cur.agent s.cur.turn) s.cur.region a.lo = (s1, .ok raw) →
        raw.parse a.lo (sectionAt (s1.job s1.cur.job).pkg a.lo) = some img → imageFault s1 s.cur.region a.lo raw img = none →
        exec (.sectCfgload p) s = .next (s1.onCur fun f => (f.act (.sect (.cfgload img))).mark .issued)) ∧
      (v.st = .armed ∨ (v.st = .idle ∧ v.gone = true) → Traps (.sectCfgload p) s (sectTrap .sectstate s 0 a.lo)) ∧
      (sinks ≠ [] →
        let passed := (∀ l ∈ sinks, a.lo < front l) ∧ s.firingsUpTo v.info a.lo = false
        let through := v.st = .done ∨ (running ∧ passed)
        (through → r.sinkErr = none → r.unjoined = [] →
          Delivers (.sectSinkw p t u) s ((s.raisePts ((sinks.map fun l => Map.get 0 root.fstamp l).foldl max 0)).onCur
            (·.act (.sect .sinkw))) [(t, .data least), (u, .data least)]) ∧
        (through → ∀ c, r.sinkErr = some c → Traps (.sectSinkw p t u) s
          ⟨.sinkerr, BitVec.ofNat 64 c, BitVec.ofNat 64 r.faultq.length⟩) ∧
        (running → ¬ passed → Waits (.sectSinkw p t u) s)) ∧
      (v.st = .idle → Traps (.sectSinkw p t u) s (sectTrap .sectstate s 4 a.lo))) ∧
    (Ready s p [a, b] → running → bits a.lo 63 15 = 0 → bits a.lo 10 8 ≤ 5 → s.goodGroup grp = true →
      let passed := b.lo < front (bits e 49 40) ∧ ∀ k ∈ ms, s.firingNow k = false
      (passed → (∀ x ∈ regs, x.st = .full) →
        let dst := if bits e 14 0 < agBase ∧ r.rect.has (bits e 14 0) = true then some (bits e 14 0) else none
        Delivers (.sectGred p t u) s ((s.onCur (·.flag result.2)).onCur
            (·.act (.sect (.gred dst (bits a.lo 14 11) result.1)))) [(t, .data result.1), (u, .data result.1)]) ∧
      (passed → (∃ x ∈ regs, x.st ≠ .full) → Traps (.sectGred p t u) s (sectTrap .regempty s 6 a.lo)) ∧
      (¬ passed → Waits (.sectGred p t u) s))


/-! ## Slices, executive space and the walkers' answers (chapters 02, 04 and 05) -/

namespace Sys2Proof.Claim

/-- A slice after the head of one of its class queues has left it. -/
def popped (s : State) (k cls : Nat) (rest : List Req) : State :=
  ({ s with refresh := s.refresh.filter (· != k / 32) }).onSlice k fun c =>
    { c with queues := c.queues.set! (cls - 1) rest, turn := cls % 5 }

end Sys2Proof.Claim

/-- SLICE_ACCESS (02 R26; 04 R54 to R56, R59): the class whose turn it is gives its head; an access that Table 2-4 refuses is answered
with its code; one to executive space acts there; one whose line is held acts on the line with its lease and is answered; one whose
line is not held waits in a fill buffer. -/
def Obligations.SliceAnswersAccesses : Prop :=
  ∀ (s : State) (k cls victim : Nat) (sram : SoftError) (r : Req) (rest : List Req), 1 ≤ cls → cls ≤ 5 →
    (s.slice k).queues.toList.getD (cls - 1) [] = r :: rest →
    let t := popped s k cls rest
    let line := r.addr / 64
    let i := Instr.sliceAccess k cls victim sram
    let calm := Instr.sliceAccess k cls victim .clean
    let plain := s.accessError r.job r.addr r.n r.op.writes = none ∧ inExec r.addr = false ∧
      (r.op.writes = true → s.captureNeeded r.addr r.n = none)
    let c := s.slice k
    let held := c.lines.find line
    let single := r.op ≠ .loadV ∧ r.op ≠ .storeV ∧ r.n < 64
    (s.nextClass k ≠ some cls → exec i s = .next s) ∧
    (s.nextClass k = some cls →
      (∀ e, s.accessError r.job r.addr r.n r.op.writes = some e → exec i s = .next (t.answerError k r e)) ∧
      (s.accessError r.job r.addr r.n r.op.writes = none → inExec r.addr = true →
        exec i s = .next ((t.accessExec r).1.sendReply k (t.accessExec r).2)) ∧
      (c.pending line r.sectors = none →
        (∀ l, plain → single → held = some l → l.poison = false → l.errs = [] → r.needs l = [] →
          let x := r.apply l
          let lease := if x.2.2 then storeLease l r.pts else loadLease l r.pts r.lease
          max lease.1 lease.2 ≤ 2 ^ 47 →
            exec calm s = .next ((t.onSlice k fun c =>
              { c with lines := c.lines.set line { x.1 with wts := lease.1, rts := lease.2 } }).sendReply k
                ⟨r, none, x.2.1, x.2.2, lease.1, lease.2, false, if r.op == .load then t.lineBytes k line else x.2.1⟩)) ∧
        (∀ l, plain → held = some l → l.poison = true → l.errs = [] → r.wholeLine = false →
          exec calm s = .next (t.answerError k r .poison)) ∧
        (plain → single → held = none → r.op = .load → 0 < r.n → r.addr % 64 + r.n ≤ 64 → s.poison.contains line = false →
          c.hasWay line = true → (∀ f ∈ c.fills, f.line ≠ line) → c.fills.length < 64 →
            exec calm s = .next (t.onSlice k fun c =>
              { c with fills := c.fills ++ [⟨line, sectorMask (sectorsOf (r.addr % 64) r.n), [r]⟩] }))))

/-- SECTOR_FILL, BOLTER_FILL and SCRUB_READ (02 R29 to R31; 04 R55, R66, R70): what a fill with no access behind it leaves in the line
and in the counters, and what a read of HBM and the scrubber find. -/
def Sys2Proof.Claim.FillsAndScrubbing : Prop :=
  ∀ (s : State) (k idx line : Nat) (f : Fill) (e : SoftError), (s.slice k).fills[idx]? = some f → f.waiting = [] →
    let fills := fun (t : State) => (t.onSlice k fun c => { c with fills := c.fills.eraseIdx idx }).fillSectors k f.line
      ((List.range 4).filter fun i => f.sectors / 2 ^ i % 2 = 1)
    let view := inView (64 * f.line)
    let n := s.sliceOf (64 * line)
    let struck := fun (e : SoftError) => ({ s with hbmErr := s.hbmErr.set line e } : State)
    let corrected := ({ s with hbmErr := (s.hbmErr.set line .corrected).drop line } : State).onSlice n fun c =>
      { c with corrHbm := min (c.corrHbm + 1) 0xFFFFFFFF }
    (view = false → exec (.sectorFill k idx .clean) s = .next (fills s).1 ∧
      (e ≠ .clean → exec (.sectorFill k idx e) s = .next (fills { s with hbmErr := s.hbmErr.set f.line e }).1)) ∧
    (view = true → exec (.bolterFill k idx) s = .next (fills s).1 ∧ exec (.sectorFill k idx e) s = .next s) ∧
    (view = false → exec (.bolterFill k idx) s = .next s) ∧
    (struck .corrected).readHbm line = (corrected, false) ∧
    ((struck .uncorrectable).readHbm line).2 = true ∧ ((struck .uncorrectable).readHbm line).1.poison.contains line = true ∧
    (line < 2 ^ 34 →
      (s.hbmErr.find line = none → exec (.scrubRead line .clean) s = .next s) ∧
      exec (.scrubRead line .corrected) s = .next corrected ∧
      Goes (.scrubRead line .uncorrectable) s fun u => u.poison.contains line = true ∧ u.mem = s.mem ∧
        (∀ j, j < 16 → ((s.slice n).entryAt j).v = false → (∀ i, i < j → ((s.slice n).entryAt i).v = true) →
          (u.slice n).entryAt j =
            ⟨true, 5, 5, BitVec.ofNat 46 (64 * line), s.ownerOf (s.ownerPlace (64 * line)), 3, BitVec.ofNat 32 n⟩))

/-- A fill of a device line (04 R55): each sector asked for is valid afterwards, and one that was not held holds the bytes of
memory. -/
def Sys2Proof.Claim.FillBringsTheBytesOfMemory : Prop :=
  ∀ (s : State) (k line i : Nat) (secs : List Nat) (l : Line), s.windowAt (64 * line) = none → inView (64 * line) = false →
    s.hbmErr.find line = none → (s.slice k).lines.find line = some l → i ∈ secs → (∀ j ∈ secs, j < 4) →
    ∃ u, s.fillSectors k line secs = (u, none) ∧ u.mem = s.mem ∧ ∃ l', (u.slice k).lines.find line = some l' ∧
      l'.sector i ≠ .invalid ∧ l'.wts = l.wts ∧ l'.rts = l.rts ∧
      (l.sector i ≠ .invalid → l'.get (16 * i) 16 = l.get (16 * i) 16) ∧
      (l.sector i = .invalid → l'.get (16 * i) 16 = s.mem.readNat (64 * line + 16 * i) 16 % 2 ^ 128)

/-- The address-range table, the owner tags and the error log (02 R22, R23, R25, R27, R28), each step with the whole state after it. -/
def Sys2Proof.Claim.ExecutiveTablesChangeAsWritten : Prop :=
  ∀ (s : State) (k n i : Nat) (stride : BitVec 5) (tag : BitVec 16),
    let e := s.artAt k
    let x : ArtEntry := { e with stride := stride }
    let fail := artFail s.art k x
    let whole := 512 * 2 ^ stride.toNat
    let device := e.limit.toNat < 2 ^ 34
    (k < 64 →
      (e.en = false → exec (.artEntryEnable k stride) s = .next { s with art := s.art.set k { x with en := fail == 0, fail := BitVec.ofNat 2 fail } }) ∧
      (e.en = true → exec (.artEntryEnable k stride) s = .next { s with art := s.art.set k e }) ∧
      exec (.artEntryDisable k) s = .next { s with art := s.art.set k { e with en := false } }) ∧
    (fail = 0 ↔ 6 ≤ stride.toNat ∧ stride.toNat ≤ 21 ∧ e.base.toNat ≤ e.limit.toNat ∧
      (∀ o ∈ s.art, o.1 ≠ k → o.2.en = true → o.2.limit.toNat < e.base.toNat ∨ e.limit.toNat < o.2.base.toNat) ∧ e.mask ≠ 0 ∧
      (device ∨ 2 ^ 39 ≤ e.base.toNat) ∧
      (device → e.mask = BitVec.allOnes 64 ∧ e.base.toNat * 64 % whole = 0 ∧ (e.limit.toNat + 1) * 64 % whole = 0)) ∧
    (n < 2 ^ 24 → Goes (.ownerTagWrite n tag) s fun t => (∃ o, t = { s with owner := o }) ∧
      (s.owner.Pairwise (fun a b => a.1 < b.1) → ∀ p, Map.get 0 t.owner p = if p = n then tag else Map.get 0 s.owner p)) ∧
    (n < 512 → i < 16 → exec (.errorLogFree n i) s = .next (({ s with signals := s.signals.filter (· != Signal.errorLog n i) } :
      State).onSlice n fun c => { c with errlog := c.errlog.set! i { c.entryAt i with v := false } })) ∧
    (n < 512 → exec (.lostClear n) s = .next (s.onSlice n fun c => { c with lost := 0 }))

/-- The maintenance commands (04 R58, R62): a command starts where none runs, REBASE is refused over valid lines, when it
starts and when it ends, and the rebase returns every EVTS to 0. -/
def Sys2Proof.Claim.MaintenanceCommandsStartAndEnd : Prop :=
  ∀ (s : State),
    let starts := fun (i : Instr) (op : BitVec 3) =>
      (s.maint.busy = false → exec i s = .next { s with maint := { s.maint with mop := op, err := false, busy := true } }) ∧
      (s.maint.busy = true → exec i s = .next s)
    let valid := ∃ c ∈ s.slices, ∃ l ∈ c.2.lines, ∃ j, j < 4 ∧ l.2.sector j ≠ .invalid
    starts .writeBackRange 1 ∧ starts .writeBackInvalidateRange 2 ∧ starts .writeBackInvalidateAll 3 ∧
    (¬ valid → starts .rebase 4) ∧
    (valid → s.maint.busy = false → exec .rebase s = .next { s with maint := { s.maint with mop := 4, err := true } }) ∧
    (s.maint.busy = true → Goes .maintenanceDone s fun t => t.maint.busy = false ∧
      (s.maint.mop = 4 → ¬ valid → t.maint.leasehi = false ∧ t.mem = s.mem ∧ ∀ k, (t.slice k).evts = 0 ∧ (t.slice k).lines = []) ∧
      (s.maint.mop = 4 → valid → t.maint.err = true ∧ t.slices = s.slices ∧ t.mem = s.mem)) ∧
    (s.maint.busy = false → exec .maintenanceDone s = .next s)

/-- Format windows and registers that the executive writes (04 R63, R64, R69; 24 R378): enabling is checked, an enabled window keeps
its fields, and a write changes the writable fields alone. -/
def Sys2Proof.Claim.WindowsAndRegisterWrites : Prop :=
  ∀ (s : State) (n r k : Nat) (v : W64),
    let w := s.windowK n
    let x : Window := { w with fmt := BitVec.ofNat 2 (bits v 62 61), sc := bitAt v 60, scbase := v.setWidth 46 }
    let fail := windowFail s.windows n x
    let put := fun (old mask : W64) => (old &&& ~~~mask) ||| (v &&& mask)
    (n < 32 → w.en = false → Goes (.formatWindowEnable n v) s fun t =>
      t = { s with windows := s.windows.set n { x with en := fail == 0, fail := BitVec.ofNat 3 fail } }) ∧
    (n < 32 → w.en = true → exec (.formatWindowEnable n v) s = .next s) ∧
    (n < 32 → Goes (.formatWindowDisable n) s fun t => (t.windowK n).en = false ∧ t.regions = s.regions ∧ t.pes = s.pes) ∧
    exec (.registerWrite (.region r 0x001) v) s = .next (s.onRegion r fun g => { g with tvec := put g.tvec 0x807FFFFFFFFFFFFC }) ∧
    exec (.registerWrite (.region r 0x020) v) s = .next (s.setXroot (s.region r).job (v &&& 0x80003FFFFFFF0000)) ∧
    (∀ e, s.accessError execTag k 8 true = some e → Goes (.registerWrite (.phys k) v) s fun t =>
      t.mem = s.mem ∧ t.regions = s.regions ∧ t.pes = s.pes ∧ t.art = s.art ∧ t.windows = s.windows ∧ t.maint = s.maint) ∧
    (s.accessError execTag k 8 true = none → k % 8 = 0 → inExec k = true →
      exec (.registerWrite (.phys k) v) s = .next (s.execWord k v)) ∧
    exec (.registerWrite (.region r 0x000) v) s =
      .next (s.onRegion r fun g => { g with status := insertBits g.status 0 5 (bits v 4 0) }) ∧
    exec (.registerWrite (.pe k 0x021) v) s = .next (s.onPe k fun p => { p with lback := v &&& 0x3FFFFFFFFF00 }) ∧
    exec (.registerWrite (.module 0x023) v) s = .next { s with saveKey := insertBits s.saveKey 0 64 v.toNat }

/-- PAGE_RESUME and PAGE_REFUSE (05 R80): the executive's answer reaches every translation withheld for the page that has none yet,
and no other; a drained context that waits for the page bids again. -/
def Sys2Proof.Claim.PageAnswersReachTheirWaiters : Prop :=
  ∀ (s : State) (job vpage : Nat) (ok : Bool),
    let i := if ok then Instr.pageResume job vpage else Instr.pageRefuse job vpage
    Goes i s fun t =>
      t.withheld.length = s.withheld.length ∧ t.mem = s.mem ∧ t.pes = s.pes ∧ t.cur = s.cur ∧ t.jobs = s.jobs ∧
      (∀ (n : Nat) (w : Withheld), s.withheld[n]? = some w →
        (w.job = job → w.vpage = vpage → w.answer = none → t.withheld[n]? = some { w with answer := some ok }) ∧
        (w.job ≠ job ∨ w.vpage ≠ vpage ∨ w.answer ≠ none → t.withheld[n]? = some w)) ∧
      (∀ c ∈ s.saves, c.2.live = true → c.2.lost = false →
        (∃ w, c.2.page = some w ∧ w.job = job ∧ w.vpage = vpage ∧ w.answer = none) → ∃ b ∈ t.bids, b.ctx = some c.1)


/-! ## Networks, circuits and replies (chapters 08 and 11) -/

/-- PACKET_HOP, RELAY_FORWARD, REQUEST_DAMAGED and REPLY_RESEND complete (08 R122, R123, R132; 19 R289; 16 R253): a packet is injected, hops
or is relayed over a seam where the buffers have room, enters its slice's queue, is merged, and what a damaged packet becomes; each
with the whole state after it. -/
def Obligations.PacketsMoveAndAreAnswered : Prop :=
  ∀ (s : State) (n rid : Nat) (p : Packet) (r : Req), s.packets.find n = some p → p.merged = none →
    let put := fun (x : Packet) => { s with packets := s.packets.set n x }
    let queue := (s.slice p.slice).queues.toList.getD (r.cls - 1) []
    let hop := Instr.packetHop n none
    let damaged : Reply := ⟨r, some .uncorr, 0, false, 0, 0, false, 0⟩
    (p.side = 6 →
      (s.inBuffer p p.at_ 0 < 4 → exec hop s = .next (put { p with side := 0 })) ∧
      (4 ≤ s.inBuffer p p.at_ 0 → exec hop s = .next s)) ∧
    (p.side ≠ 6 →
      (∀ at_ side ring, s.wayOf p = .go at_ side ring →
        (s.roomFor p at_ side ring = true → exec hop s = .next (put { p with at_ := at_, side := side, resent := 0 })) ∧
        (s.roomFor p at_ side ring = false → exec hop s = .next s)) ∧
      (s.wayOf p = .here → p.body = .req r → queue.length < 32 →
        let entered := s.onSlice p.slice fun c => { c with queues := c.queues.set! (r.cls - 1) (queue ++ [r]) }
        exec hop s = .next { entered with packets := s.packets.drop n }) ∧
      (p.body = .req r → s.pendingIn r rid p.at_ = true →
        exec (.packetHop n (some rid)) s = .next ((put { p with merged := some rid }).tally (placeBay p.at_) 0x0A 1)) ∧
      (∀ at_ c, s.wayOf p = .seam at_ c →
        (s.roomFor p at_ 5 false = true →
          exec (.relayForward n) s = .next (put { p.crossed c with at_ := at_, side := 5, resent := 0 })) ∧
        (s.roomFor p at_ 5 false = false → exec (.relayForward n) s = .next s)) ∧
      (p.body = .req r → exec (.requestDamaged n) s =
        .next ((put ⟨p.plane, p.at_, 6, s.reqPlace r, p.slice, .reply damaged, 0, none⟩).releaseMerged damaged))) ∧
    (∀ rep, p.body = .reply rep →
      (p.resent < 15 → exec (.replyResend n) s = .next (put { p with resent := p.resent + 1 })) ∧
      (15 ≤ p.resent → exec (.replyResend n) s = .next s))

/-- Tokens on a circuit (08 R119, R120, R126; 04 R61): the oldest token of a box moves over every branch of its entry at once, or not
at all; an outgoing token enters its box; and a mailbox passes its oldest token, to the next mailbox of a circuit between
diagonal dies, or holds it. -/
def Sys2Proof.Claim.TokensAdvanceOnTheirCircuits : Prop :=
  ∀ (s : State) (k tag n key : Nat) (t : Token) (ts : List Token), tag < 4096 →
    let p := s.pe k
    let box := Map.get [] p.boxes tag
    let branches := s.branches k tag
    (box = t :: ts → (∀ b ∈ branches, s.branchRoom k tag t b = true) →
      exec (.tokenHop k tag) s =
        .next (branches.foldl (State.overBranch k tag t) (s.onPe k fun p => { p with boxes := p.boxes.set tag ts }))) ∧
    (box = t :: ts → p.outq.find tag = none → (∃ b ∈ branches, s.branchRoom k tag t b = false) →
      exec (.tokenHop k tag) s = .next s) ∧
    (box = [] → Map.get [] p.outq tag = t :: ts →
      exec (.tokenHop k tag) s = .next ((s.onPe k fun p => { p with outq := p.outq.set tag ts }).onPe k fun p =>
        { p with boxes := Map.modify [] p.boxes tag (· ++ [t]) })) ∧
    (∀ m, Map.get [] (s.slice n).mailbox key = t :: ts →
      ((s.mailRegion (key / 4096)).mail.find? fun m => (m.slice == n || m.second == some n) && m.tag == key % 4096) = some m →
      Map.get .clean (s.slice n).mailErr key = .clean →
      let popped := s.onSlice n fun c => { c with mailbox := c.mailbox.set key ts, mailErr := c.mailErr.drop key }
      let room := (Map.get [] (s.pe m.toPe).boxes m.tag).length < 2 ∧ entryV ((s.pe m.toPe).entry m.tag) = true
      let last := m.slice ≠ n ∨ m.second = none
      (s.mailWay (key / 4096) m t = .passed → last → room → exec (.mailboxForward n key) s = .next (popped.pushBox m.toPe m.tag t)) ∧
      (s.mailWay (key / 4096) m t = .passed → last → ¬ room → exec (.mailboxForward n key) s = .next s) ∧
      (∀ k2, s.mailWay (key / 4096) m t = .passed → m.slice = n → m.second = some k2 → s.mailBytes k2 key + t.bytes ≤ 128 →
        exec (.mailboxForward n key) s = .next (popped.pushMail k2 key t)) ∧
      (s.mailWay (key / 4096) m t = .held → exec (.mailboxForward n key) s = .next s) ∧
      (s.mailWay (key / 4096) m t = .absorbed → exec (.mailboxForward n key) s = .next popped))

/-- A token that reaches a port (08 R115; 17 R271; 20 R302; 24 R355, R362): it joins the tail of the port's queue, is absorbed by a
sealed node with its count, or breaks TIMEORDER behind the frontier; a MARK is noted and takes no place. -/
def Sys2Proof.Claim.ArrivalsJoinTheQueue : Prop :=
  ∀ (s : State) (k port : Nat) (t : Token), s.noteSink k port t = s →
    let p := s.pe k
    let ip := p.inport port
    let a := s.arrive k port t
    let taken := fun (g : InPort → InPort) => s.onPe k fun p => { p with inports := Map.modify InPort.blank p.inports port g }
    (t.val.kind = .mark → p.sealed = false → a = (taken fun x => { x with marked := true }, [])) ∧
    (t.val.kind ≠ .mark → p.sealed = true → a = (s, s.portCount k port t.time (-1))) ∧
    (t.val.kind ≠ .mark → p.sealed = false → p.active.iloc port ≠ none → t.time < ip.passed → ∀ r, p.region = some r →
        a = (s.unrecoverable r k .timeorder 0 0, s.portCount k port t.time (-1))) ∧
    (t.val.kind ≠ .mark → p.sealed = false → p.active.coalesces port = false →
      (p.active.iloc port = none ∨ ¬ t.time < ip.passed) → ip.counts = [] →
        a = (taken fun x => { x with q := x.q ++ [t], counts := [] }, []))

/-- DEVICE_REPLY and LINKUNCORR complete (11 R179 to R181; 09 R141; 16 R250, R253; 08 R132): a reply lands at the port of its access; one that
came of a merge and does not reach the port's pts is asked for again; one that sixteen attempts could not send breaks its link. -/
def Obligations.RepliesReachTheirAgents : Prop :=
  ∀ (s s1 : State) (n : Nat) (pk : Packet) (rep : Reply) (w : PortAt) (p : Port) (r : Req),
    s.packets.find n = some pk → pk.body = .reply rep → pk.at_ = pk.dst →
    ({ s with packets := s.packets.drop n }).findPort rep.req.port = (s1, some (w, p)) →
    p.flight.find? (fun q => q.rid == rep.req.rid) = some r →
    let again := rep.merged = true ∧ rep.err = none ∧ rep.rts < p.pts
    (¬ again → exec (.deviceReply n) s = .next (s1.landReply w p r rep)) ∧
    (again → exec (.deviceReply n) s = .next (s1.renew w p r)) ∧
    (15 ≤ pk.resent → exec (.linkuncorr n) s = .next (s1.linkBroken w p r)) ∧
    (pk.resent < 15 → exec (.linkuncorr n) s = .next s)

/-- What a reply does for the registers of an access (09 R141; 11 R181): a deferred write that has committed is filled with the value
and the timestamp, or the register records the error, which enters the queue. -/
def Sys2Proof.Claim.DeferredWritesAreFilledOrFail : Prop :=
  ∀ (s : State) (p : Port) (a : Agent) (r : Req) (rep : Reply) (i : Nat), r.regs = [i] →
    let v := r.value rep.val
    let t : Trap := ⟨.memerr, BitVec.ofNat 64 ((rep.err.map ErrCode.num).getD 0), BitVec.ofNat 64 r.addr⟩
    (∀ x, a ≠ .rule x) →
    (rep.err = none →
      (s.blockReply .tail p a r rep).getReg a i =
        ⟨.full, (v.forReg (agentKind a) i).bits, (v.forReg (agentKind a) i).cap, max rep.req.pts rep.wts, false⟩ ∧
      ∀ j, j ≠ i → (s.blockReply .tail p a r rep).getReg a j = s.getReg a j) ∧
    (∀ e, rep.err = some e → s.blockReply .tail p a r rep =
      ((s.putReg a i ⟨.failed t, 0, false, 0, false⟩).accessFailed p a r t))

/-- Uncorrectable errors (08 R132; 24 R355, R360): one in the storage of a PE contains its node and is recorded; one on a circuit
drops the token with its counts and contains the nodes that it was bound for. -/
def Sys2Proof.Claim.UncorrectableErrorsContainTheirNode : Prop :=
  ∀ (s : State) (k tag r : Nat) (t : Token) (ts : List Token),
    let p := s.pe k
    (p.region = some r → p.active.node.isSome = true → p.sealed = false →
      exec (.softerr k) s = .next (s.unrecoverable r k .softerr 0 0)) ∧
    (p.region = some r → p.sealed = true → exec (.softerr k) s = .next s) ∧
    (Map.get [] p.boxes tag = t :: ts → tag < 4096 → t.val.kind ≠ .mark →
      let s1 := s.onPe k fun p => { p with boxes := p.boxes.set tag ts }
      exec (.circuitUncorr k tag) s = .next ((s1.arriveCount k t.stamp (s1, s.branchCounts k tag t.time (-1))).linkFault
        ((s.ends k tag).map Prod.fst))) ∧
    (p.lops ≠ [] → exec (.circuitUncorr k raceTag) s = .next (s.linkFault [k])) ∧
    (p.region = some r → p.sealed = false → s.linkFault [k] = s.unrecoverable r k .linkuncorr 0 0) ∧
    (p.sealed = true → s.linkFault [k] = s) ∧
    k ∈ s.containedSet r k ∧
    (p.seal.stopped = true ∧ p.seal.sealed = true ∧ p.seal.caps = [] ∧ p.seal.matrix.queue = [] ∧ p.seal.lops = [] ∧
      ∀ e ∈ p.seal.inports, e.2.q = [])


/-! ## Copy engines and local memory (chapters 06 and 07) -/

/-- COPY_TILE_START, FREE_NOTICE, FULL_NOTICE, COPY_TILE_COMPLETE and COPY_POISON (06 R90, R92, R94, R98, R100): an inbound engine
starts the next tile only with a credit for every branch, an outbound one with the full slot WR; a free notice adds one credit for its
branch; a tile none of whose accesses is left moves its slots on; a failure poisons the handles. -/
def Sys2Proof.Claim.CopyEnginesMoveTiles : Prop :=
  ∀ (s s1 s2 : State) (bay n tile : Nat) (st : Stream) (m : Map Nat), (s.bay bay).streams.find n = some st →
    let start := Instr.copyTileStart bay n
    let full := Instr.fullNotice bay n
    (∀ b bs, st.inbound = true → st.notices = b :: bs → exec (.freeNotice bay n) s = .next (s.onStream bay n fun x =>
      { x with notices := bs, credits := x.credits.set b (x.credits.getD b 0 + 1) })) ∧
    (st.pair = none → st.inbound = true → s.canStart bay st = true → st.nextTile = some tile →
      ((∃ k ∈ st.credits, k = 0) → exec start s = .next s) ∧
      (s.tileFree st = false → exec start s = .next s) ∧
      (s.tileFree st = true →
        (∀ c, s.tileFault st tile = some c → exec start s = .next (s.failStream bay n c tile)) ∧
        (s.tileFault st tile = none →
          (s.slotsReady bay n st st.ownSlots tile = (s1, false) → exec start s = .next s1) ∧
          (s.slotsReady bay n st st.ownSlots tile = (s1, true) → s1.translateTile bay n st tile = (s2, none) →
            exec start s = .next s2) ∧
          (s.slotsReady bay n st st.ownSlots tile = (s1, true) → s1.translateTile bay n st tile = (s2, some m) →
            exec start s = .next (s2.startInbound bay n st tile m))))) ∧
    (∀ b ns pe h hs, st.inbound = false → st.notices = b :: ns → st.handles = (pe, h) :: hs → s.canStart bay st = true →
      st.next < st.desc.tileCount → st.next = tile →
      let hd := s.handle pe h
      let a := hd.slotAddr hd.wr
      (hd.slotAt hd.wr ≠ .full → exec full s = .next s) ∧
      (hd.slotAt hd.wr = .full → s.tileFault st tile = none → s.slotsReady bay n st [] tile = (s1, true) →
        (s1.pe pe).badGran a st.desc.tileBytes = none → s1.translateTile bay n st tile = (s2, some m) →
        let s3 := s2.correct pe a st.desc.tileBytes
        let reqs := (st.pieces tile).map fun p => pieceReq bay st tile m p (s3.slotData pe a p)
        exec full s = .next (((s3.takeSlots st .draining).onStream bay n fun x =>
          { x with notices := ns, next := tile + 1 }).beginTile bay n st tile (s2.nextSlots st) reqs))) ∧
    (∀ host, st.stopped = false → st.desc.ep = false →
      (∀ t, st.tiles.find? (fun t => t.left == 0) = some t → exec (.copyTileComplete bay n host) s = .next (s.finishTile bay n st t)) ∧
      ((∀ t ∈ st.tiles, 0 < t.left) → exec (.copyTileComplete bay n host) s = .next s)) ∧
    (∀ host t ts, st.stopped = false → st.desc.ep = true → st.inbound = true → st.tiles = t :: ts → (s.job st.job).rr = 0 →
      let kept : State := { s with transfers := s.transfers.filter fun x => !isTileOf bay n t.idx x }
      exec (.copyTileComplete bay n host) s = .next ((kept.hostTile bay n st t host).finishTile bay n st t)) ∧
    (∀ c, st.stopped = false → st.bad = some (c, tile) → c < 128 → c ≠ 0x23 →
      exec (.copyPoison bay n (BitVec.ofNat 7 c)) s = .next (s.poisonStream bay n c tile)) ∧
    (st.stopped = false → (∃ b ∈ st.handles, (s.pe b.1).sealed = true) →
      exec (.copyPoison bay n 0x23#7) s = .next (s.poisonStream bay n 0x23 st.next))

/-- Where the elements of a tile lie (06 R88 to R90): element e of tile t has coordinate START + i (BOX + 1) + j in each dimension;
one outside the extents takes PAD and makes no access; the others have the address BASE + the sum of coordinate × stride. -/
def Obligations.TileElementsHaveTheirAddresses : Prop :=
  ∀ (d : Desc) (tile e : Nat) (l : List (Nat × Int)), d.accesses tile = some l → e < prodNat d.box →
    let cs := d.coords tile e
    let off := e * 2 ^ d.esz
    let sum := d.base.toInt + ((List.range d.ndim).map fun k => cs.getD k 0 * d.stride.getD k 0).sum
    (∀ k, k < 5 → cs.getD k 0 = d.start.getD k 0 + ((mixedDigits d.tiles tile).getD k 0 : Int) * (d.box.getD k 1 : Int) +
      ((mixedDigits d.box e).getD k 0 : Int)) ∧
    (d.inside cs = true → (off, sum) ∈ l ∧ off ∉ d.padded tile ∧ -(2 ^ 63) ≤ sum + 2 ^ d.esz - 1 ∧ sum + 2 ^ d.esz - 1 < 2 ^ 63) ∧
    (d.inside cs = false → off ∈ d.padded tile ∧ ∀ a, (off, a) ∉ l)

/-- PAGE_REFILL, FRAME_WRITEBACK, FULL_EMPTY_WAKE and the LMSTREAM engines (07 R106, R107, R109, R111, R114; 12 R198). -/
def Sys2Proof.Claim.LocalPagesWaitersAndStreams : Prop :=
  ∀ (s s1 s2 : State) (pe page : Nat) (bs : List Byte) (rep : Reply),
    let p := s.pe pe
    let refill := Instr.pageRefill pe page
    let source := Instr.lmstreamSourceToken pe
    let sink := Instr.lmstreamSinkToken pe
    ((∃ r ∈ p.refills, r.page = page) → (p.lptAt page).wb = false →
      (∀ e, State.readBacking pe 64 s (pageBacking p.lback page) = (s1, .error e) →
        exec refill s = .next (s1.refillFailed pe page e)) ∧
      (State.readBacking pe 64 s (pageBacking p.lback page) = (s1, .ok bs) →
        s1.readNow execTag 2 (peRequester pe) 0 (bitmapBacking p.lback page) 32 = (s2, rep) →
        (∀ e, rep.err = some e → exec refill s = .next (s2.refillFailed pe page e)) ∧
        (rep.err = none → exec refill s =
          .next ((s2.onPe pe (·.landPage (s2.jobOfPe pe) page bs rep.val.toNat)).tally (bayOf pe) 0x19 1)))) ∧
    ((p.lptAt page).wb = false → exec (.frameWriteback pe page) s = .next s) ∧
    ((p.lptAt page).wb = true → Goes (.frameWriteback pe page) s fun u =>
      ((u.pe pe).lptAt page).wb = false ∧ ((u.pe pe).lptAt page).d = false) ∧
    (∀ g, p.oldestWaiter g = none → exec (.fullEmptyWake pe g) s = .next s) ∧
    (∀ g w, p.oldestWaiter g = some w → s.cur.live = true → s.cur.agent = w.agent → w.gran = g ∧ p.isFull g = w.full ∧
      (w.full = false → exec (.fullEmptyWake pe g) s = exec .blockCommit s) ∧
      ∀ q t l z e o b a f, w.full = true → s.cur.instr w.slot = some (.ldlw q t l z e o) → s.cur.pe = pe →
        let u := s.onCur fun f => { f with turn := w.slot }
        let k := a / 4096
        let sz := szBytes z
        let value := overlaid (BitVec.ofNat 512 (p.lmem.readNat a sz)) (overlayOf a sz (u.cur.localStores l.toNat) (0, 0))
        let took := fun (x : Pe) =>
          let y := (x.pin k).served g w.agent w.slot
          if e then (y.setFull g false).dirty k else y
        let read := ((u.onPe pe took).correct pe a sz).tallyCur 0x05 1
        Ready u q [b] → b.isData = true → u.cur.slot.phase = .blocked → localAddress b (o.toInt * sz) sz = .ok a → a / 16 = g →
        u.cur.storesClear l.toNat = true → u.cur.loadTurn l.toNat true = true → p.present s.cur.job k = true →
        p.refillBad (.slot w.agent w.slot) [k] = none → p.badGran a sz = none →
        read.cur.deliverAll [(t, szExtend z value)] = .ok f →
          exec (.fullEmptyWake pe g) s = .next { read with cur := f.mark .issued }) ∧
    (p.src.busy = true → p.src.hurt = false → p.marks = false → p.portFree p.src.port = true →
      (p.src.left = 0 → exec source s = .next (((s.onPe pe fun p => { p with src := { p.src with busy := false } }).engineSend pe
        p.src.port (.ofKind .eos) p.src.time p.src.stamp).followOn pe p.src.port)) ∧
      (p.src.left ≠ 0 → s.seekPages (s.jobOfPe pe) pe .source (pagesOf p.src.addr 64) = (s1, .ok false) → exec source s = .next s1) ∧
      (p.src.left ≠ 0 → s.seekPages (s.jobOfPe pe) pe .source (pagesOf p.src.addr 64) = (s1, .ok true) →
        (s1.pe pe).badGran p.src.addr 64 = none →
        let sent := (s1.correct pe p.src.addr 64).onPe pe fun q =>
          { q with src := { q.src with addr := p.src.addr + 64, left := p.src.left - 64 } }
        let v := Value.wideData (BitVec.ofNat 512 ((s1.pe pe).lmem.readNat p.src.addr 64))
        exec source s = .next (sent.engineSend pe p.src.port v p.src.time p.src.stamp))) ∧
    (∀ t ts, (p.inport p.snk.port).q = t :: ts → p.snk.busy = true → p.snk.hurt = false → p.marks = false → p.snk.bad = none →
      let done := s.sinkConsume pe p.snk.port t.stamp
      (t.val.kind = .eos →
        exec sink s = .next (done.onPe pe fun p => { p with snk := { p.snk with busy := false, bad := none } })) ∧
      (t.val.isData = true → t.val.wide = true → p.snk.left = 0 → exec sink s = .next done) ∧
      (t.val.isData = true → t.val.wide = true → p.snk.left ≠ 0 → 
        s.seekPages (s.jobOfPe pe) pe .sink (pagesOf p.snk.addr 64) = (s1, .ok true) →
        exec sink s = .next ((s1.sinkConsume pe p.snk.port t.stamp).onPe pe fun q =>
          { q.engineWrite p.snk.addr (leBytes 64 t.val.bits.toNat) with
            snk := { q.snk with addr := p.snk.addr + 64, left := p.snk.left - 64 } })) ∧
      (t.val.kind ≠ .eos → t.val.kind ≠ .mark → t.val.isData = true → t.val.wide = false →
        exec sink s = .next (done.onPe pe fun p => { p with snk := { p.snk with bad := some t } })))


/-! ## Firings, configurations and commits (chapters 09, 17 and 18) -/

/-- When a firing begins (09 R151, R154; 12 R197; 20 R299): the time is the least head time over the mandatory ports, or the least
capability of a source; the block begins with nothing done, and its inputs are still in their ports. -/
def Obligations.FiringsBeginAtTheLeastTime : Prop :=
  ∀ (s : State) (pe rid : Nat) (img : List Word) (t : LTime) (st : Nat), s.fireRegion pe = some rid →
    (s.pe pe).active.node = some img →
    let is := (s.pe pe).active.instrs
    let begins := fun (i : Instr) (a : Agent) (stamp : Nat) => Goes i s fun u =>
      u.cur.live = true ∧ u.cur.agent = a ∧ u.cur.region = rid ∧ u.cur.pe = pe ∧ u.cur.kind = .node ∧ u.cur.time = t ∧
      u.cur.words = imageSlots img ∧ u.cur.acts = [] ∧ u.cur.takes = [] ∧ u.cur.port.pts = stamp ∧
      u.pes = s.pes ∧ u.regions = s.regions ∧ u.mem = s.mem ∧ u.bays = s.bays ∧ u.slices = s.slices ∧
      u.parked = s.parked ++ (if s.cur.live then [s.cur] else [])
    let a := s.nextAgent pe
    (∀ f, s.readyFiring f is = some (t, st) →
      (∀ p ∈ mandatoryPorts is, ∃ h tl, s.heads f p = h :: tl ∧ t ≤ h.time) ∧
      (∃ p ∈ mandatoryPorts is, ∃ h tl, s.heads f p = h :: tl ∧ h.time = t)) ∧
    (isSource is = false → pe < agBase → s.running (· == .node pe) = false →
      (s.readyFiring (probe (.node pe)) is = some (t, st) → begins (.nodeFiring pe) (.node pe) (max (s.pe pe).stamp st)) ∧
      (s.readyFiring (probe (.node pe)) is = none → exec (.nodeFiring pe) s = .next s)) ∧
    (∀ ag, pe = agBase + ag → isSource is = false → (Map.get Ag.blank s.ags ag).inflight.length < 8 →
      ((s.cur :: s.parked).filter fun f => f.live && agentOnNode pe f.agent) = [] →
      s.readyFiring (probe a) is = some (t, st) → begins (.agAdmit ag) a (max (s.pe pe).stamp st)) ∧
    (∀ ag, pe = agBase + ag → 8 ≤ (Map.get Ag.blank s.ags ag).inflight.length → exec (.agAdmit ag) s = .next s) ∧
    (isSource is = true → s.running (agentOnNode pe) = false → leastCap (s.pe pe).caps = some t → readsBound is = false →
      recvPorts is = [] → keptPorts is = [] → optPorts is = [] → begins (.sourceFiring pe) a (s.pe pe).stamp)

/-- CONTROL_BLOCK_FETCH (18 R275): the thread checks that its program counter is a multiple of 4, reads the header and then the whole
block, checks it, and begins it at the thread's time. -/
def Obligations.ControlBlocksAreFetchedAndChecked : Prop :=
  ∀ (s s1 s2 : State) (rid : Nat) (hd bs : List Byte), s.mayFetch rid = true →
    let pc := (s.region rid).pc
    let h := (wordsOf hd).headD 0
    let ws := (wordsOf bs).drop 1
    let i := Instr.controlBlockFetch rid
    (bits pc 1 0 ≠ 0 → exec i s = .next (s.fetchFault rid 0 [] 0 ⟨.align, pc, 0⟩)) ∧
    (bits pc 1 0 = 0 → s.fetchBytes (.fetch rid) rid pc 4 = (s1, .error none) → exec i s = .next s1) ∧
    (bits pc 1 0 = 0 → ∀ t, s.fetchBytes (.fetch rid) rid pc 4 = (s1, .error (some t)) →
      exec i s = .next (s1.fetchFault rid 0 [] 0 t)) ∧
    (bits pc 1 0 = 0 → s.fetchBytes (.fetch rid) rid pc 4 = (s1, .ok hd) →
      s1.fetchBytes (.fetch rid) rid pc (4 * (bits h 29 24 + 2)) = (s2, .ok bs) →
      (∀ f, blockFault .control h ws = some f → exec i s = .next (s2.fetchFault rid h ws f.slot (trap f.code))) ∧
      (blockFault .control h ws = none → Goes i s fun u =>
        u.cur.live = true ∧ u.cur.agent = .ctl rid ∧ u.cur.kind = .control ∧ u.cur.addr = (s2.region rid).pc ∧
        u.cur.time = (s2.region rid).time ∧ u.cur.words = ws ∧ u.cur.acts = [] ∧ u.regions = s2.regions ∧ u.mem = s2.mem))

/-- CONF_ARRIVAL and CONFIG_SWITCH (17 R263 to R265; 18 R423): each record changes its part of the pending configuration; a bad one is
CONFFMT; the END of an image lets its box entries count; a record behind a completed configuration waits; the switch makes the pending configuration the active one, and the registers that it names full. -/
def Sys2Proof.Claim.ConfigurationsArriveAndSwitch : Prop :=
  ∀ (s : State) (pe rid : Nat) (w : W512) (cs : List ConfItem),
    let p := s.pe pe
    let c := p.pending
    let x := confIndex w
    (p.confq = .record w :: cs → p.sealed = false → s.confWaits pe = true → exec (.confArrival pe) s = .next s) ∧
    (p.confq = .record w :: cs → p.sealed = false → s.confWaits pe = false →
      (badConf w = false → confType w ≠ 7 → Goes (.confArrival pe) s fun u =>
        u.pe pe = { p with confq := cs, pending := c.record w } ∧ (∀ k, k ≠ pe → u.pe k = s.pe k) ∧ u.mem = s.mem ∧
        u.regions = s.regions) ∧
      (badConf w = false → confType w = 7 → Goes (.confArrival pe) s fun u =>
        (u.pe pe).pending = { c with ended := true } ∧ (u.pe pe).active = p.active ∧ (u.pe pe).nregs = p.nregs ∧
        ((∀ v, ConfItem.record v ∈ cs → confType v ≠ 7) →
          (u.pe pe).switch = p.switchNext.foldl (fun m e => Map.set m e.1 e.2) p.switch)) ∧
      (badConf w = true → p.region = some rid → exec (.confArrival pe) s =
        .next ((s.onPe pe fun p => { p with confq := cs }).unrecoverable rid pe .conffmt 0 0))) ∧
    (confType w = 3 → c.record w = { c with nregs := c.nregs.set x (BitVec.ofNat 64 (bits w 127 64)) }) ∧
    (confType w = 4 → c.record w = { c with vregs := c.vregs.set x (BitVec.ofNat 256 (bits w 319 64)) }) ∧
    (confType w = 5 → c.record w = { c with groups := BitVec.ofNat 36 (bits w 99 64) }) ∧
    (p.region = some rid → c.ended = true → p.sealed = false → p.marks = false → (p.active.node = none ∨ p.finished = true) →
      s.running (agentOnNode pe) = false → Goes (.configSwitch pe) s fun u =>
        (u.pe pe).active = { c with nregs := [], vregs := [] } ∧ (u.pe pe).pending = PeConfig.blank ∧
        (p.drained = false → (u.pe pe).finished = false) ∧ (u.pe pe).switch = p.switch ∧ (∀ k, k ≠ pe → u.pe k = s.pe k) ∧ u.mem = s.mem ∧ u.regions = s.regions ∧
        (∀ i v, c.nregs = [(i, v)] → (u.pe pe).nregs.find i = some ⟨.full, v.setWidth 512, false, 0, false⟩) ∧
        (c.nregs = [] → (u.pe pe).nregs = p.nregs) ∧ (c.vregs = [] → (u.pe pe).vregs = p.vregs)) ∧
    (p.region = some rid → c.ended = false → exec (.configSwitch pe) s = .next s)

/-- COALESCE_LAUNCH and COALESCE_TIMEOUT (17 R271, R272), STREAM_BLOCK_SELECT and STREAM_THREAD_REPORT (17 R268, R269). -/
def Sys2Proof.Claim.BatchesLaunchAndThreadsStream : Prop :=
  ∀ (s : State) (pe port rid b : Nat) (r0 : Token) (rs : List Token),
    let ip := (s.pe pe).inport port
    let g := s.region rid
    let x := g.streamer
    let launches := fun (i : Instr) (cause : Nat) => exec i s = .next (s.onPort pe port (·.launch cause))
    (ip.batch.records = r0 :: rs → (s.pe pe).active.coalesces port = true →
      let th := (s.pe pe).active.th port
      let due := th ≤ rs.length + 1
      let passed := r0.time < ip.frontier
      (due → launches (.coalesceLaunch pe port) 1) ∧ (¬ due → passed → launches (.coalesceLaunch pe port) 2) ∧
      (¬ due → ¬ passed → exec (.coalesceLaunch pe port) s = .next s) ∧
      (s.cycle < ip.batch.since + 4096 → exec (.coalesceTimeout pe port) s = .next (s.onPe pe fun p => p)) ∧
      (ip.batch.since + 4096 ≤ s.cycle → ¬ due → ¬ passed → exec (.coalesceTimeout pe port) s =
        .next (s.onPe pe fun p => { p with inports := p.inports.set port (ip.launch 3) })) ∧
      (∀ cause, (ip.launch cause).batch.records = [] ∧
        (ip.launch cause).q = ip.q ++ [batchToken (r0 :: rs) cause])) ∧
    (x.select = none → ∀ e ∈ x.blocks, e.2.wait = []) ∧
    (x.select = some b → ∃ sb, (b, sb) ∈ x.blocks ∧ sb.wait ≠ [] ∧
      ((∀ e ∈ x.blocks, e.2.wait ≠ [] → e.2.pass ≠ 16) → ∀ e ∈ x.blocks, e.2.wait.length ≤ sb.wait.length)) ∧
    (g.live = true → x.on = true → x.inRound = false → x.ended = false → g.preempt = .none →
      (x.select = none → exec (.streamBlockSelect rid) s =
        .next (s.onRegion rid fun r => { r with streamer := { x with ended := true } })) ∧
      (x.select = some b → x.round ≤ 2047 →
        let sb := Map.get ⟨[], [], 0⟩ x.blocks b
        let sent := sb.wait.zipIdx.map fun e => (g.rect.pes.getD (e.2 % g.rect.pes.length) 0, e.1)
        let s1 := g.rect.pes.foldl (fun s k => s.onPe k (·.streamConf g.next sb.image)) s
        exec (.streamBlockSelect rid) s = .next ((s1.onRegion rid fun r =>
          { r with streamer := { x with blocks := x.after b, block := b, inRound := true, open_ := sb.wait } }).sendThreads rid
          (sent.map fun e => (e.1, .data (BitVec.ofNat 64 e.2))) (g.roundTime x.round)))) ∧
    (∀ t ts, Map.get [] (s.pe pe).outq dispatchTag = t :: ts → (s.pe pe).region = some rid → x.on = true → t.val.isData = true →
      let slot := t.time.toNat
      let n := bits t.val.bits 6 0
      let s1 := s.onPe pe fun p => { p with outq := p.outq.set dispatchTag ts }
      let y := { x with open_ := x.open_.filter (· != slot) }
      (n = 0x7F → exec (.streamThreadReport rid pe) s =
        .next ((s1.onRegion rid fun r => { r with streamer := y }).endRound rid)) ∧
      (n ≠ 0x7F → (x.blocks.find n).isSome = true → exec (.streamThreadReport rid pe) s =
        .next ((s1.onRegion rid fun r => { r with streamer := y.mark n slot }).endRound rid)))

/-- BLOCK_COMMIT (09 R148; 18 R274 to R277; 24 R373): a complete block with no fault and nothing to wait for makes its effects, and the
last part follows at once or when its fences are met; the exits of a control block change the program counter and the return
stack. -/
def Obligations.BlocksCommitTogether : Prop :=
  ∀ (s : State) (f : Frame), s.cur = f → f.complete = true →
    let pe := s.pe f.pe
    let r := s.region f.region
    let left := fun (e : ExitKind) (q : Region → Prop) => ∀ x, f.exit = some (e, x) →
      q ((s.leave f).region f.region) ∧ (s.leave f).mem = s.mem ∧
      (f.agent = .ctl f.region → ∀ k, k ≠ f.region → (s.leave f).region k = s.region k)
    (∀ n, f.phase = .fencing n → s.finishWaits f n = true → exec .blockCommit s = .next s) ∧
    (∀ n, f.phase = .fencing n → s.finishWaits f n = false → exec .blockCommit s = .next s.commitFinish) ∧
    (f.phase = .running → f.kind ≠ .rule →
      (∀ k ks, f.bufMoved pe = k :: ks → exec .blockCommit s = .next (s.restartSlots (k :: ks))) ∧
      (∀ k t, f.bufMoved pe = [] → s.commitFault f = some (k, t) → exec .blockCommit s = .next ((s.onCur fun f => { f with turn := k }).raisePrecise t)) ∧
      (s.commitFault f = none → f.bufMoved pe = [] → s.commitWaits f = false → f.pagesWait pe = false → f.emptyWait pe = false →
        exec .blockCommit s = .next (s.commitStart.tryFinish s.commitStart.nextId))) ∧
    (f.phase = .running → f.kind = .rule → exec .blockCommit s = .next s.commitRule) ∧
    (∀ pc, left (.goto pc) fun u => u.pc = pc ∧ u.rstack = r.rstack ∧ u.status = r.status) ∧
    (∀ pc, left (.call pc) fun u => u.pc = pc ∧ u.rstack = followAddr f :: r.rstack ∧ u.status = r.status) ∧
    (left .ret fun u => u.pc = r.rstack.headD 0 ∧ u.rstack = r.rstack.drop 1 ∧ u.status = r.status) ∧
    (∀ a, left (.eret 0 a) fun u => u.pc = r.epc ∧ u.status = statusSet r.status 14 false) ∧
    (∀ a, left (.eret 1 a) fun u => u.pc = a ∧ u.status = statusSet r.status 14 false)


/-! ## The count plane and the root (chapter 20; 26 R387) -/

/-- Counts and frontiers (20 R297, R301): a change adds its delta to the count at its location and time, and to no other; a frontier
is at or before the image of every positive count and of every horizon that leads to its location, and is one of them, or the top where
nothing leads there; an epoch that a holder opens raises its horizon alone. -/
def Obligations.CountsAndFrontiers : Prop :=
  ∀ (r : Root) (cs : List (Nat × LTime × Int)) (c : CountChange) (counts : Nat → Bool) (l : Nat) (t : LTime),
    let held := fun (cs : List (Nat × LTime × Int)) => ((cs.filter fun d => d.1 = l ∧ d.2.1 = t).map fun d => d.2.2).sum
    let f := r.frontier counts l
    let fromCount := fun (x : LTime) => ∃ d ∈ r.counts, 0 < d.2.2 ∧ counts d.1 = true ∧ r.leads d.1 l = true ∧ x = r.image d.1 l d.2.1
    let fromHorizon := fun (x : LTime) => ∃ h ∈ r.horizons, r.leads h.loc l = true ∧ x = r.image h.loc l h.time
    held (addCount cs c) = held cs + (if c.loc = l ∧ c.time = t then c.delta else 0) ∧
    (∀ x, fromCount x ∨ fromHorizon x → f ≤ x) ∧
    (f = LTime.top ∨ fromCount f ∨ fromHorizon f) ∧
    ((∀ x, ¬ fromCount x) → (∀ x, ¬ fromHorizon x) → f = LTime.top) ∧
    (∀ h ∈ (r.openAll [(l, 3, 7)]).horizons, h.loc = l → 7 ≤ Map.get 0 h.opened 3)

/-- COUNT_BATCH_FORWARD, ROOT_BATCH_APPLY, ANNOUNCEMENT_ARRIVAL, PEER_BATCH and PEER_CONNECTION_LOSS (20 R300, R301, R304, R306; 26
R387). -/
def Obligations.BatchesReachTheRootWhole : Prop :=
  ∀ (s : State) (job : Nat) (x y : CountBatch) (l : List CountBatch),
    let r := s.root job
    let taken := s.onJob job fun j => { j with root := { j.root with queue := l } }
    (∀ b m, (s.bay b).batches = x :: l → m = false ∨ l = [] → exec (.countBatchForward (.bay b) m) s =
      .next ((s.onBay b fun z => { z with batches := l }).onDie (b / 64) fun d => { d with batches := d.batches ++ [x] })) ∧
    (∀ b, (s.bay b).batches = x :: y :: l → x.job = y.job → exec (.countBatchForward (.bay b) true) s =
      .next ((s.onBay b fun z => { z with batches := l }).onDie (b / 64) fun d => { d with batches := d.batches ++ [x.join y] })) ∧
    (∀ d m, (s.die d).batches = x :: l → m = false ∨ l = [] → exec (.countBatchForward (.die d) m) s =
      .next ((s.onDie d fun z => { z with batches := l }).onJob x.job fun j =>
        { j with root := { j.root with queue := j.root.queue ++ [x] } })) ∧
    ((∀ e ∈ s.jobs, e.2.root.queue.length < 2) → exec (.countBatchForward .root true) s = .next s) ∧
    (r.queue = [] → exec (.rootBatchApply job) s = .next s) ∧
    (r.queue = x :: l → x.job = job →
      (rootRoom < ((r.count x.changes).openAll x.opens).counts.length → exec (.rootBatchApply job) s = .next (taken.countFull x)) ∧
      (((r.count x.changes).openAll x.opens).counts.length ≤ rootRoom → exec (.rootBatchApply job) s =
        .next (taken.applyBatch x true))) ∧
    (∀ n a k p, r.out[n]? = some a → a.to_ = .port k p →
      let old := (s.pe k).inport p
      Goes (.announcementArrival job n) s fun u =>
        (u.root job).out = r.out.eraseIdx n ∧ (u.root job).counts = r.counts ∧ ((u.pe k).inport p).q = old.q ∧
        ((u.pe k).inport p).frontier = (if old.frontier < a.val then a.val else old.frontier) ∧
        ((u.pe k).inport p).fstamp = (if old.frontier < a.val then a.stamp else old.fstamp) ∧
        (∀ i, i ≠ k → u.pe i = s.pe i) ∧ u.regions = s.regions ∧ u.mem = s.mem) ∧
    (∀ n a g, r.out[n]? = some a → a.to_ = .bay g → (Map.get (0, 0) (s.region g).fronts a.loc).1 < a.val →
      Goes (.announcementArrival job n) s fun u =>
        (u.root job).out = r.out.eraseIdx n ∧ (u.region g).fronts.find a.loc = some (a.val, a.stamp) ∧ u.pes = s.pes) ∧
    (∀ cs st, (s.job job).live = true → (s.job job).pkg.peers ≠ 0 →
      exec (.peerBatch job cs st) s =
        .next (s.applyBatch ⟨job, sumChanges cs.counts, st, 0, remoteOpens cs.peer cs.opens⟩ false) ∧
      exec (.peerConnectionLoss job) s =
        .next ((s.abortJob job (mkRecord .jobdeadline 8 3 0 job 0 0) 6).event job 0x06 [])) ∧
    (∀ cs st, (s.job job).pkg.peers = 0 →
      exec (.peerBatch job cs st) s = .next s ∧ exec (.peerConnectionLoss job) s = .next s)

/-! ## The matrix unit (chapter 14; 25 R380 to R383) -/

/-- What an MMA does to the unit (14 R221, R222): mode .z takes the lowest-numbered free tile and starts from no prior element, .k
accumulates and .d adds γ × the prior element; every element is the exact sum rounded once; no other tile and no buffer changes. -/
def Obligations.MmaWritesItsTile : Prop :=
  ∀ (m : Matrix) (ty : MatType) (acc p : Nat) (a1 b1 : Bool) (g : BitVec 32), p < 8 → m.tiles.length = 8 →
    let row := fun i => (List.range (matDepth ty)).map (tileElem ty (m.buf (b2n a1)) i)
    let col := fun j => (List.range (matDepth ty)).map (tileElem ty (m.buf (2 + b2n b1)) j)
    let gives := fun (mode : MmaMode) (gamma : Option FVal) (prior : Nat → Nat → Option FVal) (q : Matrix → Prop) =>
      ∃ u, m.mma ty mode acc a1 b1 g = some u ∧ u.bufs = m.bufs ∧ u.rows = m.rows ∧ u.queue = m.queue ∧
        (∀ i j, i < 8 → j < 8 → u.elem p i j = BitVec.ofNat 128 (mmaElem gamma (prior i j) (row i) (col j)).1) ∧
        (∀ k, k ≠ p → u.tiles.getD k [] = m.tiles.getD k []) ∧ q u
    let old := fun i j => some (fp128.wide (m.elem p i j).toNat)
    (m.map.getD acc none = some p →
      gives .k none old (fun u => u.map = m.map ∧ u.phys = m.phys) ∧
      gives .d (some (fp32.wide g.toNat)) old (fun u => u.map = m.map ∧ u.phys = m.phys)) ∧
    (m.freeTile = some p → m.map.length = 4 → acc < 4 →
      gives .z none (fun _ _ => none) (fun u => u.map.getD acc none = some p ∧ u.map.length = 4)) ∧
    (m.freeTile = none → m.mma ty .z acc a1 b1 g = none) ∧
    (∀ q, m.freeTile = some q → q < 8 ∧ m.phys.getD q .free = .free ∧ ∀ k, k < q → m.phys.getD k .free ≠ .free)

/-- MMA_EXECUTE, TILE_LOAD_EXECUTE, MST_EXECUTE, MREL_EXECUTE, MJOB_EXECUTE and MATRIX_MARKER (14 R220 to R230; 25 R380 to R383; 16
R254): the command at the head of the queue takes its next step: a device load reads a row and an MST writes a unit, each once the accesses of its
issuer's commits are answered; a step of an MJOB loads, multiplies and goes on to its next index vector. -/
def Obligations.MatrixCommandsRunInOrder : Prop :=
  ∀ (s : State) (pe rid : Nat) (c : MatCmd), (s.pe pe).command = some c → (s.pe pe).region = some rid →
    let m := (s.pe pe).matrix
    let settled := fun (x : State × MatStep) => Host.Outcome.next (x.1.settleStep pe rid c x.2)
    (∀ ty mode acc a1 b1 g, c.op = .mma ty mode acc a1 b1 g →
      exec (.mmaExecute pe false) s = .next (s.unrecoverable rid pe .matresidue 0 0) ∧
      (m.mma ty mode acc a1 b1 g = none → exec (.mmaExecute pe true) s = .next s) ∧
      (∀ u, m.mma ty mode acc a1 b1 g = some u → exec (.mmaExecute pe true) s =
        .next (((s.onUnit pe fun _ => u.pop).tally (bayOf pe) 0x03 1).progressPe pe))) ∧
    (∀ l, c.op = .load l →
      exec (.tileLoadExecute pe) s = settled (s.runLoad pe rid c l) ∧
      let b := bufIdx l.buf
      let s0 := s.onUnit pe (·.clearRows b c.row)
      (l.loc = false → s0.forkReady c = false → exec (.tileLoadExecute pe) s = .next s0) ∧
      (∀ s1 s2 a rep, l.loc = false → s0.forkReady c = true →
        s0.unitAddr pe rid c (rowVa l.base l.stride c.row) false = (s1, some (.ok a)) →
        s1.readNow c.tag 1 (peRequester pe) c.pts a 32 = (s2, rep) → rep.err = none →
        let landed := s2.onUnit pe fun m => (m.landRow b c.row (leBytes 32 rep.val.toNat)).onHead fun c =>
          { c with row := c.row + 1, pts := ptsAfter c.pts rep, wHi := max c.wHi rep.wts }
        let joined := landed.joinLoad pe (((landed.pe pe).matrix.queue.head?).getD c)
        (c.row = 7 → exec (.tileLoadExecute pe) s = .next ((joined.onUnit pe Matrix.pop).progress rid)) ∧
        (c.row ≠ 7 → exec (.tileLoadExecute pe) s = .next landed))) ∧
    (∀ ty acc base stride rnd loc, c.op = .mst ty acc base stride rnd loc →
      exec (.mstExecute pe) s = settled (s.runMst pe rid c ty acc base stride rnd loc) ∧
      let us := m.unitsOf (m.tileOf acc) ty rnd
      let s0 := s.onUnit pe fun m => { m with mflags := m.mflags.or us.2 }
      (loc = false → s0.forkReady c = false → exec (.mstExecute pe) s = .next s0) ∧
      (∀ s1 s2 a rep, loc = false → s0.forkReady c = true →
        s0.unitAddr pe rid c (rowVa base stride c.row) true = (s1, some (.ok a)) →
        s1.writeNow c.tag 1 (peRequester pe) c.pts a (matUnit ty) (BitVec.ofNat 512 (us.1.getD c.row 0)) = (s2, rep) →
        rep.err = none →
        let wrote := (s2.noteAck (c.writer (s2.pe pe)) c.id rep.wts).onUnit pe fun m => m.onHead fun c =>
          { c with row := c.row + 1, pts := ptsAfter c.pts rep, wHi := max c.wHi rep.wts }
        (c.row + 1 = matUnits ty → exec (.mstExecute pe) s = .next ((wrote.onUnit pe Matrix.pop).progress rid)) ∧
        (c.row + 1 ≠ matUnits ty → exec (.mstExecute pe) s = .next wrote))) ∧
    (∀ ty acc port rnd t, c.op = .mrel ty acc port rnd t →
      (c.phase = 0 → (s.pe pe).marks = false → s.committing c.after = false →
        exec (.mrelExecute pe) s = .next (s.beginMrel pe c ty acc port rnd t)) ∧
      (c.phase ≠ 0 → (s.pe pe).mrelRoom port = false → exec (.mrelExecute pe) s = .next s) ∧
      (∀ x y xs, c.phase ≠ 0 → (s.pe pe).mrelRoom port = true → c.tokens = x :: y :: xs → exec (.mrelExecute pe) s =
        .next ((s.sendAt pe port x.val x.time x.stamp).1.onUnit pe fun m => m.onHead fun c => { c with tokens := y :: xs }))) ∧
    (∀ ty acc card, c.op = .job ty acc card →
      exec (.mjobExecute pe) s = settled (s.runJob pe rid c ty acc card) ∧
      let v := c.vector card
      let k := roleCoord card.levels v 1
      let base := tileA card (roleCoord card.levels v 2) k
      let s0 := s.onUnit pe (·.onHead fun c => { c with index := v })
      (s0.forkReady c = false → exec (.mjobExecute pe) s = .next s0) ∧
      (s0.forkReady c = true → c.phase = 0 → base % 32 ≠ 0 →
        exec (.mjobExecute pe) s = .next (s0.unitFault pe rid c (512 + FaultCode.align.code.toNat))) ∧
      (∀ u w, s0.forkReady c = true → c.phase = 2 →
        (s0.pe pe).matrix.mma ty (if k = 0 then .z else .k) acc (k % 2 == 1) (k % 2 == 1) 0 = some u →
        let ran := (s0.onUnit pe fun _ => u).tally (bayOf pe) 0x03 1
        (k + 1 = roleCount card.levels 1 → exec (.mjobExecute pe) s =
          .next (ran.onUnit pe (·.onHead fun c => { c with phase := c.phase + 1, row := 0 }))) ∧
        (k + 1 ≠ roleCount card.levels 1 → nextIndex card.levels v = some w → exec (.mjobExecute pe) s =
          .next (ran.onUnit pe (·.onHead fun c => { c with index := w, phase := 0, row := 0 }))))) ∧
    ((s.pe pe).marks = true → Goes (.matrixMarker pe) s fun u => (u.pe pe).matrix.cut = true) ∧
    ((s.pe pe).marks = false → exec (.matrixMarker pe) s = .next s) ∧
    (∀ u n t stamp x, x ∈ mrelTokens u n t stamp → x.time = t ∧ x.stamp = stamp ∧ (x.val.kind = .eor ∨ x.val.wide = true)) ∧
    (∀ b r bs, b < 4 → r < 8 → m.bufs.length = 4 → (m.buf b).length = 256 → bs.length = 32 →
      let u := m.landRow b r bs
      (∀ i, i < 256 → (u.buf b).getD i 0 = if 32 * r ≤ i ∧ i < 32 * r + 32 then bs.getD (i - 32 * r) 0 else (m.buf b).getD i 0) ∧
      (∀ k, k ≠ b → u.buf k = m.buf k) ∧ u.tiles = m.tiles ∧ u.map = m.map)


/-! ## Lattice operations after the commit (chapter 15) -/

/-- A lattice operation writes a site (15 R233): of an active brick it changes that site alone; q leaves an inactive brick as it is;
another value makes the brick active with q in every other site. No other brick and no other plane changes. -/
def Sys2Proof.Claim.LatticeWritesWakeBricks : Prop :=
  ∀ (p : Pe) (n b st v : Nat), p.lmem.wf = true →
    let e := p.plane n
    let u := p.putSite n (b, st, v)
    let val := fun k => u.siteVal (u.plane n) b k
    0 < e.geo.width → e.geo.width % 8 = 0 → b < 256 → st < e.geo.sites → v < 2 ^ e.geo.width →
    (e.active b = true → val st = v ∧ ∀ k, k < e.geo.sites → k ≠ st → val k = p.siteVal e b k) ∧
    (e.active b = false → v = e.quiet → u = p) ∧
    (e.active b = false → v ≠ e.quiet →
      (u.plane n).active b = true ∧ val st = v ∧ ∀ k, k < e.geo.sites → k ≠ st → val k = e.quiet) ∧
    (∀ c, c ≠ b → (u.plane n).active c = e.active c) ∧ (∀ m, m ≠ n → u.plane m = p.plane m) ∧
    (u.plane n).desc = e.desc ∧ (u.plane n).q = e.q ∧ u.nregs = p.nregs ∧ u.vregs = p.vregs

/-- Where a shifted site comes from (15 R239, Table 15-5): a source inside the lattice is taken as it stands; outside, the mode of the
first axis that lies outside decides between a fixed value and a site of the lattice. -/
def Sys2Proof.Claim.ShiftTakesBoundaryValues : Prop :=
  ∀ (w : W64) (cst : Nat) (ext : List Nat) (x y z : Int) (gx gy gz : Nat), ext = [gx, gy, gz] → 0 < gx → 0 < gy → 0 < gz →
    let from_ := shiftFrom w cst ext [0, 1, 2]
    let inside := fun (v : Int) (g : Nat) => 0 ≤ v ∧ v < g
    (inside x gx → inside y gy → inside z gz → from_ [x, y, z] = .ok [x, y, z]) ∧
    (¬ inside x gx → modeOf w 0 = 0 → from_ [x, y, z] = .error 0) ∧
    (¬ inside x gx → modeOf w 0 = 4 → from_ [x, y, z] = .error cst) ∧
    (inside x gx → ¬ inside y gy → modeOf w 1 = 0 → from_ [x, y, z] = .error 0) ∧
    (inside y gy → inside z gz →
      (x < 0 → modeOf w 0 = 1 → from_ [x, y, z] = .ok [0, y, z]) ∧
      (gx ≤ x → modeOf w 0 = 1 → from_ [x, y, z] = .ok [(gx : Int) - 1, y, z]) ∧
      (¬ inside x gx → modeOf w 0 = 2 → from_ [x, y, z] = .ok [x % gx, y, z]) ∧
      (x < 0 → modeOf w 0 = 3 → from_ [x, y, z] = .ok [-x - 1, y, z]) ∧
      (gx ≤ x → modeOf w 0 = 3 → from_ [x, y, z] = .ok [2 * (gx : Int) - 1 - x, y, z]))

/-- LATTICE_LOCAL_APPLY, PSHIFT_RUN, PSTEP_RUN and MARCH_HANDOFF (15 R234 to R237, R241, R244, R246): the operation at the head of the
PE's list is applied as one step and leaves it; a collective sends its Race data first, faults where a neighbour's differs, and
then goes on. -/
def Obligations.LatticeOperationsRunAfterTheCommit : Prop :=
  ∀ (s u : State) (pe rid : Nat) (x : LatPend) (xs : List LatPend),
    let p := s.pe pe
    let r := s.region rid
    let i := Instr.latticeLocalApply pe
    let others := fun (v : State) => (v.pe pe).lops = xs ∧ (v.pe pe).lmem = p.lmem ∧ (∀ k, k ≠ pe → v.pe k = s.pe k) ∧ v.mem = s.mem
    let named := fun (w : Nat) (m : W64) (b : Nat) => 64 * w ≤ b ∧ b < 64 * w + 64 ∧ m.getLsbD (b - 64 * w) = true
    (p.lops = x :: xs →
      (∀ n d q, x.op = .pldef n d q → Goes i s fun v =>
        (v.pe pe).plane n = ⟨d, q, 0⟩ ∧ (∀ m, m ≠ n → (v.pe pe).plane m = p.plane m) ∧ others v) ∧
      (∀ n w m, w < 4 → x.op = .pact .adopt n w m → Goes i s fun v => others v ∧
        ∀ b, b < 256 → (((v.pe pe).plane n).active b = true ↔ (p.plane n).active b = true ∨ named w m b)) ∧
      (∀ n w m, w < 4 → x.op = .pact .deact n w m → Goes i s fun v => others v ∧
        ∀ b, b < 256 → (((v.pe pe).plane n).active b = true ↔ (p.plane n).active b = true ∧ ¬ named w m b)) ∧
      (∀ sub a, x.op = .pcopy sub a a → Goes i s fun v => others v ∧ (v.pe pe).planes = p.planes) ∧
      (∀ a b, a ≠ b → x.op = .pcopy .swap a b → Goes i s fun v => others v ∧
        ((v.pe pe).plane a).act = (p.plane b).act ∧ ((v.pe pe).plane b).act = (p.plane a).act ∧
        ((v.pe pe).plane a).geo.base = (p.plane b).geo.base ∧ ((v.pe pe).plane b).geo.base = (p.plane a).geo.base)) ∧
    (∀ k ks t, r.rect.pes = k :: ks → s.stepDue r = none →
      let e := fun (op : LatOp) => (s.pe k).plane op.sentPlane
      let runs := fun (i : Instr) (op : LatOp) (go : State × Bool) => (s.pe k).collective = some (op, t) →
        ((s.pe k).raceOpen = false → s.needBricks k [(e op, (e op).actives)] [] = .here u → exec i s = .next (u.sendRace k op t)) ∧
        ((s.pe k).raceOpen = true → ∀ o, s.raceOther r k op t = some o →
          exec i s = .next (s.unrecoverableAt rid k .racemismatch t (raceInfo op o).1 (raceInfo op o).2)) ∧
        ((s.pe k).raceOpen = true → s.raceOther r k op t = none → go = (u, true) → exec i s = .next u)
      (∀ w c, runs (.pshiftRun rid) (.pshift w c) (s.applyShift r k w c)) ∧
      (∀ a b, runs (.pstepRun rid) (.pstep a b) (s.beginStep r k a b t))) ∧
    (∀ k, s.stepDue r = some k →
      ((s.pe k).stepRun.groups = [] → exec (.pstepRun rid) s = .next (s.endStep k)) ∧
      (∀ g gs, (s.pe k).stepRun.groups = g :: gs → exec (.pstepRun rid) s = .next (s.fireGroup rid k g))) ∧
    (∀ n y, p.nextRay = some (n, y) → p.region = some rid →
      let g := (p.plane y.plane).geo
      let put := fun (s : State) (z : Ray) => s.onPe pe fun p => { p with march := p.march.set n z }
      (rayPe r.rect r.stitch g y = none →
        exec (.marchHandoff pe) s = .next (put s (marchAt r.rect r.stitch g pe p 1 y))) ∧
      (∀ k, rayPe r.rect r.stitch g y = some k →
        let e := (s.pe k).plane y.plane
        s.needBricks k [(e, e.actives)] [] = .here u →
        exec (.marchHandoff pe) s = .next (put u (marchAt r.rect r.stitch e.geo k (u.pe k) 70000 y))))


/-! ## Coprocessors and scheduling (chapters 21 and 22) -/

/-- CALL_TAKE, CALL_RETURN, ZB_RELEASE, UNIT_TIMEOUT and QUEUE_MARKER (22 R325 to R340): an idle unit takes the head of its queue once
the writes of the caller's commit are acknowledged; a ZB call in order is held until its frontier has passed; a call of 2^24 cycles ends
with UNITFAULT; returns of one circuit leave in order of time. -/
def Sys2Proof.Claim.CoprocessorUnitsTakeAndReturnCalls : Prop :=
  ∀ (s : State) (d n : Nat) (q : Queue) (c : Call) (r : Running),
    let u := s.unit d q n
    let z := s.unit d .zb n
    let cs := (s.die d).copro
    let take := Instr.callTake d q n
    (n < unitCount q →
      (u.running = some r → exec take s = .next (s.serve d q n r)) ∧
      (u.running = none → cs.next q n = none → exec take s = .next s) ∧
      (u.running = none → cs.next q n = some c →
        (s.portQuiet c.after c.upto = false → exec take s = .next s) ∧
        (∀ b, s.portQuiet c.after c.upto = true → s.image c.job q = some b → u.resident ≠ some b →
          exec take s = .next (s.onCoUnit d q n fun u => { u with resident := some b, control := s.controlImage b })) ∧
        (s.portQuiet c.after c.upto = true → s.image c.job q = none →
          let taken := (s.onCoUnit d q n fun u => { u with resident := none, control := [] }).takeCall d q n c
          (q = .zb → c.ord = true → c.batch = none → exec take s = .next (taken.holdCall d n c)) ∧
          (q ≠ .zb ∨ c.ord = false → exec take s = .next (taken.serve d q n ⟨c, s.cycle, none, c.pts⟩))))) ∧
    (q = .zb → c.ord = true → cs.next q n = some c → n = c.domain % 8) ∧
    (u.running = some r → s.cycle < r.since + 2 ^ 24 → exec (.unitTimeout d q n) s = .next s) ∧
    (u.running = some r → r.since + 2 ^ 24 ≤ s.cycle →
      exec (.unitTimeout d q n) s = .next (s.endCall d q n r (0x10, []) true)) ∧
    (z.running = none → ∀ h, s.released z = some h →
      h ∈ z.held ∧ h.2.time < Map.get 0 (s.root h.2.job).front h.2.qloc ∧
      (∀ g ∈ z.held, g.2.time < Map.get 0 (s.root g.2.job).front g.2.qloc → g.2.before h.2 = false) ∧
      exec (.zbRelease d n) s = .next ((s.onCoUnit d .zb n fun u => { u with held := u.held.erase h }).serve d .zb n
        ⟨h.2, s.cycle, none, h.2.pts⟩)) ∧
    (z.running = none → (∀ h ∈ z.held, ¬ h.2.time < Map.get 0 (s.root h.2.job).front h.2.qloc) →
      exec (.zbRelease d n) s = .next s) ∧
    (cs.mayReturn q r = true → ∀ x ∈ cs.calls q, x.1.sameCircuit r.call = true → ¬ x.1.time < r.call.time) ∧
    (u.ready = [r] → cs.mayReturn q r = true → r.call.batch = none → exec (.callReturn d q n) s =
      .next ((s.onCoUnit d q n fun u => { u with ready := u.ready.eraseIdx 0 }).returnCall r (r.ret.getD 0))) ∧
    ((∀ x ∈ u.ready, cs.mayReturn q x = false) → exec (.callReturn d q n) s = .next s) ∧
    (∀ g k, (s.region g).preempt = .draining k → Goes (.queueMarker d q g) s fun t =>
      (queueCode q, g) ∈ (t.die d).copro.cut ∧ (t.die d).copro.queues = cs.queues ∧ (∀ e, e ≠ d → t.die e = s.die e))

/-- Coverage of a triangle (22 R341): a pixel is covered where its sample lies inside each edge, or on a top or left edge; the order of
the vertices does not matter; a triangle of no area, or culled, covers nothing. -/
def Sys2Proof.Claim.TrianglesCoverByEdgeFunctions : Prop :=
  ∀ (a b c : Vtx) (cull tx ty k : Nat), k < 64 →
    let p := sampleAt tx ty k
    let within := fun (x y : Vtx) => 0 < edgeFn x y p ∨ (edgeFn x y p = 0 ∧ (y.y < x.y ∨ (y.y = x.y ∧ x.x < y.x)))
    let on := k ∈ (coverOf a b c cull tx ty).pixels
    (0 < edgeFn a b c → cull ≠ 2 → (on ↔ within a b ∧ within b c ∧ within c a)) ∧
    (edgeFn a b c < 0 → cull ≠ 1 → (on ↔ within a c ∧ within c b ∧ within b a)) ∧
    (edgeFn a b c = 0 → ¬ on ∧ (coverOf a b c cull tx ty).cf = 4) ∧
    (edgeFn a b c < 0 → cull = 1 → ¬ on ∧ (coverOf a b c cull tx ty).cf = 2) ∧
    (0 < edgeFn a b c → cull = 2 → ¬ on ∧ (coverOf a b c cull tx ty).cf = 2) ∧
    (on ↔ k ∈ (coverOf a c b (if cull = 1 then 2 else if cull = 2 then 1 else cull) tx ty).pixels)

/-- WS_ENTRY_READ, WS_POOL_ENTER, WS_ENTRY_COMPLETE and SLUICE_DECISION (21 R313 to R323). -/
def Sys2Proof.Claim.KernelGraphEntriesRun : Prop :=
  ∀ (s t : State) (job k : Nat) (e : WsEntry) (bs : List Byte),
    let j := s.job job
    let read := Instr.wsEntryRead job
    let va := j.pkg.kgbase + w64 (64 * j.next)
    let fresh := WsEntry.of j.next (BitVec.ofNat 512 (leNat bs))
    (j.live = true → j.stops = false → j.next < j.pkg.nentry → j.heldEntries < 4096 →
      (s.hubRead (.hubEntry job) job 5 va 64 = (t, none) → exec read s = .next t) ∧
      (∀ c, s.hubRead (.hubEntry job) job 5 va 64 = (t, some (.error c)) → exec read s = .next (t.wsEntryFault job j.next 9 c)) ∧
      (s.hubRead (.hubEntry job) job 5 va 64 = (t, some (.ok bs)) →
        (∀ c, fresh.broken = some c → exec read s = .next (t.wsEntryFault job j.next c 0)) ∧
        (fresh.broken = none → exec read s =
          .next (t.onJob job fun x => { x with entries := x.entries.set x.next fresh, next := x.next + 1 })))) ∧
    (j.pkg.nentry ≤ j.next ∨ 4096 ≤ j.heldEntries → exec read s = .next s) ∧
    (s.draining = false → s.oldestReady = some (job, e) → s.poolSize < 1024 →
      let pooled := s.onEntry job e.idx fun x => { x with inPool := true }
      (e.type = 1 → exec (.wsPoolEnter job) s = .next { pooled with bids := s.bids ++ [(pooled.job job).bidOf job e] }) ∧
      (e.type = 0 → exec (.wsPoolEnter job) s = .next (pooled.onEntry job e.idx fun x =>
        { x with started := true, finished := true, done := true, stamp := pooled.startPts job { e with inPool := true } })) ∧
      (e.type ≠ 0 → e.type ≠ 1 → exec (.wsPoolEnter job) s = .next (pooled.dispatchEntry job { e with inPool := true }))) ∧
    (s.draining = true → exec (.wsPoolEnter job) s = .next s ∧ exec .sluiceDecision s = .next s) ∧
    (j.entries.find k = some e → s.entryEnded job e = true → s.entryRegion job k = none → e.failed = false →
      let ended := s.dropStreams fun st => st.job == job && st.stopped && (st.pair.map CopyPair.entry) == some k
      exec (.wsEntryComplete job k) s = .next ((ended.onEntry job k fun x =>
        { x with done := true, stamp := max x.stamp (ended.startPts job e) }).settleJob job)) ∧
    (∀ rid, j.entries.find k = some e → s.entryEnded job e = true → s.entryRegion job k = some rid → e.failed = false →
      exec (.wsEntryComplete job k) s = .next (((s.endSection rid).onEntry job k fun x =>
        { x with done := true, stamp := max x.stamp ((s.endSection rid).startPts job e) }).settleJob job)) ∧
    (j.entries.find k = some e → s.entryEnded job e = false → exec (.wsEntryComplete job k) s = .next (s.settleJob job)) ∧
    (∀ b p, s.draining = false → s.bids = [b] → s.placeFor b = some p →
      (∀ u, s.admitBid b p = some u → exec .sluiceDecision s = .next { u with bids := [] }) ∧
      (s.admitBid b p = none → exec .sluiceDecision s = .next { s with bids := [b] })) ∧
    (∀ b, s.draining = false → s.bids = [b] → s.placeFor b = none → exec .sluiceDecision s = .next s)

/-- The Sluice (21 R320, R321): the bids stand in rank order, a higher PRIO first (0 is the lowest) and then the older; a bid that at least eight later
ones have passed blocks every lower one; one that fits is placed at the first free position. -/
def Sys2Proof.Claim.BidsAreRankedAndPlaced : Prop :=
  ∀ (s : State) (b : Bid) (l ahead : List Bid),
    let ranked := fun (x y : Bid) => y.outranks x = false
    (l.Pairwise ranked → (insertBid b l).Pairwise ranked ∧ ∀ x, x ∈ insertBid b l ↔ x = b ∨ x ∈ l) ∧
    (∀ x y : Bid, x.outranks y = true ↔ y.prio < x.prio ∨ (x.prio = y.prio ∧ x.age < y.age)) ∧
    ((∃ x ∈ ahead, 8 ≤ x.bypass) → State.considerBid (s, ahead) b = (s, ahead ++ [b])) ∧
    ((∀ x ∈ ahead, x.bypass < 8) → ∀ p t, s.placeFor b = some p → s.admitBid b p = some t →
      State.considerBid (s, ahead) b = (t, ahead.map fun x => { x with bypass := x.bypass + 1 })) ∧
    (∀ p, s.placeFor b = some p →
      b.dies.contains p.1 = true ∧ p.1 < 4 ∧ p.2.1 + b.w ≤ 8 ∧ p.2.2 + b.h ≤ 8 ∧
      ∀ k ∈ baysAt p.1 p.2.1 p.2.2 b.w b.h, s.bayFree s.heldBays k = true ∧ k ∉ s.heldBays)


/-! ## Faults, watchdogs and pre-emption (chapter 24) -/

/-- A precise fault (09 R141, R160; 24 R353, R354): the block commits nothing; a control thread whose handler is enabled and not
running enters it with the record, the address of its block and INH; a node stops and its record joins the fault queue; nothing else of
the machine's memory or registers changes. -/
def Obligations.PreciseFaultsCommitNothing : Prop :=
  ∀ (s : State) (f : Frame) (t : Trap), s.cur = f → f.live = true →
    let u := s.raisePrecise t
    let x := s.record f t 0 f.turn
    let keeps := fun (k : Nat) => (u.pe k).lmem = (s.pe k).lmem ∧ (u.pe k).full = (s.pe k).full ∧ (u.pe k).nregs = (s.pe k).nregs ∧
      (u.pe k).vregs = (s.pe k).vregs ∧ (u.pe k).inports = (s.pe k).inports ∧ (u.pe k).outq = (s.pe k).outq ∧
      (u.pe k).caps = (s.pe k).caps ∧ (u.pe k).status = (s.pe k).status ∧ (u.pe k).matrix = (s.pe k).matrix
    let rest := u.mem = s.mem ∧ u.slices = s.slices ∧ u.jobs = s.jobs ∧ u.bays = s.bays ∧ u.parked = s.parked ∧ u.cur.live = false
    (∀ rid, f.agent = .ctl rid → bitAt (s.region rid).tvec 63 = true → statusInh (s.region rid).status = false →
      let r := s.region rid
      u.region rid = { r with trec := recPacked x, epc := f.addr, status := statusSet r.status 14 true,
                              pc := ((BitVec.ofNat 55 (bits r.tvec 54 2 * 4)).signExtend 64) } ∧
      (∀ k, k ≠ rid → u.region k = s.region k) ∧ (∀ k, keeps k ∧ (u.pe k).stopped = (s.pe k).stopped) ∧ rest) ∧
    (∀ pe, f.agent = .node pe → (s.region f.region).overflow = false → (s.region f.region).faultq.length < 32 →
      let r := s.region f.region
      u.region f.region = { r with faultq := r.faultq ++ [{ x with qseq := BitVec.ofNat 16 (r.qseq + 1) }], qseq := r.qseq + 1 } ∧
      (∀ k, k ≠ f.region → u.region k = s.region k) ∧ (u.pe pe).stopped = true ∧
      (∀ k, keeps k ∧ (k ≠ pe → (u.pe k).stopped = (s.pe k).stopped)) ∧ rest) ∧
    x.fcode = t.code.code ∧ x.info0 = t.info0 ∧ x.info1 = t.info1 ∧ x.time = f.time ∧ x.slot = BitVec.ofNat 6 f.turn ∧
    x.block = f.addr

/-- HANDLER_ENTRY and QOVF (24 R353, R354), DEADLINE, STALL, HALT_GRACE_EXPIRY and JOBDEADLINE (24 R357 to R359), BREAK_RESUME (24
R372): a thread between blocks enters its handler with the oldest record that interrupts. -/
def Sys2Proof.Claim.HandlersAndWatchdogsAct : Prop :=
  ∀ (s : State) (rid : Nat) (x : TrapRecord),
    let r := s.region rid
    let ctl := agentNumber (.ctl rid)
    let expires := fun (i : Instr) (c : FaultCode) => exec i s = .next (s.expire rid c)
    (r.live = true → r.halted = false → r.brkStop = false → r.preempt = .none → statusInh r.status = false →
      (r.interrupting = none → exec (.handlerEntry rid) s = .next s) ∧
      (r.interrupting = some x → s.frameOf (· == .ctl rid) = none →
        (bitAt r.tvec 63 = true → Goes (.handlerEntry rid) s fun u =>
          (u.region rid).trec = recPacked x ∧ (u.region rid).epc = r.pc ∧ (u.region rid).status = statusSet r.status 14 true ∧
          (u.region rid).pc = tvecAddr r.tvec ∧ (u.region rid).faultq = r.faultq.erase x ∧ (u.region rid).g = r.g ∧
          (∀ k, k ≠ rid → u.region k = s.region k) ∧ u.mem = s.mem ∧ u.pes = s.pes) ∧
        (bitAt r.tvec 63 = false → exec (.handlerEntry rid) s =
          .next (((s.unwithholdAll (.fetch rid)).onRegion rid (·.unqueue x)).execTake rid x))) ∧
      (∀ f, r.interrupting = some x → s.frameOf (· == .ctl rid) = some f → s.waitsAtIssue f = false →
        exec (.handlerEntry rid) s = .next s)) ∧
    (r.interrupting = some x → x ∈ r.faultq ∧ recDeferred x = false) ∧
    (statusInh r.status = true → exec (.handlerEntry rid) s = .next s) ∧
    (r.live = true → r.overflow = false → 32 ≤ r.faultq.length → exec (.qovf rid x) s = .next (s.qovf rid)) ∧
    (r.faultq.length < 32 → exec (.qovf rid x) s = .next s) ∧
    (r.live = true → r.released = false → r.halted = false → r.preempt = .none → bitAt r.wdog 0 = false →
      (bits r.wdog 63 32 = 0 → expires (.deadline rid) .deadline) ∧
      (bits r.wdog 63 32 ≠ 0 → exec (.deadline rid) s = .next s) ∧
      (bits r.wdog 31 8 ≠ 0 → 1024 * bits r.wdog 31 8 ≤ r.stallCnt → expires (.stall rid) .stall) ∧
      (bits r.wdog 31 8 = 0 ∨ r.stallCnt < 1024 * bits r.wdog 31 8 → exec (.stall rid) s = .next s)) ∧
    (∀ c, r.live = true → r.halted = false → r.wdogHalt = some c →
      (c ≤ s.cycle → exec (.haltGraceExpiry rid) s = .next (s.execTake rid
        (mkRecord (if bits r.wdog 63 32 = 0 then .deadline else .stall) 8 3 ctl r.job 0 0))) ∧
      (s.cycle < c → exec (.haltGraceExpiry rid) s = .next s)) ∧
    (∀ job, (s.job job).live = true → (s.job job).outcome = none → s.holdsRegion job = true →
      let rec_ := mkRecord .jobdeadline 8 3 0 job 0 0
      ((s.job job).pkg.jbudget ≤ (s.job job).budget → exec (.jobdeadline job) s =
        .next ((s.abortJob job rec_ 5).event job 0 (recWords rec_))) ∧
      ((s.job job).budget < (s.job job).pkg.jbudget → exec (.jobdeadline job) s = .next s)) ∧
    (r.brkStop = true → exec (.breakResume (.ctl rid)) s =
      .next (s.onRegion rid fun y => { y with brkStop := false, status := statusSet y.status 12 true })) ∧
    (∀ k, (s.pe k).brkStop = true → exec (.breakResume (.node k)) s =
      .next (s.onPe k fun p => { p with brkStop := false, stopped := false, status := statusSet p.status 12 true }))

/-- WITHHELD_TIMEOUT (05 R81; 24 R370), PREEMPT_INJECT, MARK_RECEIVED, COPY_MARKER, CUT_COMPLETE, DRAINTIMEOUT and RESTORE_CONTEXT (24
R361 to R369; 06 R102). -/
def Sys2Proof.Claim.RegionsAreDrainedSavedAndRestored : Prop :=
  ∀ (s : State) (rid : Nat),
    let r := s.region rid
    let d := s.domainOf rid
    (∀ (n : Nat) (w : Withheld), s.withheld[n]? = some w → w.region = rid → w.answer = none → r.preemptable = true →
      r.preempt = .none →
      (w.since + 2 ^ 22 ≤ s.cycle → exec (.withheldTimeout n) s = .next (s.beginDrain rid (some w))) ∧
      (s.cycle < w.since + 2 ^ 22 → exec (.withheldTimeout n) s = .next s)) ∧
    (∀ page, rid ∈ d → r.preempt = .none → ((s.beginDrain rid page).region rid).preempt = .draining s.cycle) ∧
    (r.preemptable = true → exec (.preemptInject rid) s = .next (s.injectMarks rid)) ∧
    (r.preemptable = false → exec (.preemptInject rid) s = .next s) ∧
    (∀ pe port, ((s.pe pe).inport port).marked = true → (s.pe pe).marks = false → s.maySave pe = true →
      Goes (.markReceived pe port) s fun u =>
        u = s.saveNode pe ∧ (u.pe pe).marks = true ∧ (u.pe pe).nregs = (s.pe pe).nregs ∧ (u.pe pe).inports = (s.pe pe).inports ∧
        u.regions = s.regions ∧ u.mem = s.mem) ∧
    (∀ pe port, (s.pe pe).marks = true → exec (.markReceived pe port) s = .next s) ∧
    (∀ bay, s.regionOfBay bay = some rid → r.draining = true → (s.bay bay).cut = false → (s.bay bay).streams = [] →
      exec (.copyMarker bay) s = .next (s.onBay bay fun b => { b with cut := true })) ∧
    (∀ bay, s.regionOfBay bay = some rid → (s.bay bay).cut = true → exec (.copyMarker bay) s = .next s) ∧
    (r.draining = true → d.all (s.regionCut (s.markedPorts d)) = true →
      ∀ t, s.saveAll d = some t → exec (.cutComplete rid) s = .next t) ∧
    (r.draining = true → d.all (s.regionCut (s.markedPorts d)) = false → exec (.cutComplete rid) s = .next s) ∧
    (∀ since, r.preempt = .draining since →
      (s.cycle < since + 2 ^ 24 → exec (.draintimeout rid) s = .next s) ∧
      (since + 2 ^ 24 ≤ s.cycle → exec (.draintimeout rid) s = .next (d.foldl (fun s k =>
        (s.execTake k (mkRecord .draintimeout 8 3 (agentNumber (.ctl k)) (s.region k).job 0 0)).stopDrain k) s))) ∧
    (∀ k c, s.saves.find k = some c → c.place = some rid → c.live = true → c.lost = false →
      (s.badSave c.save.toNat c.nb c.job c.gen = none → c.fits r.rect.d = true →
        (c.badBlock = none → exec (.restoreContext k) s = .next (s.loadContext k rid c)) ∧
        (∀ x, c.badBlock = some x → exec (.restoreContext k) s = .next (s.blockFails k rid c x))) ∧
      (∀ a, s.badSave c.save.toNat c.nb c.job c.gen = some a → Goes (.restoreContext k) s fun u =>
        u.saves.find k = some { c with lost := true, place := none } ∧ u.mem = s.mem))


/-! ## Hosts, boot, replay and power (chapter 26; 12 R199, R200) -/

/-- Boot, connections and power (26 R384, R390, R391, R404, R405): POWER_UP, BOOT_IMAGE_ARRIVAL, BOOT_RETRY, CONNECTION_REQUEST,
BAY_IDLE_ENTRY, BAY_POWER_GATING, SELF_REFRESH, THERMAL_THROTTLE and THERMAL_SHUTDOWN, each with the whole state after it. -/
def Sys2Proof.Claim.ModuleBootsAndIsPowered : Prop :=
  ∀ (s : State) (hosts : List Nat) (h bay k d c : Nat),
    let b := s.bay bay
    (s.boot = .cold → exec .powerUp s =
      .next { s with mem := [], poison := [], owner := [], slices := [], boot := .requested s.cycle }) ∧
    (s.boot ≠ .cold → exec .powerUp s = .next s) ∧
    (∀ since, s.boot = .requested since →
      exec (.bootImageArrival hosts true) s = .next { s with art := [], windows := [], hosts := hosts, boot := .running } ∧
      exec (.bootImageArrival hosts false) s = .next { s with boot := .failed s.cycle }) ∧
    (∀ since, s.boot = .requested since ∨ s.boot = .failed since →
      (since + 2 ^ 30 ≤ s.cycle → exec .bootRetry s = .next { s with boot := .requested s.cycle }) ∧
      (s.cycle < since + 2 ^ 30 → exec .bootRetry s = .next s)) ∧
    (s.boot = .running →
      (s.hosts.contains h = true → exec (.connectionRequest h) s =
        .next { s with conns := s.conns.set s.conns.length ⟨h, [], none⟩ }) ∧
      (s.hosts.contains h = false → exec (.connectionRequest h) s = .next s)) ∧
    (bay < 256 → s.regionOfBay bay = none →
      (b.power = .on → exec (.bayIdleEntry bay) s = .next (s.onBay bay fun b => { b with power := .idle })) ∧
      exec (.bayPowerGating bay true) s = .next (s.onBay bay fun b => { b with power := .off })) ∧
    (∀ r, s.regionOfBay bay = some r → exec (.bayIdleEntry bay) s = .next s ∧ exec (.bayPowerGating bay true) s = .next s) ∧
    (bay < 256 → b.power = .off → exec (.bayPowerGating bay false) s = .next (s.onBay bay fun b => { b with power := .idle })) ∧
    (k < 16 →
      exec (.selfRefresh k true) s = .next { s with refresh := k :: s.refresh.filter (· != k) } ∧
      exec (.selfRefresh k false) s = .next { s with refresh := s.refresh.filter (· != k) }) ∧
    (d < 4 → Goes (.thermalThrottle d c) s fun u =>
      (u.die d).celsius = c ∧ (95 ≤ c → (u.die d).step = min ((s.die d).step + 1) 7) ∧ (c < 90 → (u.die d).step = 0) ∧
      (90 ≤ c → c < 95 → (s.die d).step = 0 → (u.die d).step = 0) ∧ (∀ e, e ≠ d → u.die e = s.die e) ∧ u.mem = s.mem ∧
      u.cycle = s.cycle) ∧
    (c < 105 → exec (.thermalShutdown d c) s = .next s) ∧
    (105 ≤ c → d < 4 → Goes (.thermalShutdown d c) s fun u => u.fabricOff = true) ∧
    (s.fabricOff = true → step s = .fault .fabricOff)

/-- The commands of a host (26 R385, R386, R389, R392, R395): each is taken when the executive runs and the connection waits for nothing,
and is answered with its OP, its SEQ and a status. -/
def Sys2Proof.Claim.HostCommandsAreAnswered : Prop :=
  ∀ (s : State) (k job idx n : Nat) (seq : Word) (op : Byte) (pkg : LaunchPackage) (base len : W64) (perm : BitVec 2),
    let j := s.job job
    let answers := fun (i : Instr) (op st : Byte) => exec i s = .next (s.respond k op seq st [])
    (∀ c st ws, s.conns.find k = some c →
      s.respond k op seq st ws = { s with messages := s.messages ++ [⟨c.host, op, st, seq, ws⟩] }) ∧
    (s.takesCommand k = false → exec (.badmsg k seq op) s = .next s ∧ exec (.jobsubmit k seq pkg) s = .next s ∧
      exec (.jobabort k seq job) s = .next s ∧ exec (.telemetry k seq) s = .next s) ∧
    (s.takesCommand k = true →
      answers (.badmsg k seq op) op 0x01#8 ∧
      (bitAt pkg.flags 1 = true → answers (.jobsubmit k seq pkg) 0x01#8 0x01#8) ∧
      (pkg.flags = 0 → exec (.jobsubmit k seq pkg) s =
        .next (s.onConn k fun c => { c with waiting := [(0x01#8, seq, [])], pending := some pkg })) ∧
      exec (.telemetry k seq) s = .next ({ s with freeCount := s.freeCount + 3 }.respond k 0x07#8 seq 0 s.telemetryWords) ∧
      (s.hasJob job = false → answers (.jobabort k seq job) 0x02#8 0x02#8 ∧
        answers (.exportRange k seq job base len perm) 0x0A#8 0x02#8 ∧ answers (.unexportRange k seq job idx) 0x0B#8 0x02#8 ∧
        (job ≠ 0xFFFF → answers (.epattach k seq job idx n) 0x03#8 0x02#8 ∧ answers (.epdetach k seq job idx) 0x04#8 0x02#8)) ∧
      (s.hasJob job = true →
        exec (.jobabort k seq job) s = .next ((s.abortJob job (abortRecord job) 5).respond k 0x02#8 seq 0 []) ∧
        (idx < 256 → exec (.epattach k seq job idx n) s =
          .next ((s.onJob job fun j => { j with endpts := j.endpts.set idx n }).respond k 0x03#8 seq 0 [])) ∧
        (s.endpointOpen job idx = true → answers (.epdetach k seq job idx) 0x04#8 0x04#8) ∧
        (s.endpointOpen job idx = false → exec (.epdetach k seq job idx) s =
          .next ((s.onJob job fun j => { j with endpts := j.endpts.drop idx }).respond k 0x04#8 seq 0 [])) ∧
        (bits base 15 0 ≠ 0 → answers (.exportRange k seq job base len perm) 0x0A#8 0x01#8) ∧
        (bits base 15 0 = 0 → len = 0 → canonical base = true → j.exports = [] → exec (.exportRange k seq job base len perm) s =
          .next ((s.onJob job fun j => { j with exports := j.exports.set 0 ⟨base, 0, [], perm⟩ }).respond k 0x0A#8 seq 0 [0])) ∧
        (j.exports.find idx = none → answers (.unexportRange k seq job idx) 0x0B#8 0x04#8) ∧
        (∀ x, j.exports.find idx = some x → exec (.unexportRange k seq job idx) s =
          .next ((s.onJob job fun j => { j with exports := j.exports.drop idx }).respond k 0x0B#8 seq 0 []))) ∧
      (s.safeStore idx = false →
        answers (.checkpoint k seq idx) 0x05#8 0x04#8 ∧ answers (.restoreImage k seq idx) 0x06#8 0x04#8) ∧
      (s.safeStore idx = true →
        exec (.checkpoint k seq idx) s = .next ((s.setWaiting k [(0x05#8, seq, [idx])]).checkpointStep k idx) ∧
        exec (.restoreImage k seq idx) s = .next (s.setWaiting k [(0x06#8, seq, [idx])])) ∧
      (n = 0 ∨ 16 < n → answers (.replay k seq job n) 0x08#8 0x01#8) ∧
      (0 < n → n ≤ 16 → j.live = true → j.rr ≠ 0 → j.wsDone = true → j.captOff = false → exec (.replay k seq job n) s =
        .next (((s.onJob job fun j => { j with pass := 0 }).setWaiting k [(0x08#8, seq, [job, n, 0])]).replayStep k seq job n 0)) ∧
      (0 < n → n ≤ 16 → j.live = true → j.rr = 0 → answers (.replay k seq job n) 0x08#8 0x04#8))

/-- Remote memory access, the data that the executive reads, endpoint transfers and page capture (12 R199, R200; 26 R385, R389, R394):
RMA_READ, RMA_WRITE, RMA_ATOMIC, RMA_READ_RESPONSE, ENDPOINT_ACK, EPFAIL and PAGE_CAPTURE. -/
def Sys2Proof.Claim.RemoteAccessesAndTransfersEnd : Prop :=
  ∀ (s t : State) (k job idx off : Nat) (sub : AtomSub) (v old : W64) (data : List Byte) (rep : Reply) (e : Endpoint) (page : Nat),
    let j := s.job job
    let gone : State := { s with transfers := s.transfers.filter fun x => x.id != e.id }
    let found := (s.transfers.find? fun x => x.id == e.id) = some e
    let denied := fun (i : Instr) => exec i s = .next (s.rmaReply k 0x04#8 [])
    (s.boot = .running → (s.conns.find k).isSome = true →
      (s.exportFor job idx off 8 1 = none → denied (.rmaRead k job idx off 8)) ∧
      (s.exportFor job idx off data.length 2 = none → denied (.rmaWrite k job idx off data)) ∧
      (off % 8 ≠ 0 ∨ s.exportFor job idx off 8 3 = none → denied (.rmaAtomic k job idx off sub v)) ∧
      (∀ x, off % 8 = 0 → off < 2 ^ 64 → s.exportFor job idx off 8 1 = some x →
        s.rmaPiece job .load (x.addr off) 8 0 = (t, rep) →
        (rep.err = none → exec (.rmaRead k job idx off 8) s = .next (t.rmaReply k 0 [rep.val.setWidth 64])) ∧
        (∀ c, rep.err = some c → exec (.rmaRead k job idx off 8) s = .next (t.rmaReply k 0x05#8 []))) ∧
      (∀ x, off % 8 = 0 → off < 2 ^ 64 → data.length = 8 → s.exportFor job idx off 8 2 = some x →
        s.rmaPiece job .store (x.addr off) 8 (BitVec.ofNat 512 (leNat data)) = (t, rep) →
        exec (.rmaWrite k job idx off data) s = .next (t.rmaReply k (if rep.err = none then 0 else 0x05#8) [])) ∧
      (∀ x, off % 8 = 0 → s.exportFor job idx off 8 3 = some x →
        s.rmaPiece job (.atom sub) (x.addr off) 8 (v.setWidth 512) = (t, rep) → rep.err = none →
        exec (.rmaAtomic k job idx off sub v) s = .next (t.rmaReply k 0 [rep.val.setWidth 64]))) ∧
    (∀ c seq p, s.conns.find k = some c → s.waitingOn k = some (0x01#8, seq, []) → c.pending = some p →
      let s1 := s.onConn k fun c => { c with pending := none }
      (∀ tag, s1.launch p c.host = (t, .ok tag) → exec (.rmaReadResponse k data) s =
        .next (t.finishCommand k 0x01#8 seq 0 [w64 tag])) ∧
      (∀ st, s1.launch p c.host = (t, .error st) → exec (.rmaReadResponse k data) s = .next (t.finishCommand k 0x01#8 seq st []))) ∧
    (found →
      (∀ w o y rs a, e.what = .atomic w o y rs a →
        exec (.endpointAck e.id old) s = .next (gone.atomicResult e a rs w old) ∧
        exec (.epfail e.id) s = .next (gone.atomicFailed e a rs w)) ∧
      (∀ b n i st, e.what = .tile b n i → (s.bay b).streams.find n = some st → st.inbound = false →
        exec (.endpointAck e.id old) s = .next (gone.onStream b n fun x =>
          { x with tiles := x.tiles.map fun y => if y.idx == i then { y with left := 0 } else y })) ∧
      (∀ g i, e.what = .signal g i →
        exec (.endpointAck e.id old) s = .next (gone.onEntry g i fun x => { x with finished := true }) ∧
        exec (.epfail e.id) s = .next (gone.onEntry g i fun x => { x.fail 0x28 with finished := true }))) ∧
    ((∀ x ∈ s.transfers, x.id ≠ e.id) → exec (.endpointAck e.id old) s = .next s ∧ exec (.epfail e.id) s = .next s) ∧
    (j.captOff = false →
      (j.capWait.contains page = false → exec (.pageCapture job page) s = .next s) ∧
      (j.capWait.contains page = true → j.captRoom = true → exec (.pageCapture job page) s = .next (s.capture job page)) ∧
      (j.capWait.contains page = true → j.captRoom = false → exec (.pageCapture job page) s = .next (s.endPass job)))

/-! ## Statements of several claims -/

/-- READ, MOV, MOVI, MOVIS, NULL and SEL deliver their values: the claims ReadDeliversRegister, MovesDeliverTheirValue and
SelectKeepsTheChosenOperand. -/
def Obligations.ReadsAndMovesDeliver : Prop :=
  Claim.ReadDeliversRegister ∧ Claim.MovesDeliverTheirValue ∧ Claim.SelectKeepsTheChosenOperand

/-- Results of CMP and of the immediate integer instructions: the claims CompareGivesOneOrZero and ImmediateIntegerResults.
-/
def Obligations.CompareAndImmediateResults : Prop :=
  Claim.CompareGivesOneOrZero ∧ Claim.ImmediateIntegerResults

/-- What RECV, RECVO, RECVK and JOIN take from their ports and deliver: the claims ReceiveTakesTheHeads and
JoinFollowsItsTable. -/
def Obligations.ReceivesAndJoins : Prop :=
  Claim.ReceiveTakesTheHeads ∧ Claim.JoinFollowsItsTable

/-- The precise capability, alignment and local-range faults of memory instructions: the claims CapabilityFaultsArePrecise
and LocalAddressFaultsArePrecise. -/
def Obligations.AddressFaultsArePrecise : Prop :=
  Claim.CapabilityFaultsArePrecise ∧ Claim.LocalAddressFaultsArePrecise

/-- Device loads make their access at issue and device stores join the commit: the claims DeviceLoadsMakeTheirAccess and
DeviceStoresJoinTheCommit. -/
def Obligations.DeviceAccessesAreMade : Prop :=
  Claim.DeviceLoadsMakeTheirAccess ∧ Claim.DeviceStoresJoinTheCommit

/-- Local loads read local memory at issue and local stores join the commit: the claims LocalLoadsReadLocalMemory and
LocalStoresJoinTheCommit. -/
def Obligations.LocalAccessesAreMade : Prop :=
  Claim.LocalLoadsReadLocalMemory ∧ Claim.LocalStoresJoinTheCommit

/-- CPYOPEN, CPYCLOSE, CPYWAIT, LMSTREAM, EPATOM and EPFENCE: the claims CopyCommandsOpenCloseAndWait and
StreamAndEndpointCommands. -/
def Obligations.CopyAndStreamCommands : Prop :=
  Claim.CopyCommandsOpenCloseAndWait ∧ Claim.StreamAndEndpointCommands

/-- Floating-point arithmetic, minimum, comparison, class and sign in every lane: the claims FloatArithmeticLaneByLane and
FloatComparesAndSigns. -/
def Obligations.FloatArithmeticAndCompares : Prop :=
  Claim.FloatArithmeticLaneByLane ∧ Claim.FloatComparesAndSigns

/-- Conversions: lanes, integer ranges and NaNs: the claims ConversionsMoveTheirLanes and IntegerConversionsSaturate. -/
def Obligations.ConversionsFollowTheirRules : Prop :=
  Claim.ConversionsMoveTheirLanes ∧ Claim.IntegerConversionsSaturate

/-- The lattice instructions: their checks, their operations at the commit and their values: the claims
LatticeCommandsJoinTheCommit and LatticeValuesAreDelivered. -/
def Obligations.LatticeCommandsAndValues : Prop :=
  Claim.LatticeCommandsJoinTheCommit ∧ Claim.LatticeValuesAreDelivered

/-- TIME and FRONT: the claims TimeInstructionsFollowTheirTable and FrontiersAreReadAndWaitedFor. -/
def Obligations.TimesAndFrontiers : Prop :=
  Claim.TimeInstructionsFollowTheirTable ∧ Claim.FrontiersAreReadAndWaitedFor

/-- CALLQ and the system instructions: effects, privilege and operand checks: the claims CallRecordsAreChecked,
SystemInstructionsActAsDescribed and PrivilegeAndOperandsOfSystemCommands. -/
def Obligations.SystemCommandsActAsDescribed : Prop :=
  Claim.CallRecordsAreChecked ∧ Claim.SystemInstructionsActAsDescribed ∧ Claim.PrivilegeAndOperandsOfSystemCommands

/-- The section instructions: what each demands, what joins the commit, what waits and what is delivered: the claims
SectionCommandsFollowTheStates and SectionCommandsWaitAndDeliver. -/
def Obligations.SectionCommandsFollowTheStates : Prop :=
  Claim.SectionCommandsFollowTheStates ∧ Claim.SectionCommandsWaitAndDeliver

/-- Fills of a line, their bytes, and the scrubber: the claims FillsAndScrubbing and FillBringsTheBytesOfMemory. -/
def Obligations.FillsBringMemoryAndScrub : Prop :=
  Claim.FillsAndScrubbing ∧ Claim.FillBringsTheBytesOfMemory

/-- Executive tables, maintenance commands, format windows and register writes: the claims ExecutiveTablesChangeAsWritten,
MaintenanceCommandsStartAndEnd and WindowsAndRegisterWrites. -/
def Obligations.ExecutiveChangesTakeEffect : Prop :=
  Claim.ExecutiveTablesChangeAsWritten ∧ Claim.MaintenanceCommandsStartAndEnd ∧ Claim.WindowsAndRegisterWrites

/-- SOFTERR and CIRCUIT_UNCORR complete, and deferred registers are filled or fail: the claims
UncorrectableErrorsContainTheirNode and DeferredWritesAreFilledOrFail. -/
def Obligations.ErrorsAreReported : Prop :=
  Claim.UncorrectableErrorsContainTheirNode ∧ Claim.DeferredWritesAreFilledOrFail

/-- Tokens advance on their circuits and join the queue of their port: the claims TokensAdvanceOnTheirCircuits and
ArrivalsJoinTheQueue. -/
def Obligations.TokensAdvanceAndArrive : Prop :=
  Claim.TokensAdvanceOnTheirCircuits ∧ Claim.ArrivalsJoinTheQueue

/-- Copy engines, local pages, granule waiters and streams: the claims CopyEnginesMoveTiles and
LocalPagesWaitersAndStreams. -/
def Obligations.CopyEnginesAndLocalPages : Prop :=
  Claim.CopyEnginesMoveTiles ∧ Claim.LocalPagesWaitersAndStreams

/-- Configurations arrive and switch; batches launch and streaming threads run: the claims ConfigurationsArriveAndSwitch
and BatchesLaunchAndThreadsStream. -/
def Obligations.ConfigurationsAndBatches : Prop :=
  Claim.ConfigurationsArriveAndSwitch ∧ Claim.BatchesLaunchAndThreadsStream

/-- Lattice writes wake bricks, and shifted sites take boundary values: the claims LatticeWritesWakeBricks and
ShiftTakesBoundaryValues. -/
def Obligations.LatticeSitesAndBoundaries : Prop :=
  Claim.LatticeWritesWakeBricks ∧ Claim.ShiftTakesBoundaryValues

/-- Coprocessor units take and return calls, and triangles cover by edge functions: the claims
CoprocessorUnitsTakeAndReturnCalls and TrianglesCoverByEdgeFunctions. -/
def Obligations.CoprocessorsAndCoverage : Prop :=
  Claim.CoprocessorUnitsTakeAndReturnCalls ∧ Claim.TrianglesCoverByEdgeFunctions

/-- Kernel-graph entries run, and bids are ranked and placed: the claims KernelGraphEntriesRun and BidsAreRankedAndPlaced.
-/
def Obligations.KernelGraphAndBids : Prop :=
  Claim.KernelGraphEntriesRun ∧ Claim.BidsAreRankedAndPlaced

/-- Handlers, watchdogs, page answers, and regions drained, saved and restored: the claims HandlersAndWatchdogsAct,
RegionsAreDrainedSavedAndRestored and PageAnswersReachTheirWaiters. -/
def Obligations.FaultsAreHandledAndRegionsMoved : Prop :=
  Claim.HandlersAndWatchdogsAct ∧ Claim.RegionsAreDrainedSavedAndRestored ∧ Claim.PageAnswersReachTheirWaiters

/-- The module boots, the commands of a host are answered and remote accesses end: the claims ModuleBootsAndIsPowered,
HostCommandsAreAnswered and RemoteAccessesAndTransfersEnd. -/
def Obligations.HostAndModule : Prop :=
  Claim.ModuleBootsAndIsPowered ∧ Claim.HostCommandsAreAnswered ∧ Claim.RemoteAccessesAndTransfersEnd
end

