-- ==== Sys2Proof/Laws/Issue.lean ====
section
/-! SUPPORT. Issue laws: what the shared operations of Machine/Ops.lean do, once for each: an instruction that is ready, that
skips or that waits; kinds; deliveries; retiring; and taking a precise fault. -/

namespace Sys2Proof.Machine

/-! ## Readiness (09 R138, R144) -/

/-- An instruction that is ready belongs to a live block that still runs, its slot is open, its predicate matches, and its
operands have all arrived. -/
theorem Frame.ready_some {f : Frame} {p : Pm} {n : Nat} {vs : List Value} (h : f.ready p n = some vs) :
    f.live = true ∧ f.phase = .running ∧ f.slot.open_ = true ∧ f.slot.predicate p = some true ∧
      f.slot.operands n = some vs := by
  unfold Frame.ready at h
  split at h
  · rename_i c
    simp only [Bool.and_eq_true, beq_iff_eq] at c
    exact ⟨c.1.1.1, c.1.1.2, c.1.2, c.2, h⟩
  · exact absurd h (by simp)

/-- An instruction without operands is ready with none. -/
theorem Frame.ready_zero {f : Frame} {p : Pm} {vs : List Value} (h : f.ready p 0 = some vs) : vs = [] := by
  have := (Frame.ready_some h).2.2.2.2
  simpa [Slot.operands] using this.symm

/-- One operand. -/
theorem Frame.ready_one {f : Frame} {p : Pm} {vs : List Value} (h : f.ready p 1 = some vs) :
    ∃ a, f.slot.op0 = some a ∧ vs = [a] := by
  have := (Frame.ready_some h).2.2.2.2
  simp only [Slot.operands, Option.map_eq_some_iff] at this
  obtain ⟨a, ha, rfl⟩ := this
  exact ⟨a, ha, rfl⟩

/-- Two operands. -/
theorem Frame.ready_two {f : Frame} {p : Pm} {vs : List Value} (h : f.ready p 2 = some vs) :
    ∃ a b, f.slot.op0 = some a ∧ f.slot.op1 = some b ∧ vs = [a, b] := by
  have := (Frame.ready_some h).2.2.2.2
  simp only [Slot.operands] at this
  split at this
  · rename_i a b ha hb
    exact ⟨a, b, ha, hb, by simpa using this.symm⟩
  · exact absurd this (by simp)

/-! ## Issuing -/

/-- A ready instruction issues. -/
theorem issueAny_ready {p : Pm} {n : Nat} {s : State} {vs : List Value} (h : s.cur.ready p n = some vs)
    (k : List Value → Res) : issueAny p n s k = .next ((k vs).settle s) := by
  simp [issueAny, h]

/-- An instruction that is not ready and does not skip leaves the state as it is. -/
theorem issueAny_idle {p : Pm} {n : Nat} {s : State} (h : s.cur.ready p n = none) (q : s.cur.skips p = false)
    (k : List Value → Res) : issueAny p n s k = .next s := by
  simp [issueAny, h, q]

/-- An instruction whose predicate has arrived without matching is skipped, and has no other effect (09 R138). -/
theorem issueAny_skips {p : Pm} {n : Nat} {s : State} (h : s.cur.ready p n = none) (q : s.cur.skips p = true)
    (k : List Value → Res) : issueAny p n s k = .next (s.onCur (·.mark .skipped)) := by
  simp [issueAny, h, q]

/-- A ready instruction whose operands are all DATA answers by its own rule. -/
theorem issue_data {p : Pm} {n : Nat} {ts : List Tgt} {s : State} {vs : List Value} (h : s.cur.ready p n = some vs)
    (d : nonData vs = none) (k : List Value → Res) : issue p n ts s k = .next ((k vs).settle s) := by
  simp [issue, issueAny_ready h, d]

/-- A ready instruction with an operand that is not DATA passes the kind of highest precedence on, and does nothing else
(09 R145). -/
theorem issue_kind {p : Pm} {n : Nat} {ts : List Tgt} {s : State} {vs : List Value} {kd : Kind}
    (h : s.cur.ready p n = some vs) (d : nonData vs = some kd) (k : List Value → Res) :
    issue p n ts s k = .next (s.retire (toEach ts (.ofKind kd))) := by
  simp [issue, issueAny_ready h, d, Res.settle]

/-- Values that are all DATA have no kind to pass on. -/
theorem nonData_of_isData {vs : List Value} (h : ∀ v ∈ vs, v.isData = true) : nonData vs = none := by
  have k : ∀ v ∈ vs, v.kind = .data := by simpa [Value.isData] using h
  simp only [nonData, kindOrder, List.find?_eq_none]
  intro x hx
  simp only [Bool.not_eq_true, List.any_eq_false, beq_iff_eq]
  intro v hv e
  rw [k v hv] at e
  subst e
  simp at hx

/-- No operand has no kind to pass on. -/
@[simp] theorem nonData_nil : nonData [] = none := rfl

/-- One DATA operand. -/
theorem nonData_one {a : Value} (h : a.isData = true) : nonData [a] = none := nonData_of_isData (by simpa using h)

/-- Two DATA operands. -/
theorem nonData_two {a b : Value} (ha : a.isData = true) (hb : b.isData = true) : nonData [a, b] = none :=
  nonData_of_isData (by simp [ha, hb])

/-- Three DATA operands. -/
theorem nonData_three {a b c : Value} (ha : a.isData = true) (hb : b.isData = true) (hc : c.isData = true) :
    nonData [a, b, c] = none := nonData_of_isData (by simp [ha, hb, hc])

/-- One 64-bit result of one operand. -/
theorem issue1_data {p : Pm} {ts : List Tgt} {s : State} {a : Value} (h : s.cur.ready p 1 = some [a])
    (d : a.isData = true) (g : W64 → W64) : issue1 p ts s g = .next (s.retire (toEach ts (.data (g a.lo)))) := by
  simp [issue1, issue_data h (nonData_one d), Res.settle]

/-- One 64-bit result of two operands. -/
theorem issue2_data {p : Pm} {ts : List Tgt} {s : State} {a b : Value} (h : s.cur.ready p 2 = some [a, b])
    (da : a.isData = true) (db : b.isData = true) (g : W64 → W64 → W64) :
    issue2 p ts s g = .next (s.retire (toEach ts (.data (g a.lo b.lo)))) := by
  simp [issue2, issue_data h (nonData_two da db), Res.settle]

/-- One 64-bit result of three operands. -/
theorem issue3_data {p : Pm} {ts : List Tgt} {s : State} {a b c : Value} (h : s.cur.ready p 3 = some [a, b, c])
    (da : a.isData = true) (db : b.isData = true) (dc : c.isData = true) (g : W64 → W64 → W64 → W64) :
    issue3 p ts s g = .next (s.retire (toEach ts (.data (g a.lo b.lo c.lo)))) := by
  simp [issue3, issue_data h (nonData_three da db dc), Res.settle]

/-! ## Retiring (09 R144, R147) -/

/-- Deliveries that are all taken: the slot has issued, and nothing but the block has changed. -/
theorem State.retire_ok {s : State} {out : List (Tgt × Value)} {f : Frame} (h : s.cur.deliverAll out = .ok f) :
    s.retire out = { s with cur := f.mark .issued } := by
  simp [State.retire, h]

/-- A delivery that faults: the fault is precise. -/
theorem State.retire_trap {s : State} {out : List (Tgt × Value)} {t : Trap} (h : s.cur.deliverAll out = .error t) :
    s.retire out = s.raisePrecise t := by
  simp [State.retire, h]

/-- Nothing is delivered. -/
@[simp] theorem State.retire_nil (s : State) : s.retire [] = { s with cur := s.cur.mark .issued } := rfl

/-- A delivery to no target changes nothing. -/
@[simp] theorem Frame.deliver_none (f : Frame) (v : Value) : f.deliver .none v = .ok f := rfl

/-- Deliveries in order: the first, then the rest. -/
theorem Frame.deliverAll_cons {f g : Frame} {t : Tgt} {v : Value} {ds : List (Tgt × Value)} (h : f.deliver t v = .ok g) :
    f.deliverAll ((t, v) :: ds) = g.deliverAll ds := by
  simp [Frame.deliverAll, h]

/-- What a delivery to a register does: the effect joins the commit, and the outputs are counted. -/
theorem Frame.toReg_ok {f g : Frame} {i : Nat} {a : Act} (h : f.toReg i a = .ok g) :
    f.regTaken i = false ∧ f.outs < f.nout ∧ g = { f with outs := f.outs + 1 }.act a := by
  unfold Frame.toReg at h
  split at h
  · exact absurd h (by simp)
  · rename_i nt
    unfold Frame.countOut at h
    split at h
    · rename_i lt
      simp only [Except.map, Except.ok.injEq] at h
      exact ⟨by simpa using nt, lt, h.symm⟩
    · exact absurd h (by simp [Except.map])

/-- A delivery beyond NOUT is OUTCOUNT (09 R147). -/
theorem Frame.countOut_full {f : Frame} (h : f.nout ≤ f.outs) : f.countOut = .error (trap .outcount) := by
  simp [Frame.countOut, Nat.not_lt.mpr h]

/-! ## The updates of a block -/

@[simp] theorem Frame.act_acts (f : Frame) (a : Act) : (f.act a).acts = f.acts ++ [(f.turn, a)] := rfl
@[simp] theorem Frame.act_slots (f : Frame) (a : Act) : (f.act a).slots = f.slots := rfl
@[simp] theorem Frame.act_outs (f : Frame) (a : Act) : (f.act a).outs = f.outs := rfl
@[simp] theorem Frame.act_turn (f : Frame) (a : Act) : (f.act a).turn = f.turn := rfl
@[simp] theorem Frame.act_agent (f : Frame) (a : Act) : (f.act a).agent = f.agent := rfl
@[simp] theorem Frame.mark_acts (f : Frame) (p : Phase) : (f.mark p).acts = f.acts := rfl
@[simp] theorem Frame.mark_outs (f : Frame) (p : Phase) : (f.mark p).outs = f.outs := rfl
@[simp] theorem Frame.mark_turn (f : Frame) (p : Phase) : (f.mark p).turn = f.turn := rfl
@[simp] theorem Frame.mark_agent (f : Frame) (p : Phase) : (f.mark p).agent = f.agent := rfl
@[simp] theorem Frame.mark_live (f : Frame) (p : Phase) : (f.mark p).live = f.live := rfl
@[simp] theorem Frame.mark_flags (f : Frame) (p : Phase) : (f.mark p).flags = f.flags := rfl
@[simp] theorem Frame.flag_flags (f : Frame) (fl : Flags) : (f.flag fl).flags = f.flags ++ [(f.turn, fl)] := rfl
@[simp] theorem Frame.flag_acts (f : Frame) (fl : Flags) : (f.flag fl).acts = f.acts := rfl

end Sys2Proof.Machine
end

