-- ==== Sys2Proof/Laws/State.lean ====
section
/-! SUPPORT. State laws: what each update of the state leaves as it was, field by field, and what it reads back. -/

namespace Sys2Proof.Machine

/-! ## State.onPe changes `pes` alone -/

@[simp] theorem State.onPe_cur (s : State) (i : Nat) (g : Pe → Pe) : (s.onPe i g).cur = s.cur := rfl
@[simp] theorem State.onPe_parked (s : State) (i : Nat) (g : Pe → Pe) : (s.onPe i g).parked = s.parked := rfl
@[simp] theorem State.onPe_agenda (s : State) (i : Nat) (g : Pe → Pe) : (s.onPe i g).agenda = s.agenda := rfl
@[simp] theorem State.onPe_freeCount (s : State) (i : Nat) (g : Pe → Pe) : (s.onPe i g).freeCount = s.freeCount := rfl
@[simp] theorem State.onPe_tlbKeep (s : State) (i : Nat) (g : Pe → Pe) : (s.onPe i g).tlbKeep = s.tlbKeep := rfl
@[simp] theorem State.onPe_cycle (s : State) (i : Nat) (g : Pe → Pe) : (s.onPe i g).cycle = s.cycle := rfl
@[simp] theorem State.onPe_mem (s : State) (i : Nat) (g : Pe → Pe) : (s.onPe i g).mem = s.mem := rfl
@[simp] theorem State.onPe_poison (s : State) (i : Nat) (g : Pe → Pe) : (s.onPe i g).poison = s.poison := rfl
@[simp] theorem State.onPe_hbmErr (s : State) (i : Nat) (g : Pe → Pe) : (s.onPe i g).hbmErr = s.hbmErr := rfl
@[simp] theorem State.onPe_signals (s : State) (i : Nat) (g : Pe → Pe) : (s.onPe i g).signals = s.signals := rfl
@[simp] theorem State.onPe_owner (s : State) (i : Nat) (g : Pe → Pe) : (s.onPe i g).owner = s.owner := rfl
@[simp] theorem State.onPe_art (s : State) (i : Nat) (g : Pe → Pe) : (s.onPe i g).art = s.art := rfl
@[simp] theorem State.onPe_windows (s : State) (i : Nat) (g : Pe → Pe) : (s.onPe i g).windows = s.windows := rfl
@[simp] theorem State.onPe_maint (s : State) (i : Nat) (g : Pe → Pe) : (s.onPe i g).maint = s.maint := rfl
@[simp] theorem State.onPe_slices (s : State) (i : Nat) (g : Pe → Pe) : (s.onPe i g).slices = s.slices := rfl
@[simp] theorem State.onPe_packets (s : State) (i : Nat) (g : Pe → Pe) : (s.onPe i g).packets = s.packets := rfl
@[simp] theorem State.onPe_nextId (s : State) (i : Nat) (g : Pe → Pe) : (s.onPe i g).nextId = s.nextId := rfl
@[simp] theorem State.onPe_tails (s : State) (i : Nat) (g : Pe → Pe) : (s.onPe i g).tails = s.tails := rfl
@[simp] theorem State.onPe_tlb (s : State) (i : Nat) (g : Pe → Pe) : (s.onPe i g).tlb = s.tlb := rfl
@[simp] theorem State.onPe_withheld (s : State) (i : Nat) (g : Pe → Pe) : (s.onPe i g).withheld = s.withheld := rfl
@[simp] theorem State.onPe_ags (s : State) (i : Nat) (g : Pe → Pe) : (s.onPe i g).ags = s.ags := rfl
@[simp] theorem State.onPe_regions (s : State) (i : Nat) (g : Pe → Pe) : (s.onPe i g).regions = s.regions := rfl
@[simp] theorem State.onPe_bays (s : State) (i : Nat) (g : Pe → Pe) : (s.onPe i g).bays = s.bays := rfl
@[simp] theorem State.onPe_dies (s : State) (i : Nat) (g : Pe → Pe) : (s.onPe i g).dies = s.dies := rfl
@[simp] theorem State.onPe_jobs (s : State) (i : Nat) (g : Pe → Pe) : (s.onPe i g).jobs = s.jobs := rfl
@[simp] theorem State.onPe_bids (s : State) (i : Nat) (g : Pe → Pe) : (s.onPe i g).bids = s.bids := rfl
@[simp] theorem State.onPe_wsAge (s : State) (i : Nat) (g : Pe → Pe) : (s.onPe i g).wsAge = s.wsAge := rfl
@[simp] theorem State.onPe_bindings (s : State) (i : Nat) (g : Pe → Pe) : (s.onPe i g).bindings = s.bindings := rfl
@[simp] theorem State.onPe_saves (s : State) (i : Nat) (g : Pe → Pe) : (s.onPe i g).saves = s.saves := rfl
@[simp] theorem State.onPe_saveAddr (s : State) (i : Nat) (g : Pe → Pe) : (s.onPe i g).saveAddr = s.saveAddr := rfl
@[simp] theorem State.onPe_saveKey (s : State) (i : Nat) (g : Pe → Pe) : (s.onPe i g).saveKey = s.saveKey := rfl
@[simp] theorem State.onPe_transfers (s : State) (i : Nat) (g : Pe → Pe) : (s.onPe i g).transfers = s.transfers := rfl
@[simp] theorem State.onPe_conns (s : State) (i : Nat) (g : Pe → Pe) : (s.onPe i g).conns = s.conns := rfl
@[simp] theorem State.onPe_images (s : State) (i : Nat) (g : Pe → Pe) : (s.onPe i g).images = s.images := rfl
@[simp] theorem State.onPe_messages (s : State) (i : Nat) (g : Pe → Pe) : (s.onPe i g).messages = s.messages := rfl
@[simp] theorem State.onPe_eventSeq (s : State) (i : Nat) (g : Pe → Pe) : (s.onPe i g).eventSeq = s.eventSeq := rfl
@[simp] theorem State.onPe_boot (s : State) (i : Nat) (g : Pe → Pe) : (s.onPe i g).boot = s.boot := rfl
@[simp] theorem State.onPe_hosts (s : State) (i : Nat) (g : Pe → Pe) : (s.onPe i g).hosts = s.hosts := rfl
@[simp] theorem State.onPe_refresh (s : State) (i : Nat) (g : Pe → Pe) : (s.onPe i g).refresh = s.refresh := rfl
@[simp] theorem State.onPe_fabricOff (s : State) (i : Nat) (g : Pe → Pe) : (s.onPe i g).fabricOff = s.fabricOff := rfl

/-! ## State.onRegion changes `regions` alone -/

@[simp] theorem State.onRegion_cur (s : State) (i : Nat) (g : Region → Region) : (s.onRegion i g).cur = s.cur := rfl
@[simp] theorem State.onRegion_parked (s : State) (i : Nat) (g : Region → Region) : (s.onRegion i g).parked = s.parked := rfl
@[simp] theorem State.onRegion_agenda (s : State) (i : Nat) (g : Region → Region) : (s.onRegion i g).agenda = s.agenda := rfl
@[simp] theorem State.onRegion_freeCount (s : State) (i : Nat) (g : Region → Region) : (s.onRegion i g).freeCount = s.freeCount := rfl
@[simp] theorem State.onRegion_tlbKeep (s : State) (i : Nat) (g : Region → Region) : (s.onRegion i g).tlbKeep = s.tlbKeep := rfl
@[simp] theorem State.onRegion_cycle (s : State) (i : Nat) (g : Region → Region) : (s.onRegion i g).cycle = s.cycle := rfl
@[simp] theorem State.onRegion_mem (s : State) (i : Nat) (g : Region → Region) : (s.onRegion i g).mem = s.mem := rfl
@[simp] theorem State.onRegion_poison (s : State) (i : Nat) (g : Region → Region) : (s.onRegion i g).poison = s.poison := rfl
@[simp] theorem State.onRegion_hbmErr (s : State) (i : Nat) (g : Region → Region) : (s.onRegion i g).hbmErr = s.hbmErr := rfl
@[simp] theorem State.onRegion_signals (s : State) (i : Nat) (g : Region → Region) : (s.onRegion i g).signals = s.signals := rfl
@[simp] theorem State.onRegion_owner (s : State) (i : Nat) (g : Region → Region) : (s.onRegion i g).owner = s.owner := rfl
@[simp] theorem State.onRegion_art (s : State) (i : Nat) (g : Region → Region) : (s.onRegion i g).art = s.art := rfl
@[simp] theorem State.onRegion_windows (s : State) (i : Nat) (g : Region → Region) : (s.onRegion i g).windows = s.windows := rfl
@[simp] theorem State.onRegion_maint (s : State) (i : Nat) (g : Region → Region) : (s.onRegion i g).maint = s.maint := rfl
@[simp] theorem State.onRegion_slices (s : State) (i : Nat) (g : Region → Region) : (s.onRegion i g).slices = s.slices := rfl
@[simp] theorem State.onRegion_packets (s : State) (i : Nat) (g : Region → Region) : (s.onRegion i g).packets = s.packets := rfl
@[simp] theorem State.onRegion_nextId (s : State) (i : Nat) (g : Region → Region) : (s.onRegion i g).nextId = s.nextId := rfl
@[simp] theorem State.onRegion_tails (s : State) (i : Nat) (g : Region → Region) : (s.onRegion i g).tails = s.tails := rfl
@[simp] theorem State.onRegion_tlb (s : State) (i : Nat) (g : Region → Region) : (s.onRegion i g).tlb = s.tlb := rfl
@[simp] theorem State.onRegion_withheld (s : State) (i : Nat) (g : Region → Region) : (s.onRegion i g).withheld = s.withheld := rfl
@[simp] theorem State.onRegion_pes (s : State) (i : Nat) (g : Region → Region) : (s.onRegion i g).pes = s.pes := rfl
@[simp] theorem State.onRegion_ags (s : State) (i : Nat) (g : Region → Region) : (s.onRegion i g).ags = s.ags := rfl
@[simp] theorem State.onRegion_bays (s : State) (i : Nat) (g : Region → Region) : (s.onRegion i g).bays = s.bays := rfl
@[simp] theorem State.onRegion_dies (s : State) (i : Nat) (g : Region → Region) : (s.onRegion i g).dies = s.dies := rfl
@[simp] theorem State.onRegion_jobs (s : State) (i : Nat) (g : Region → Region) : (s.onRegion i g).jobs = s.jobs := rfl
@[simp] theorem State.onRegion_bids (s : State) (i : Nat) (g : Region → Region) : (s.onRegion i g).bids = s.bids := rfl
@[simp] theorem State.onRegion_wsAge (s : State) (i : Nat) (g : Region → Region) : (s.onRegion i g).wsAge = s.wsAge := rfl
@[simp] theorem State.onRegion_bindings (s : State) (i : Nat) (g : Region → Region) : (s.onRegion i g).bindings = s.bindings := rfl
@[simp] theorem State.onRegion_saves (s : State) (i : Nat) (g : Region → Region) : (s.onRegion i g).saves = s.saves := rfl
@[simp] theorem State.onRegion_saveAddr (s : State) (i : Nat) (g : Region → Region) : (s.onRegion i g).saveAddr = s.saveAddr := rfl
@[simp] theorem State.onRegion_saveKey (s : State) (i : Nat) (g : Region → Region) : (s.onRegion i g).saveKey = s.saveKey := rfl
@[simp] theorem State.onRegion_transfers (s : State) (i : Nat) (g : Region → Region) : (s.onRegion i g).transfers = s.transfers := rfl
@[simp] theorem State.onRegion_conns (s : State) (i : Nat) (g : Region → Region) : (s.onRegion i g).conns = s.conns := rfl
@[simp] theorem State.onRegion_images (s : State) (i : Nat) (g : Region → Region) : (s.onRegion i g).images = s.images := rfl
@[simp] theorem State.onRegion_messages (s : State) (i : Nat) (g : Region → Region) : (s.onRegion i g).messages = s.messages := rfl
@[simp] theorem State.onRegion_eventSeq (s : State) (i : Nat) (g : Region → Region) : (s.onRegion i g).eventSeq = s.eventSeq := rfl
@[simp] theorem State.onRegion_boot (s : State) (i : Nat) (g : Region → Region) : (s.onRegion i g).boot = s.boot := rfl
@[simp] theorem State.onRegion_hosts (s : State) (i : Nat) (g : Region → Region) : (s.onRegion i g).hosts = s.hosts := rfl
@[simp] theorem State.onRegion_refresh (s : State) (i : Nat) (g : Region → Region) : (s.onRegion i g).refresh = s.refresh := rfl
@[simp] theorem State.onRegion_fabricOff (s : State) (i : Nat) (g : Region → Region) : (s.onRegion i g).fabricOff = s.fabricOff := rfl

/-! ## State.onJob changes `jobs` alone -/

@[simp] theorem State.onJob_cur (s : State) (i : Nat) (g : Job → Job) : (s.onJob i g).cur = s.cur := rfl
@[simp] theorem State.onJob_parked (s : State) (i : Nat) (g : Job → Job) : (s.onJob i g).parked = s.parked := rfl
@[simp] theorem State.onJob_agenda (s : State) (i : Nat) (g : Job → Job) : (s.onJob i g).agenda = s.agenda := rfl
@[simp] theorem State.onJob_freeCount (s : State) (i : Nat) (g : Job → Job) : (s.onJob i g).freeCount = s.freeCount := rfl
@[simp] theorem State.onJob_tlbKeep (s : State) (i : Nat) (g : Job → Job) : (s.onJob i g).tlbKeep = s.tlbKeep := rfl
@[simp] theorem State.onJob_cycle (s : State) (i : Nat) (g : Job → Job) : (s.onJob i g).cycle = s.cycle := rfl
@[simp] theorem State.onJob_mem (s : State) (i : Nat) (g : Job → Job) : (s.onJob i g).mem = s.mem := rfl
@[simp] theorem State.onJob_poison (s : State) (i : Nat) (g : Job → Job) : (s.onJob i g).poison = s.poison := rfl
@[simp] theorem State.onJob_hbmErr (s : State) (i : Nat) (g : Job → Job) : (s.onJob i g).hbmErr = s.hbmErr := rfl
@[simp] theorem State.onJob_signals (s : State) (i : Nat) (g : Job → Job) : (s.onJob i g).signals = s.signals := rfl
@[simp] theorem State.onJob_owner (s : State) (i : Nat) (g : Job → Job) : (s.onJob i g).owner = s.owner := rfl
@[simp] theorem State.onJob_art (s : State) (i : Nat) (g : Job → Job) : (s.onJob i g).art = s.art := rfl
@[simp] theorem State.onJob_windows (s : State) (i : Nat) (g : Job → Job) : (s.onJob i g).windows = s.windows := rfl
@[simp] theorem State.onJob_maint (s : State) (i : Nat) (g : Job → Job) : (s.onJob i g).maint = s.maint := rfl
@[simp] theorem State.onJob_slices (s : State) (i : Nat) (g : Job → Job) : (s.onJob i g).slices = s.slices := rfl
@[simp] theorem State.onJob_packets (s : State) (i : Nat) (g : Job → Job) : (s.onJob i g).packets = s.packets := rfl
@[simp] theorem State.onJob_nextId (s : State) (i : Nat) (g : Job → Job) : (s.onJob i g).nextId = s.nextId := rfl
@[simp] theorem State.onJob_tails (s : State) (i : Nat) (g : Job → Job) : (s.onJob i g).tails = s.tails := rfl
@[simp] theorem State.onJob_tlb (s : State) (i : Nat) (g : Job → Job) : (s.onJob i g).tlb = s.tlb := rfl
@[simp] theorem State.onJob_withheld (s : State) (i : Nat) (g : Job → Job) : (s.onJob i g).withheld = s.withheld := rfl
@[simp] theorem State.onJob_pes (s : State) (i : Nat) (g : Job → Job) : (s.onJob i g).pes = s.pes := rfl
@[simp] theorem State.onJob_ags (s : State) (i : Nat) (g : Job → Job) : (s.onJob i g).ags = s.ags := rfl
@[simp] theorem State.onJob_regions (s : State) (i : Nat) (g : Job → Job) : (s.onJob i g).regions = s.regions := rfl
@[simp] theorem State.onJob_bays (s : State) (i : Nat) (g : Job → Job) : (s.onJob i g).bays = s.bays := rfl
@[simp] theorem State.onJob_dies (s : State) (i : Nat) (g : Job → Job) : (s.onJob i g).dies = s.dies := rfl
@[simp] theorem State.onJob_bids (s : State) (i : Nat) (g : Job → Job) : (s.onJob i g).bids = s.bids := rfl
@[simp] theorem State.onJob_wsAge (s : State) (i : Nat) (g : Job → Job) : (s.onJob i g).wsAge = s.wsAge := rfl
@[simp] theorem State.onJob_bindings (s : State) (i : Nat) (g : Job → Job) : (s.onJob i g).bindings = s.bindings := rfl
@[simp] theorem State.onJob_saves (s : State) (i : Nat) (g : Job → Job) : (s.onJob i g).saves = s.saves := rfl
@[simp] theorem State.onJob_saveAddr (s : State) (i : Nat) (g : Job → Job) : (s.onJob i g).saveAddr = s.saveAddr := rfl
@[simp] theorem State.onJob_saveKey (s : State) (i : Nat) (g : Job → Job) : (s.onJob i g).saveKey = s.saveKey := rfl
@[simp] theorem State.onJob_transfers (s : State) (i : Nat) (g : Job → Job) : (s.onJob i g).transfers = s.transfers := rfl
@[simp] theorem State.onJob_conns (s : State) (i : Nat) (g : Job → Job) : (s.onJob i g).conns = s.conns := rfl
@[simp] theorem State.onJob_images (s : State) (i : Nat) (g : Job → Job) : (s.onJob i g).images = s.images := rfl
@[simp] theorem State.onJob_messages (s : State) (i : Nat) (g : Job → Job) : (s.onJob i g).messages = s.messages := rfl
@[simp] theorem State.onJob_eventSeq (s : State) (i : Nat) (g : Job → Job) : (s.onJob i g).eventSeq = s.eventSeq := rfl
@[simp] theorem State.onJob_boot (s : State) (i : Nat) (g : Job → Job) : (s.onJob i g).boot = s.boot := rfl
@[simp] theorem State.onJob_hosts (s : State) (i : Nat) (g : Job → Job) : (s.onJob i g).hosts = s.hosts := rfl
@[simp] theorem State.onJob_refresh (s : State) (i : Nat) (g : Job → Job) : (s.onJob i g).refresh = s.refresh := rfl
@[simp] theorem State.onJob_fabricOff (s : State) (i : Nat) (g : Job → Job) : (s.onJob i g).fabricOff = s.fabricOff := rfl

/-! ## State.onBay changes `bays` alone -/

@[simp] theorem State.onBay_cur (s : State) (i : Nat) (g : Bay → Bay) : (s.onBay i g).cur = s.cur := rfl
@[simp] theorem State.onBay_parked (s : State) (i : Nat) (g : Bay → Bay) : (s.onBay i g).parked = s.parked := rfl
@[simp] theorem State.onBay_agenda (s : State) (i : Nat) (g : Bay → Bay) : (s.onBay i g).agenda = s.agenda := rfl
@[simp] theorem State.onBay_freeCount (s : State) (i : Nat) (g : Bay → Bay) : (s.onBay i g).freeCount = s.freeCount := rfl
@[simp] theorem State.onBay_tlbKeep (s : State) (i : Nat) (g : Bay → Bay) : (s.onBay i g).tlbKeep = s.tlbKeep := rfl
@[simp] theorem State.onBay_cycle (s : State) (i : Nat) (g : Bay → Bay) : (s.onBay i g).cycle = s.cycle := rfl
@[simp] theorem State.onBay_mem (s : State) (i : Nat) (g : Bay → Bay) : (s.onBay i g).mem = s.mem := rfl
@[simp] theorem State.onBay_poison (s : State) (i : Nat) (g : Bay → Bay) : (s.onBay i g).poison = s.poison := rfl
@[simp] theorem State.onBay_hbmErr (s : State) (i : Nat) (g : Bay → Bay) : (s.onBay i g).hbmErr = s.hbmErr := rfl
@[simp] theorem State.onBay_signals (s : State) (i : Nat) (g : Bay → Bay) : (s.onBay i g).signals = s.signals := rfl
@[simp] theorem State.onBay_owner (s : State) (i : Nat) (g : Bay → Bay) : (s.onBay i g).owner = s.owner := rfl
@[simp] theorem State.onBay_art (s : State) (i : Nat) (g : Bay → Bay) : (s.onBay i g).art = s.art := rfl
@[simp] theorem State.onBay_windows (s : State) (i : Nat) (g : Bay → Bay) : (s.onBay i g).windows = s.windows := rfl
@[simp] theorem State.onBay_maint (s : State) (i : Nat) (g : Bay → Bay) : (s.onBay i g).maint = s.maint := rfl
@[simp] theorem State.onBay_slices (s : State) (i : Nat) (g : Bay → Bay) : (s.onBay i g).slices = s.slices := rfl
@[simp] theorem State.onBay_packets (s : State) (i : Nat) (g : Bay → Bay) : (s.onBay i g).packets = s.packets := rfl
@[simp] theorem State.onBay_nextId (s : State) (i : Nat) (g : Bay → Bay) : (s.onBay i g).nextId = s.nextId := rfl
@[simp] theorem State.onBay_tails (s : State) (i : Nat) (g : Bay → Bay) : (s.onBay i g).tails = s.tails := rfl
@[simp] theorem State.onBay_tlb (s : State) (i : Nat) (g : Bay → Bay) : (s.onBay i g).tlb = s.tlb := rfl
@[simp] theorem State.onBay_withheld (s : State) (i : Nat) (g : Bay → Bay) : (s.onBay i g).withheld = s.withheld := rfl
@[simp] theorem State.onBay_pes (s : State) (i : Nat) (g : Bay → Bay) : (s.onBay i g).pes = s.pes := rfl
@[simp] theorem State.onBay_ags (s : State) (i : Nat) (g : Bay → Bay) : (s.onBay i g).ags = s.ags := rfl
@[simp] theorem State.onBay_regions (s : State) (i : Nat) (g : Bay → Bay) : (s.onBay i g).regions = s.regions := rfl
@[simp] theorem State.onBay_dies (s : State) (i : Nat) (g : Bay → Bay) : (s.onBay i g).dies = s.dies := rfl
@[simp] theorem State.onBay_jobs (s : State) (i : Nat) (g : Bay → Bay) : (s.onBay i g).jobs = s.jobs := rfl
@[simp] theorem State.onBay_bids (s : State) (i : Nat) (g : Bay → Bay) : (s.onBay i g).bids = s.bids := rfl
@[simp] theorem State.onBay_wsAge (s : State) (i : Nat) (g : Bay → Bay) : (s.onBay i g).wsAge = s.wsAge := rfl
@[simp] theorem State.onBay_bindings (s : State) (i : Nat) (g : Bay → Bay) : (s.onBay i g).bindings = s.bindings := rfl
@[simp] theorem State.onBay_saves (s : State) (i : Nat) (g : Bay → Bay) : (s.onBay i g).saves = s.saves := rfl
@[simp] theorem State.onBay_saveAddr (s : State) (i : Nat) (g : Bay → Bay) : (s.onBay i g).saveAddr = s.saveAddr := rfl
@[simp] theorem State.onBay_saveKey (s : State) (i : Nat) (g : Bay → Bay) : (s.onBay i g).saveKey = s.saveKey := rfl
@[simp] theorem State.onBay_transfers (s : State) (i : Nat) (g : Bay → Bay) : (s.onBay i g).transfers = s.transfers := rfl
@[simp] theorem State.onBay_conns (s : State) (i : Nat) (g : Bay → Bay) : (s.onBay i g).conns = s.conns := rfl
@[simp] theorem State.onBay_images (s : State) (i : Nat) (g : Bay → Bay) : (s.onBay i g).images = s.images := rfl
@[simp] theorem State.onBay_messages (s : State) (i : Nat) (g : Bay → Bay) : (s.onBay i g).messages = s.messages := rfl
@[simp] theorem State.onBay_eventSeq (s : State) (i : Nat) (g : Bay → Bay) : (s.onBay i g).eventSeq = s.eventSeq := rfl
@[simp] theorem State.onBay_boot (s : State) (i : Nat) (g : Bay → Bay) : (s.onBay i g).boot = s.boot := rfl
@[simp] theorem State.onBay_hosts (s : State) (i : Nat) (g : Bay → Bay) : (s.onBay i g).hosts = s.hosts := rfl
@[simp] theorem State.onBay_refresh (s : State) (i : Nat) (g : Bay → Bay) : (s.onBay i g).refresh = s.refresh := rfl
@[simp] theorem State.onBay_fabricOff (s : State) (i : Nat) (g : Bay → Bay) : (s.onBay i g).fabricOff = s.fabricOff := rfl

/-! ## State.onDie changes `dies` alone -/

@[simp] theorem State.onDie_cur (s : State) (i : Nat) (g : Die → Die) : (s.onDie i g).cur = s.cur := rfl
@[simp] theorem State.onDie_parked (s : State) (i : Nat) (g : Die → Die) : (s.onDie i g).parked = s.parked := rfl
@[simp] theorem State.onDie_agenda (s : State) (i : Nat) (g : Die → Die) : (s.onDie i g).agenda = s.agenda := rfl
@[simp] theorem State.onDie_freeCount (s : State) (i : Nat) (g : Die → Die) : (s.onDie i g).freeCount = s.freeCount := rfl
@[simp] theorem State.onDie_tlbKeep (s : State) (i : Nat) (g : Die → Die) : (s.onDie i g).tlbKeep = s.tlbKeep := rfl
@[simp] theorem State.onDie_cycle (s : State) (i : Nat) (g : Die → Die) : (s.onDie i g).cycle = s.cycle := rfl
@[simp] theorem State.onDie_mem (s : State) (i : Nat) (g : Die → Die) : (s.onDie i g).mem = s.mem := rfl
@[simp] theorem State.onDie_poison (s : State) (i : Nat) (g : Die → Die) : (s.onDie i g).poison = s.poison := rfl
@[simp] theorem State.onDie_hbmErr (s : State) (i : Nat) (g : Die → Die) : (s.onDie i g).hbmErr = s.hbmErr := rfl
@[simp] theorem State.onDie_signals (s : State) (i : Nat) (g : Die → Die) : (s.onDie i g).signals = s.signals := rfl
@[simp] theorem State.onDie_owner (s : State) (i : Nat) (g : Die → Die) : (s.onDie i g).owner = s.owner := rfl
@[simp] theorem State.onDie_art (s : State) (i : Nat) (g : Die → Die) : (s.onDie i g).art = s.art := rfl
@[simp] theorem State.onDie_windows (s : State) (i : Nat) (g : Die → Die) : (s.onDie i g).windows = s.windows := rfl
@[simp] theorem State.onDie_maint (s : State) (i : Nat) (g : Die → Die) : (s.onDie i g).maint = s.maint := rfl
@[simp] theorem State.onDie_slices (s : State) (i : Nat) (g : Die → Die) : (s.onDie i g).slices = s.slices := rfl
@[simp] theorem State.onDie_packets (s : State) (i : Nat) (g : Die → Die) : (s.onDie i g).packets = s.packets := rfl
@[simp] theorem State.onDie_nextId (s : State) (i : Nat) (g : Die → Die) : (s.onDie i g).nextId = s.nextId := rfl
@[simp] theorem State.onDie_tails (s : State) (i : Nat) (g : Die → Die) : (s.onDie i g).tails = s.tails := rfl
@[simp] theorem State.onDie_tlb (s : State) (i : Nat) (g : Die → Die) : (s.onDie i g).tlb = s.tlb := rfl
@[simp] theorem State.onDie_withheld (s : State) (i : Nat) (g : Die → Die) : (s.onDie i g).withheld = s.withheld := rfl
@[simp] theorem State.onDie_pes (s : State) (i : Nat) (g : Die → Die) : (s.onDie i g).pes = s.pes := rfl
@[simp] theorem State.onDie_ags (s : State) (i : Nat) (g : Die → Die) : (s.onDie i g).ags = s.ags := rfl
@[simp] theorem State.onDie_regions (s : State) (i : Nat) (g : Die → Die) : (s.onDie i g).regions = s.regions := rfl
@[simp] theorem State.onDie_bays (s : State) (i : Nat) (g : Die → Die) : (s.onDie i g).bays = s.bays := rfl
@[simp] theorem State.onDie_jobs (s : State) (i : Nat) (g : Die → Die) : (s.onDie i g).jobs = s.jobs := rfl
@[simp] theorem State.onDie_bids (s : State) (i : Nat) (g : Die → Die) : (s.onDie i g).bids = s.bids := rfl
@[simp] theorem State.onDie_wsAge (s : State) (i : Nat) (g : Die → Die) : (s.onDie i g).wsAge = s.wsAge := rfl
@[simp] theorem State.onDie_bindings (s : State) (i : Nat) (g : Die → Die) : (s.onDie i g).bindings = s.bindings := rfl
@[simp] theorem State.onDie_saves (s : State) (i : Nat) (g : Die → Die) : (s.onDie i g).saves = s.saves := rfl
@[simp] theorem State.onDie_saveAddr (s : State) (i : Nat) (g : Die → Die) : (s.onDie i g).saveAddr = s.saveAddr := rfl
@[simp] theorem State.onDie_saveKey (s : State) (i : Nat) (g : Die → Die) : (s.onDie i g).saveKey = s.saveKey := rfl
@[simp] theorem State.onDie_transfers (s : State) (i : Nat) (g : Die → Die) : (s.onDie i g).transfers = s.transfers := rfl
@[simp] theorem State.onDie_conns (s : State) (i : Nat) (g : Die → Die) : (s.onDie i g).conns = s.conns := rfl
@[simp] theorem State.onDie_images (s : State) (i : Nat) (g : Die → Die) : (s.onDie i g).images = s.images := rfl
@[simp] theorem State.onDie_messages (s : State) (i : Nat) (g : Die → Die) : (s.onDie i g).messages = s.messages := rfl
@[simp] theorem State.onDie_eventSeq (s : State) (i : Nat) (g : Die → Die) : (s.onDie i g).eventSeq = s.eventSeq := rfl
@[simp] theorem State.onDie_boot (s : State) (i : Nat) (g : Die → Die) : (s.onDie i g).boot = s.boot := rfl
@[simp] theorem State.onDie_hosts (s : State) (i : Nat) (g : Die → Die) : (s.onDie i g).hosts = s.hosts := rfl
@[simp] theorem State.onDie_refresh (s : State) (i : Nat) (g : Die → Die) : (s.onDie i g).refresh = s.refresh := rfl
@[simp] theorem State.onDie_fabricOff (s : State) (i : Nat) (g : Die → Die) : (s.onDie i g).fabricOff = s.fabricOff := rfl

/-! ## State.onSlice changes `slices` alone -/

@[simp] theorem State.onSlice_cur (s : State) (i : Nat) (g : Slice → Slice) : (s.onSlice i g).cur = s.cur := rfl
@[simp] theorem State.onSlice_parked (s : State) (i : Nat) (g : Slice → Slice) : (s.onSlice i g).parked = s.parked := rfl
@[simp] theorem State.onSlice_agenda (s : State) (i : Nat) (g : Slice → Slice) : (s.onSlice i g).agenda = s.agenda := rfl
@[simp] theorem State.onSlice_freeCount (s : State) (i : Nat) (g : Slice → Slice) : (s.onSlice i g).freeCount = s.freeCount := rfl
@[simp] theorem State.onSlice_tlbKeep (s : State) (i : Nat) (g : Slice → Slice) : (s.onSlice i g).tlbKeep = s.tlbKeep := rfl
@[simp] theorem State.onSlice_cycle (s : State) (i : Nat) (g : Slice → Slice) : (s.onSlice i g).cycle = s.cycle := rfl
@[simp] theorem State.onSlice_mem (s : State) (i : Nat) (g : Slice → Slice) : (s.onSlice i g).mem = s.mem := rfl
@[simp] theorem State.onSlice_poison (s : State) (i : Nat) (g : Slice → Slice) : (s.onSlice i g).poison = s.poison := rfl
@[simp] theorem State.onSlice_hbmErr (s : State) (i : Nat) (g : Slice → Slice) : (s.onSlice i g).hbmErr = s.hbmErr := rfl
@[simp] theorem State.onSlice_signals (s : State) (i : Nat) (g : Slice → Slice) : (s.onSlice i g).signals = s.signals := rfl
@[simp] theorem State.onSlice_owner (s : State) (i : Nat) (g : Slice → Slice) : (s.onSlice i g).owner = s.owner := rfl
@[simp] theorem State.onSlice_art (s : State) (i : Nat) (g : Slice → Slice) : (s.onSlice i g).art = s.art := rfl
@[simp] theorem State.onSlice_windows (s : State) (i : Nat) (g : Slice → Slice) : (s.onSlice i g).windows = s.windows := rfl
@[simp] theorem State.onSlice_maint (s : State) (i : Nat) (g : Slice → Slice) : (s.onSlice i g).maint = s.maint := rfl
@[simp] theorem State.onSlice_packets (s : State) (i : Nat) (g : Slice → Slice) : (s.onSlice i g).packets = s.packets := rfl
@[simp] theorem State.onSlice_nextId (s : State) (i : Nat) (g : Slice → Slice) : (s.onSlice i g).nextId = s.nextId := rfl
@[simp] theorem State.onSlice_tails (s : State) (i : Nat) (g : Slice → Slice) : (s.onSlice i g).tails = s.tails := rfl
@[simp] theorem State.onSlice_tlb (s : State) (i : Nat) (g : Slice → Slice) : (s.onSlice i g).tlb = s.tlb := rfl
@[simp] theorem State.onSlice_withheld (s : State) (i : Nat) (g : Slice → Slice) : (s.onSlice i g).withheld = s.withheld := rfl
@[simp] theorem State.onSlice_pes (s : State) (i : Nat) (g : Slice → Slice) : (s.onSlice i g).pes = s.pes := rfl
@[simp] theorem State.onSlice_ags (s : State) (i : Nat) (g : Slice → Slice) : (s.onSlice i g).ags = s.ags := rfl
@[simp] theorem State.onSlice_regions (s : State) (i : Nat) (g : Slice → Slice) : (s.onSlice i g).regions = s.regions := rfl
@[simp] theorem State.onSlice_bays (s : State) (i : Nat) (g : Slice → Slice) : (s.onSlice i g).bays = s.bays := rfl
@[simp] theorem State.onSlice_dies (s : State) (i : Nat) (g : Slice → Slice) : (s.onSlice i g).dies = s.dies := rfl
@[simp] theorem State.onSlice_jobs (s : State) (i : Nat) (g : Slice → Slice) : (s.onSlice i g).jobs = s.jobs := rfl
@[simp] theorem State.onSlice_bids (s : State) (i : Nat) (g : Slice → Slice) : (s.onSlice i g).bids = s.bids := rfl
@[simp] theorem State.onSlice_wsAge (s : State) (i : Nat) (g : Slice → Slice) : (s.onSlice i g).wsAge = s.wsAge := rfl
@[simp] theorem State.onSlice_bindings (s : State) (i : Nat) (g : Slice → Slice) : (s.onSlice i g).bindings = s.bindings := rfl
@[simp] theorem State.onSlice_saves (s : State) (i : Nat) (g : Slice → Slice) : (s.onSlice i g).saves = s.saves := rfl
@[simp] theorem State.onSlice_saveAddr (s : State) (i : Nat) (g : Slice → Slice) : (s.onSlice i g).saveAddr = s.saveAddr := rfl
@[simp] theorem State.onSlice_saveKey (s : State) (i : Nat) (g : Slice → Slice) : (s.onSlice i g).saveKey = s.saveKey := rfl
@[simp] theorem State.onSlice_transfers (s : State) (i : Nat) (g : Slice → Slice) : (s.onSlice i g).transfers = s.transfers := rfl
@[simp] theorem State.onSlice_conns (s : State) (i : Nat) (g : Slice → Slice) : (s.onSlice i g).conns = s.conns := rfl
@[simp] theorem State.onSlice_images (s : State) (i : Nat) (g : Slice → Slice) : (s.onSlice i g).images = s.images := rfl
@[simp] theorem State.onSlice_messages (s : State) (i : Nat) (g : Slice → Slice) : (s.onSlice i g).messages = s.messages := rfl
@[simp] theorem State.onSlice_eventSeq (s : State) (i : Nat) (g : Slice → Slice) : (s.onSlice i g).eventSeq = s.eventSeq := rfl
@[simp] theorem State.onSlice_boot (s : State) (i : Nat) (g : Slice → Slice) : (s.onSlice i g).boot = s.boot := rfl
@[simp] theorem State.onSlice_hosts (s : State) (i : Nat) (g : Slice → Slice) : (s.onSlice i g).hosts = s.hosts := rfl
@[simp] theorem State.onSlice_refresh (s : State) (i : Nat) (g : Slice → Slice) : (s.onSlice i g).refresh = s.refresh := rfl
@[simp] theorem State.onSlice_fabricOff (s : State) (i : Nat) (g : Slice → Slice) : (s.onSlice i g).fabricOff = s.fabricOff := rfl

/-! ## State.onCur changes `cur` alone -/

@[simp] theorem State.onCur_parked (s : State) (g : Frame → Frame) : (s.onCur g).parked = s.parked := rfl
@[simp] theorem State.onCur_agenda (s : State) (g : Frame → Frame) : (s.onCur g).agenda = s.agenda := rfl
@[simp] theorem State.onCur_freeCount (s : State) (g : Frame → Frame) : (s.onCur g).freeCount = s.freeCount := rfl
@[simp] theorem State.onCur_tlbKeep (s : State) (g : Frame → Frame) : (s.onCur g).tlbKeep = s.tlbKeep := rfl
@[simp] theorem State.onCur_cycle (s : State) (g : Frame → Frame) : (s.onCur g).cycle = s.cycle := rfl
@[simp] theorem State.onCur_mem (s : State) (g : Frame → Frame) : (s.onCur g).mem = s.mem := rfl
@[simp] theorem State.onCur_poison (s : State) (g : Frame → Frame) : (s.onCur g).poison = s.poison := rfl
@[simp] theorem State.onCur_hbmErr (s : State) (g : Frame → Frame) : (s.onCur g).hbmErr = s.hbmErr := rfl
@[simp] theorem State.onCur_signals (s : State) (g : Frame → Frame) : (s.onCur g).signals = s.signals := rfl
@[simp] theorem State.onCur_owner (s : State) (g : Frame → Frame) : (s.onCur g).owner = s.owner := rfl
@[simp] theorem State.onCur_art (s : State) (g : Frame → Frame) : (s.onCur g).art = s.art := rfl
@[simp] theorem State.onCur_windows (s : State) (g : Frame → Frame) : (s.onCur g).windows = s.windows := rfl
@[simp] theorem State.onCur_maint (s : State) (g : Frame → Frame) : (s.onCur g).maint = s.maint := rfl
@[simp] theorem State.onCur_slices (s : State) (g : Frame → Frame) : (s.onCur g).slices = s.slices := rfl
@[simp] theorem State.onCur_packets (s : State) (g : Frame → Frame) : (s.onCur g).packets = s.packets := rfl
@[simp] theorem State.onCur_nextId (s : State) (g : Frame → Frame) : (s.onCur g).nextId = s.nextId := rfl
@[simp] theorem State.onCur_tails (s : State) (g : Frame → Frame) : (s.onCur g).tails = s.tails := rfl
@[simp] theorem State.onCur_tlb (s : State) (g : Frame → Frame) : (s.onCur g).tlb = s.tlb := rfl
@[simp] theorem State.onCur_withheld (s : State) (g : Frame → Frame) : (s.onCur g).withheld = s.withheld := rfl
@[simp] theorem State.onCur_pes (s : State) (g : Frame → Frame) : (s.onCur g).pes = s.pes := rfl
@[simp] theorem State.onCur_ags (s : State) (g : Frame → Frame) : (s.onCur g).ags = s.ags := rfl
@[simp] theorem State.onCur_regions (s : State) (g : Frame → Frame) : (s.onCur g).regions = s.regions := rfl
@[simp] theorem State.onCur_bays (s : State) (g : Frame → Frame) : (s.onCur g).bays = s.bays := rfl
@[simp] theorem State.onCur_dies (s : State) (g : Frame → Frame) : (s.onCur g).dies = s.dies := rfl
@[simp] theorem State.onCur_jobs (s : State) (g : Frame → Frame) : (s.onCur g).jobs = s.jobs := rfl
@[simp] theorem State.onCur_bids (s : State) (g : Frame → Frame) : (s.onCur g).bids = s.bids := rfl
@[simp] theorem State.onCur_wsAge (s : State) (g : Frame → Frame) : (s.onCur g).wsAge = s.wsAge := rfl
@[simp] theorem State.onCur_bindings (s : State) (g : Frame → Frame) : (s.onCur g).bindings = s.bindings := rfl
@[simp] theorem State.onCur_saves (s : State) (g : Frame → Frame) : (s.onCur g).saves = s.saves := rfl
@[simp] theorem State.onCur_saveAddr (s : State) (g : Frame → Frame) : (s.onCur g).saveAddr = s.saveAddr := rfl
@[simp] theorem State.onCur_saveKey (s : State) (g : Frame → Frame) : (s.onCur g).saveKey = s.saveKey := rfl
@[simp] theorem State.onCur_transfers (s : State) (g : Frame → Frame) : (s.onCur g).transfers = s.transfers := rfl
@[simp] theorem State.onCur_conns (s : State) (g : Frame → Frame) : (s.onCur g).conns = s.conns := rfl
@[simp] theorem State.onCur_images (s : State) (g : Frame → Frame) : (s.onCur g).images = s.images := rfl
@[simp] theorem State.onCur_messages (s : State) (g : Frame → Frame) : (s.onCur g).messages = s.messages := rfl
@[simp] theorem State.onCur_eventSeq (s : State) (g : Frame → Frame) : (s.onCur g).eventSeq = s.eventSeq := rfl
@[simp] theorem State.onCur_boot (s : State) (g : Frame → Frame) : (s.onCur g).boot = s.boot := rfl
@[simp] theorem State.onCur_hosts (s : State) (g : Frame → Frame) : (s.onCur g).hosts = s.hosts := rfl
@[simp] theorem State.onCur_refresh (s : State) (g : Frame → Frame) : (s.onCur g).refresh = s.refresh := rfl
@[simp] theorem State.onCur_fabricOff (s : State) (g : Frame → Frame) : (s.onCur g).fabricOff = s.fabricOff := rfl

/-! ## State.tally changes `bays` alone -/

@[simp] theorem State.tally_cur (s : State) (b e n : Nat) : (s.tally b e n).cur = s.cur := by
  unfold State.tally; split <;> rfl
@[simp] theorem State.tally_parked (s : State) (b e n : Nat) : (s.tally b e n).parked = s.parked := by
  unfold State.tally; split <;> rfl
@[simp] theorem State.tally_agenda (s : State) (b e n : Nat) : (s.tally b e n).agenda = s.agenda := by
  unfold State.tally; split <;> rfl
@[simp] theorem State.tally_freeCount (s : State) (b e n : Nat) : (s.tally b e n).freeCount = s.freeCount := by
  unfold State.tally; split <;> rfl
@[simp] theorem State.tally_tlbKeep (s : State) (b e n : Nat) : (s.tally b e n).tlbKeep = s.tlbKeep := by
  unfold State.tally; split <;> rfl
@[simp] theorem State.tally_cycle (s : State) (b e n : Nat) : (s.tally b e n).cycle = s.cycle := by
  unfold State.tally; split <;> rfl
@[simp] theorem State.tally_mem (s : State) (b e n : Nat) : (s.tally b e n).mem = s.mem := by
  unfold State.tally; split <;> rfl
@[simp] theorem State.tally_poison (s : State) (b e n : Nat) : (s.tally b e n).poison = s.poison := by
  unfold State.tally; split <;> rfl
@[simp] theorem State.tally_hbmErr (s : State) (b e n : Nat) : (s.tally b e n).hbmErr = s.hbmErr := by
  unfold State.tally; split <;> rfl
@[simp] theorem State.tally_signals (s : State) (b e n : Nat) : (s.tally b e n).signals = s.signals := by
  unfold State.tally; split <;> rfl
@[simp] theorem State.tally_owner (s : State) (b e n : Nat) : (s.tally b e n).owner = s.owner := by
  unfold State.tally; split <;> rfl
@[simp] theorem State.tally_art (s : State) (b e n : Nat) : (s.tally b e n).art = s.art := by
  unfold State.tally; split <;> rfl
@[simp] theorem State.tally_windows (s : State) (b e n : Nat) : (s.tally b e n).windows = s.windows := by
  unfold State.tally; split <;> rfl
@[simp] theorem State.tally_maint (s : State) (b e n : Nat) : (s.tally b e n).maint = s.maint := by
  unfold State.tally; split <;> rfl
@[simp] theorem State.tally_slices (s : State) (b e n : Nat) : (s.tally b e n).slices = s.slices := by
  unfold State.tally; split <;> rfl
@[simp] theorem State.tally_packets (s : State) (b e n : Nat) : (s.tally b e n).packets = s.packets := by
  unfold State.tally; split <;> rfl
@[simp] theorem State.tally_nextId (s : State) (b e n : Nat) : (s.tally b e n).nextId = s.nextId := by
  unfold State.tally; split <;> rfl
@[simp] theorem State.tally_tails (s : State) (b e n : Nat) : (s.tally b e n).tails = s.tails := by
  unfold State.tally; split <;> rfl
@[simp] theorem State.tally_tlb (s : State) (b e n : Nat) : (s.tally b e n).tlb = s.tlb := by
  unfold State.tally; split <;> rfl
@[simp] theorem State.tally_withheld (s : State) (b e n : Nat) : (s.tally b e n).withheld = s.withheld := by
  unfold State.tally; split <;> rfl
@[simp] theorem State.tally_pes (s : State) (b e n : Nat) : (s.tally b e n).pes = s.pes := by
  unfold State.tally; split <;> rfl
@[simp] theorem State.tally_ags (s : State) (b e n : Nat) : (s.tally b e n).ags = s.ags := by
  unfold State.tally; split <;> rfl
@[simp] theorem State.tally_regions (s : State) (b e n : Nat) : (s.tally b e n).regions = s.regions := by
  unfold State.tally; split <;> rfl
@[simp] theorem State.tally_dies (s : State) (b e n : Nat) : (s.tally b e n).dies = s.dies := by
  unfold State.tally; split <;> rfl
@[simp] theorem State.tally_jobs (s : State) (b e n : Nat) : (s.tally b e n).jobs = s.jobs := by
  unfold State.tally; split <;> rfl
@[simp] theorem State.tally_bids (s : State) (b e n : Nat) : (s.tally b e n).bids = s.bids := by
  unfold State.tally; split <;> rfl
@[simp] theorem State.tally_wsAge (s : State) (b e n : Nat) : (s.tally b e n).wsAge = s.wsAge := by
  unfold State.tally; split <;> rfl
@[simp] theorem State.tally_bindings (s : State) (b e n : Nat) : (s.tally b e n).bindings = s.bindings := by
  unfold State.tally; split <;> rfl
@[simp] theorem State.tally_saves (s : State) (b e n : Nat) : (s.tally b e n).saves = s.saves := by
  unfold State.tally; split <;> rfl
@[simp] theorem State.tally_saveAddr (s : State) (b e n : Nat) : (s.tally b e n).saveAddr = s.saveAddr := by
  unfold State.tally; split <;> rfl
@[simp] theorem State.tally_saveKey (s : State) (b e n : Nat) : (s.tally b e n).saveKey = s.saveKey := by
  unfold State.tally; split <;> rfl
@[simp] theorem State.tally_transfers (s : State) (b e n : Nat) : (s.tally b e n).transfers = s.transfers := by
  unfold State.tally; split <;> rfl
@[simp] theorem State.tally_conns (s : State) (b e n : Nat) : (s.tally b e n).conns = s.conns := by
  unfold State.tally; split <;> rfl
@[simp] theorem State.tally_images (s : State) (b e n : Nat) : (s.tally b e n).images = s.images := by
  unfold State.tally; split <;> rfl
@[simp] theorem State.tally_messages (s : State) (b e n : Nat) : (s.tally b e n).messages = s.messages := by
  unfold State.tally; split <;> rfl
@[simp] theorem State.tally_eventSeq (s : State) (b e n : Nat) : (s.tally b e n).eventSeq = s.eventSeq := by
  unfold State.tally; split <;> rfl
@[simp] theorem State.tally_boot (s : State) (b e n : Nat) : (s.tally b e n).boot = s.boot := by
  unfold State.tally; split <;> rfl
@[simp] theorem State.tally_hosts (s : State) (b e n : Nat) : (s.tally b e n).hosts = s.hosts := by
  unfold State.tally; split <;> rfl
@[simp] theorem State.tally_refresh (s : State) (b e n : Nat) : (s.tally b e n).refresh = s.refresh := by
  unfold State.tally; split <;> rfl
@[simp] theorem State.tally_fabricOff (s : State) (b e n : Nat) : (s.tally b e n).fabricOff = s.fabricOff := by
  unfold State.tally; split <;> rfl

/-! ## State.tallyCur changes `bays` alone -/

@[simp] theorem State.tallyCur_cur (s : State) (e n : Nat) : (s.tallyCur e n).cur = s.cur := by
  simp [State.tallyCur]
@[simp] theorem State.tallyCur_parked (s : State) (e n : Nat) : (s.tallyCur e n).parked = s.parked := by
  simp [State.tallyCur]
@[simp] theorem State.tallyCur_agenda (s : State) (e n : Nat) : (s.tallyCur e n).agenda = s.agenda := by
  simp [State.tallyCur]
@[simp] theorem State.tallyCur_freeCount (s : State) (e n : Nat) : (s.tallyCur e n).freeCount = s.freeCount := by
  simp [State.tallyCur]
@[simp] theorem State.tallyCur_tlbKeep (s : State) (e n : Nat) : (s.tallyCur e n).tlbKeep = s.tlbKeep := by
  simp [State.tallyCur]
@[simp] theorem State.tallyCur_cycle (s : State) (e n : Nat) : (s.tallyCur e n).cycle = s.cycle := by
  simp [State.tallyCur]
@[simp] theorem State.tallyCur_mem (s : State) (e n : Nat) : (s.tallyCur e n).mem = s.mem := by
  simp [State.tallyCur]
@[simp] theorem State.tallyCur_poison (s : State) (e n : Nat) : (s.tallyCur e n).poison = s.poison := by
  simp [State.tallyCur]
@[simp] theorem State.tallyCur_hbmErr (s : State) (e n : Nat) : (s.tallyCur e n).hbmErr = s.hbmErr := by
  simp [State.tallyCur]
@[simp] theorem State.tallyCur_signals (s : State) (e n : Nat) : (s.tallyCur e n).signals = s.signals := by
  simp [State.tallyCur]
@[simp] theorem State.tallyCur_owner (s : State) (e n : Nat) : (s.tallyCur e n).owner = s.owner := by
  simp [State.tallyCur]
@[simp] theorem State.tallyCur_art (s : State) (e n : Nat) : (s.tallyCur e n).art = s.art := by
  simp [State.tallyCur]
@[simp] theorem State.tallyCur_windows (s : State) (e n : Nat) : (s.tallyCur e n).windows = s.windows := by
  simp [State.tallyCur]
@[simp] theorem State.tallyCur_maint (s : State) (e n : Nat) : (s.tallyCur e n).maint = s.maint := by
  simp [State.tallyCur]
@[simp] theorem State.tallyCur_slices (s : State) (e n : Nat) : (s.tallyCur e n).slices = s.slices := by
  simp [State.tallyCur]
@[simp] theorem State.tallyCur_packets (s : State) (e n : Nat) : (s.tallyCur e n).packets = s.packets := by
  simp [State.tallyCur]
@[simp] theorem State.tallyCur_nextId (s : State) (e n : Nat) : (s.tallyCur e n).nextId = s.nextId := by
  simp [State.tallyCur]
@[simp] theorem State.tallyCur_tails (s : State) (e n : Nat) : (s.tallyCur e n).tails = s.tails := by
  simp [State.tallyCur]
@[simp] theorem State.tallyCur_tlb (s : State) (e n : Nat) : (s.tallyCur e n).tlb = s.tlb := by
  simp [State.tallyCur]
@[simp] theorem State.tallyCur_withheld (s : State) (e n : Nat) : (s.tallyCur e n).withheld = s.withheld := by
  simp [State.tallyCur]
@[simp] theorem State.tallyCur_pes (s : State) (e n : Nat) : (s.tallyCur e n).pes = s.pes := by
  simp [State.tallyCur]
@[simp] theorem State.tallyCur_ags (s : State) (e n : Nat) : (s.tallyCur e n).ags = s.ags := by
  simp [State.tallyCur]
@[simp] theorem State.tallyCur_regions (s : State) (e n : Nat) : (s.tallyCur e n).regions = s.regions := by
  simp [State.tallyCur]
@[simp] theorem State.tallyCur_dies (s : State) (e n : Nat) : (s.tallyCur e n).dies = s.dies := by
  simp [State.tallyCur]
@[simp] theorem State.tallyCur_jobs (s : State) (e n : Nat) : (s.tallyCur e n).jobs = s.jobs := by
  simp [State.tallyCur]
@[simp] theorem State.tallyCur_bids (s : State) (e n : Nat) : (s.tallyCur e n).bids = s.bids := by
  simp [State.tallyCur]
@[simp] theorem State.tallyCur_wsAge (s : State) (e n : Nat) : (s.tallyCur e n).wsAge = s.wsAge := by
  simp [State.tallyCur]
@[simp] theorem State.tallyCur_bindings (s : State) (e n : Nat) : (s.tallyCur e n).bindings = s.bindings := by
  simp [State.tallyCur]
@[simp] theorem State.tallyCur_saves (s : State) (e n : Nat) : (s.tallyCur e n).saves = s.saves := by
  simp [State.tallyCur]
@[simp] theorem State.tallyCur_saveAddr (s : State) (e n : Nat) : (s.tallyCur e n).saveAddr = s.saveAddr := by
  simp [State.tallyCur]
@[simp] theorem State.tallyCur_saveKey (s : State) (e n : Nat) : (s.tallyCur e n).saveKey = s.saveKey := by
  simp [State.tallyCur]
@[simp] theorem State.tallyCur_transfers (s : State) (e n : Nat) : (s.tallyCur e n).transfers = s.transfers := by
  simp [State.tallyCur]
@[simp] theorem State.tallyCur_conns (s : State) (e n : Nat) : (s.tallyCur e n).conns = s.conns := by
  simp [State.tallyCur]
@[simp] theorem State.tallyCur_images (s : State) (e n : Nat) : (s.tallyCur e n).images = s.images := by
  simp [State.tallyCur]
@[simp] theorem State.tallyCur_messages (s : State) (e n : Nat) : (s.tallyCur e n).messages = s.messages := by
  simp [State.tallyCur]
@[simp] theorem State.tallyCur_eventSeq (s : State) (e n : Nat) : (s.tallyCur e n).eventSeq = s.eventSeq := by
  simp [State.tallyCur]
@[simp] theorem State.tallyCur_boot (s : State) (e n : Nat) : (s.tallyCur e n).boot = s.boot := by
  simp [State.tallyCur]
@[simp] theorem State.tallyCur_hosts (s : State) (e n : Nat) : (s.tallyCur e n).hosts = s.hosts := by
  simp [State.tallyCur]
@[simp] theorem State.tallyCur_refresh (s : State) (e n : Nat) : (s.tallyCur e n).refresh = s.refresh := by
  simp [State.tallyCur]
@[simp] theorem State.tallyCur_fabricOff (s : State) (e n : Nat) : (s.tallyCur e n).fabricOff = s.fabricOff := by
  simp [State.tallyCur]

/-! ## State.progress changes `regions` alone -/

@[simp] theorem State.progress_cur (s : State) (rid : Nat) : (s.progress rid).cur = s.cur := by
  unfold State.progress; split <;> rfl
@[simp] theorem State.progress_parked (s : State) (rid : Nat) : (s.progress rid).parked = s.parked := by
  unfold State.progress; split <;> rfl
@[simp] theorem State.progress_agenda (s : State) (rid : Nat) : (s.progress rid).agenda = s.agenda := by
  unfold State.progress; split <;> rfl
@[simp] theorem State.progress_freeCount (s : State) (rid : Nat) : (s.progress rid).freeCount = s.freeCount := by
  unfold State.progress; split <;> rfl
@[simp] theorem State.progress_tlbKeep (s : State) (rid : Nat) : (s.progress rid).tlbKeep = s.tlbKeep := by
  unfold State.progress; split <;> rfl
@[simp] theorem State.progress_cycle (s : State) (rid : Nat) : (s.progress rid).cycle = s.cycle := by
  unfold State.progress; split <;> rfl
@[simp] theorem State.progress_mem (s : State) (rid : Nat) : (s.progress rid).mem = s.mem := by
  unfold State.progress; split <;> rfl
@[simp] theorem State.progress_poison (s : State) (rid : Nat) : (s.progress rid).poison = s.poison := by
  unfold State.progress; split <;> rfl
@[simp] theorem State.progress_hbmErr (s : State) (rid : Nat) : (s.progress rid).hbmErr = s.hbmErr := by
  unfold State.progress; split <;> rfl
@[simp] theorem State.progress_signals (s : State) (rid : Nat) : (s.progress rid).signals = s.signals := by
  unfold State.progress; split <;> rfl
@[simp] theorem State.progress_owner (s : State) (rid : Nat) : (s.progress rid).owner = s.owner := by
  unfold State.progress; split <;> rfl
@[simp] theorem State.progress_art (s : State) (rid : Nat) : (s.progress rid).art = s.art := by
  unfold State.progress; split <;> rfl
@[simp] theorem State.progress_windows (s : State) (rid : Nat) : (s.progress rid).windows = s.windows := by
  unfold State.progress; split <;> rfl
@[simp] theorem State.progress_maint (s : State) (rid : Nat) : (s.progress rid).maint = s.maint := by
  unfold State.progress; split <;> rfl
@[simp] theorem State.progress_slices (s : State) (rid : Nat) : (s.progress rid).slices = s.slices := by
  unfold State.progress; split <;> rfl
@[simp] theorem State.progress_packets (s : State) (rid : Nat) : (s.progress rid).packets = s.packets := by
  unfold State.progress; split <;> rfl
@[simp] theorem State.progress_nextId (s : State) (rid : Nat) : (s.progress rid).nextId = s.nextId := by
  unfold State.progress; split <;> rfl
@[simp] theorem State.progress_tails (s : State) (rid : Nat) : (s.progress rid).tails = s.tails := by
  unfold State.progress; split <;> rfl
@[simp] theorem State.progress_tlb (s : State) (rid : Nat) : (s.progress rid).tlb = s.tlb := by
  unfold State.progress; split <;> rfl
@[simp] theorem State.progress_withheld (s : State) (rid : Nat) : (s.progress rid).withheld = s.withheld := by
  unfold State.progress; split <;> rfl
@[simp] theorem State.progress_pes (s : State) (rid : Nat) : (s.progress rid).pes = s.pes := by
  unfold State.progress; split <;> rfl
@[simp] theorem State.progress_ags (s : State) (rid : Nat) : (s.progress rid).ags = s.ags := by
  unfold State.progress; split <;> rfl
@[simp] theorem State.progress_bays (s : State) (rid : Nat) : (s.progress rid).bays = s.bays := by
  unfold State.progress; split <;> rfl
@[simp] theorem State.progress_dies (s : State) (rid : Nat) : (s.progress rid).dies = s.dies := by
  unfold State.progress; split <;> rfl
@[simp] theorem State.progress_jobs (s : State) (rid : Nat) : (s.progress rid).jobs = s.jobs := by
  unfold State.progress; split <;> rfl
@[simp] theorem State.progress_bids (s : State) (rid : Nat) : (s.progress rid).bids = s.bids := by
  unfold State.progress; split <;> rfl
@[simp] theorem State.progress_wsAge (s : State) (rid : Nat) : (s.progress rid).wsAge = s.wsAge := by
  unfold State.progress; split <;> rfl
@[simp] theorem State.progress_bindings (s : State) (rid : Nat) : (s.progress rid).bindings = s.bindings := by
  unfold State.progress; split <;> rfl
@[simp] theorem State.progress_saves (s : State) (rid : Nat) : (s.progress rid).saves = s.saves := by
  unfold State.progress; split <;> rfl
@[simp] theorem State.progress_saveAddr (s : State) (rid : Nat) : (s.progress rid).saveAddr = s.saveAddr := by
  unfold State.progress; split <;> rfl
@[simp] theorem State.progress_saveKey (s : State) (rid : Nat) : (s.progress rid).saveKey = s.saveKey := by
  unfold State.progress; split <;> rfl
@[simp] theorem State.progress_transfers (s : State) (rid : Nat) : (s.progress rid).transfers = s.transfers := by
  unfold State.progress; split <;> rfl
@[simp] theorem State.progress_conns (s : State) (rid : Nat) : (s.progress rid).conns = s.conns := by
  unfold State.progress; split <;> rfl
@[simp] theorem State.progress_images (s : State) (rid : Nat) : (s.progress rid).images = s.images := by
  unfold State.progress; split <;> rfl
@[simp] theorem State.progress_messages (s : State) (rid : Nat) : (s.progress rid).messages = s.messages := by
  unfold State.progress; split <;> rfl
@[simp] theorem State.progress_eventSeq (s : State) (rid : Nat) : (s.progress rid).eventSeq = s.eventSeq := by
  unfold State.progress; split <;> rfl
@[simp] theorem State.progress_boot (s : State) (rid : Nat) : (s.progress rid).boot = s.boot := by
  unfold State.progress; split <;> rfl
@[simp] theorem State.progress_hosts (s : State) (rid : Nat) : (s.progress rid).hosts = s.hosts := by
  unfold State.progress; split <;> rfl
@[simp] theorem State.progress_refresh (s : State) (rid : Nat) : (s.progress rid).refresh = s.refresh := by
  unfold State.progress; split <;> rfl
@[simp] theorem State.progress_fabricOff (s : State) (rid : Nat) : (s.progress rid).fabricOff = s.fabricOff := by
  unfold State.progress; split <;> rfl

/-! ## State.progressPe changes `regions` alone -/

@[simp] theorem State.progressPe_cur (s : State) (key : Nat) : (s.progressPe key).cur = s.cur := by
  unfold State.progressPe; split <;> simp
@[simp] theorem State.progressPe_parked (s : State) (key : Nat) : (s.progressPe key).parked = s.parked := by
  unfold State.progressPe; split <;> simp
@[simp] theorem State.progressPe_agenda (s : State) (key : Nat) : (s.progressPe key).agenda = s.agenda := by
  unfold State.progressPe; split <;> simp
@[simp] theorem State.progressPe_freeCount (s : State) (key : Nat) : (s.progressPe key).freeCount = s.freeCount := by
  unfold State.progressPe; split <;> simp
@[simp] theorem State.progressPe_tlbKeep (s : State) (key : Nat) : (s.progressPe key).tlbKeep = s.tlbKeep := by
  unfold State.progressPe; split <;> simp
@[simp] theorem State.progressPe_cycle (s : State) (key : Nat) : (s.progressPe key).cycle = s.cycle := by
  unfold State.progressPe; split <;> simp
@[simp] theorem State.progressPe_mem (s : State) (key : Nat) : (s.progressPe key).mem = s.mem := by
  unfold State.progressPe; split <;> simp
@[simp] theorem State.progressPe_poison (s : State) (key : Nat) : (s.progressPe key).poison = s.poison := by
  unfold State.progressPe; split <;> simp
@[simp] theorem State.progressPe_hbmErr (s : State) (key : Nat) : (s.progressPe key).hbmErr = s.hbmErr := by
  unfold State.progressPe; split <;> simp
@[simp] theorem State.progressPe_signals (s : State) (key : Nat) : (s.progressPe key).signals = s.signals := by
  unfold State.progressPe; split <;> simp
@[simp] theorem State.progressPe_owner (s : State) (key : Nat) : (s.progressPe key).owner = s.owner := by
  unfold State.progressPe; split <;> simp
@[simp] theorem State.progressPe_art (s : State) (key : Nat) : (s.progressPe key).art = s.art := by
  unfold State.progressPe; split <;> simp
@[simp] theorem State.progressPe_windows (s : State) (key : Nat) : (s.progressPe key).windows = s.windows := by
  unfold State.progressPe; split <;> simp
@[simp] theorem State.progressPe_maint (s : State) (key : Nat) : (s.progressPe key).maint = s.maint := by
  unfold State.progressPe; split <;> simp
@[simp] theorem State.progressPe_slices (s : State) (key : Nat) : (s.progressPe key).slices = s.slices := by
  unfold State.progressPe; split <;> simp
@[simp] theorem State.progressPe_packets (s : State) (key : Nat) : (s.progressPe key).packets = s.packets := by
  unfold State.progressPe; split <;> simp
@[simp] theorem State.progressPe_nextId (s : State) (key : Nat) : (s.progressPe key).nextId = s.nextId := by
  unfold State.progressPe; split <;> simp
@[simp] theorem State.progressPe_tails (s : State) (key : Nat) : (s.progressPe key).tails = s.tails := by
  unfold State.progressPe; split <;> simp
@[simp] theorem State.progressPe_tlb (s : State) (key : Nat) : (s.progressPe key).tlb = s.tlb := by
  unfold State.progressPe; split <;> simp
@[simp] theorem State.progressPe_withheld (s : State) (key : Nat) : (s.progressPe key).withheld = s.withheld := by
  unfold State.progressPe; split <;> simp
@[simp] theorem State.progressPe_pes (s : State) (key : Nat) : (s.progressPe key).pes = s.pes := by
  unfold State.progressPe; split <;> simp
@[simp] theorem State.progressPe_ags (s : State) (key : Nat) : (s.progressPe key).ags = s.ags := by
  unfold State.progressPe; split <;> simp
@[simp] theorem State.progressPe_bays (s : State) (key : Nat) : (s.progressPe key).bays = s.bays := by
  unfold State.progressPe; split <;> simp
@[simp] theorem State.progressPe_dies (s : State) (key : Nat) : (s.progressPe key).dies = s.dies := by
  unfold State.progressPe; split <;> simp
@[simp] theorem State.progressPe_jobs (s : State) (key : Nat) : (s.progressPe key).jobs = s.jobs := by
  unfold State.progressPe; split <;> simp
@[simp] theorem State.progressPe_bids (s : State) (key : Nat) : (s.progressPe key).bids = s.bids := by
  unfold State.progressPe; split <;> simp
@[simp] theorem State.progressPe_wsAge (s : State) (key : Nat) : (s.progressPe key).wsAge = s.wsAge := by
  unfold State.progressPe; split <;> simp
@[simp] theorem State.progressPe_bindings (s : State) (key : Nat) : (s.progressPe key).bindings = s.bindings := by
  unfold State.progressPe; split <;> simp
@[simp] theorem State.progressPe_saves (s : State) (key : Nat) : (s.progressPe key).saves = s.saves := by
  unfold State.progressPe; split <;> simp
@[simp] theorem State.progressPe_saveAddr (s : State) (key : Nat) : (s.progressPe key).saveAddr = s.saveAddr := by
  unfold State.progressPe; split <;> simp
@[simp] theorem State.progressPe_saveKey (s : State) (key : Nat) : (s.progressPe key).saveKey = s.saveKey := by
  unfold State.progressPe; split <;> simp
@[simp] theorem State.progressPe_transfers (s : State) (key : Nat) : (s.progressPe key).transfers = s.transfers := by
  unfold State.progressPe; split <;> simp
@[simp] theorem State.progressPe_conns (s : State) (key : Nat) : (s.progressPe key).conns = s.conns := by
  unfold State.progressPe; split <;> simp
@[simp] theorem State.progressPe_images (s : State) (key : Nat) : (s.progressPe key).images = s.images := by
  unfold State.progressPe; split <;> simp
@[simp] theorem State.progressPe_messages (s : State) (key : Nat) : (s.progressPe key).messages = s.messages := by
  unfold State.progressPe; split <;> simp
@[simp] theorem State.progressPe_eventSeq (s : State) (key : Nat) : (s.progressPe key).eventSeq = s.eventSeq := by
  unfold State.progressPe; split <;> simp
@[simp] theorem State.progressPe_boot (s : State) (key : Nat) : (s.progressPe key).boot = s.boot := by
  unfold State.progressPe; split <;> simp
@[simp] theorem State.progressPe_hosts (s : State) (key : Nat) : (s.progressPe key).hosts = s.hosts := by
  unfold State.progressPe; split <;> simp
@[simp] theorem State.progressPe_refresh (s : State) (key : Nat) : (s.progressPe key).refresh = s.refresh := by
  unfold State.progressPe; split <;> simp
@[simp] theorem State.progressPe_fabricOff (s : State) (key : Nat) : (s.progressPe key).fabricOff = s.fabricOff := by
  unfold State.progressPe; split <;> simp

/-! ## Reading a map back -/

theorem Map.find_set_self {α : Type} (m : Map α) (i : Nat) (v : α) : Map.find (Map.set m i v) i = some v := by
  induction m with
  | nil => simp [Map.set, Map.find]
  | cons e m ih =>
    obtain ⟨k, w⟩ := e
    simp only [Map.set]
    split
    · simp [Map.find]
    · split
      · simp [Map.find]
      · simp only [Map.find]
        rw [if_neg (by omega), if_neg (by omega), ih]

theorem Map.find_set_ne {α : Type} (m : Map α) {i j : Nat} (v : α) (h : j ≠ i) :
    Map.find (Map.set m i v) j = Map.find m j := by
  induction m with
  | nil => simp only [Map.set, Map.find]; rw [if_neg (by omega)]; split <;> rfl
  | cons e m ih =>
    obtain ⟨k, w⟩ := e
    simp only [Map.set]
    split
    · simp only [Map.find]
      rw [if_neg (by omega : ¬ i = j)]
      split
      · rw [if_neg (by omega : ¬ k = j), if_pos (by omega : j < k)]
      · rfl
    · split
      · subst_vars
        simp only [Map.find]
        rw [if_neg (by omega : ¬ k = j), if_neg (by omega : ¬ k = j)]
      · simp only [Map.find, ih]

@[simp] theorem Map.get_set_self {α : Type} (d : α) (m : Map α) (i : Nat) (v : α) : Map.get d (Map.set m i v) i = v := by
  simp [Map.get, Map.find_set_self]

theorem Map.get_set_ne {α : Type} (d : α) (m : Map α) {i j : Nat} (v : α) (h : j ≠ i) :
    Map.get d (Map.set m i v) j = Map.get d m j := by
  simp [Map.get, Map.find_set_ne m v h]

@[simp] theorem Map.get_modify_self {α : Type} (d : α) (m : Map α) (i : Nat) (g : α → α) :
    Map.get d (Map.modify d m i g) i = g (Map.get d m i) := by
  simp [Map.modify]

theorem Map.get_modify_ne {α : Type} (d : α) (m : Map α) {i j : Nat} (g : α → α) (h : j ≠ i) :
    Map.get d (Map.modify d m i g) j = Map.get d m j := by
  simp [Map.modify, Map.get_set_ne d m _ h]

/-! ## What an update reads back -/

@[simp] theorem State.pe_onPe_self (s : State) (i : Nat) (g : Pe → Pe) : (s.onPe i g).pe i = g (s.pe i) := by
  simp [State.pe, State.onPe]

theorem State.pe_onPe_ne (s : State) {i j : Nat} (g : Pe → Pe) (h : j ≠ i) : (s.onPe i g).pe j = s.pe j := by
  simp [State.pe, State.onPe, Map.get_modify_ne _ _ _ h]

@[simp] theorem State.region_onRegion_self (s : State) (i : Nat) (g : Region → Region) : (s.onRegion i g).region i = g (s.region i) := by
  simp [State.region, State.onRegion]

theorem State.region_onRegion_ne (s : State) {i j : Nat} (g : Region → Region) (h : j ≠ i) : (s.onRegion i g).region j = s.region j := by
  simp [State.region, State.onRegion, Map.get_modify_ne _ _ _ h]

@[simp] theorem State.job_onJob_self (s : State) (i : Nat) (g : Job → Job) : (s.onJob i g).job i = g (s.job i) := by
  simp [State.job, State.onJob]

theorem State.job_onJob_ne (s : State) {i j : Nat} (g : Job → Job) (h : j ≠ i) : (s.onJob i g).job j = s.job j := by
  simp [State.job, State.onJob, Map.get_modify_ne _ _ _ h]

@[simp] theorem State.bay_onBay_self (s : State) (i : Nat) (g : Bay → Bay) : (s.onBay i g).bay i = g (s.bay i) := by
  simp [State.bay, State.onBay]

theorem State.bay_onBay_ne (s : State) {i j : Nat} (g : Bay → Bay) (h : j ≠ i) : (s.onBay i g).bay j = s.bay j := by
  simp [State.bay, State.onBay, Map.get_modify_ne _ _ _ h]

@[simp] theorem State.die_onDie_self (s : State) (i : Nat) (g : Die → Die) : (s.onDie i g).die i = g (s.die i) := by
  simp [State.die, State.onDie]

theorem State.die_onDie_ne (s : State) {i j : Nat} (g : Die → Die) (h : j ≠ i) : (s.onDie i g).die j = s.die j := by
  simp [State.die, State.onDie, Map.get_modify_ne _ _ _ h]

@[simp] theorem State.slice_onSlice_self (s : State) (i : Nat) (g : Slice → Slice) : (s.onSlice i g).slice i = g (s.slice i) := by
  simp [State.slice, State.onSlice]

theorem State.slice_onSlice_ne (s : State) {i j : Nat} (g : Slice → Slice) (h : j ≠ i) : (s.onSlice i g).slice j = s.slice j := by
  simp [State.slice, State.onSlice, Map.get_modify_ne _ _ _ h]

@[simp] theorem State.pe_onRegion (s : State) (k : Nat) (i : Nat) (g : Region → Region) : (s.onRegion i g).pe k = s.pe k := rfl
@[simp] theorem State.pe_onJob (s : State) (k : Nat) (i : Nat) (g : Job → Job) : (s.onJob i g).pe k = s.pe k := rfl
@[simp] theorem State.pe_onBay (s : State) (k : Nat) (i : Nat) (g : Bay → Bay) : (s.onBay i g).pe k = s.pe k := rfl
@[simp] theorem State.pe_onDie (s : State) (k : Nat) (i : Nat) (g : Die → Die) : (s.onDie i g).pe k = s.pe k := rfl
@[simp] theorem State.pe_onSlice (s : State) (k : Nat) (i : Nat) (g : Slice → Slice) : (s.onSlice i g).pe k = s.pe k := rfl
@[simp] theorem State.pe_onCur (s : State) (k : Nat) (g : Frame → Frame) : (s.onCur g).pe k = s.pe k := rfl
@[simp] theorem State.pe_tally (s : State) (k : Nat) (b e n : Nat) : (s.tally b e n).pe k = s.pe k := by
  unfold State.tally; split <;> rfl
@[simp] theorem State.pe_progress (s : State) (k : Nat) (rid : Nat) : (s.progress rid).pe k = s.pe k := by
  unfold State.progress; split <;> rfl
@[simp] theorem State.region_onPe (s : State) (k : Nat) (i : Nat) (g : Pe → Pe) : (s.onPe i g).region k = s.region k := rfl
@[simp] theorem State.region_onJob (s : State) (k : Nat) (i : Nat) (g : Job → Job) : (s.onJob i g).region k = s.region k := rfl
@[simp] theorem State.region_onBay (s : State) (k : Nat) (i : Nat) (g : Bay → Bay) : (s.onBay i g).region k = s.region k := rfl
@[simp] theorem State.region_onDie (s : State) (k : Nat) (i : Nat) (g : Die → Die) : (s.onDie i g).region k = s.region k := rfl
@[simp] theorem State.region_onSlice (s : State) (k : Nat) (i : Nat) (g : Slice → Slice) : (s.onSlice i g).region k = s.region k := rfl
@[simp] theorem State.region_onCur (s : State) (k : Nat) (g : Frame → Frame) : (s.onCur g).region k = s.region k := rfl
@[simp] theorem State.region_tally (s : State) (k : Nat) (b e n : Nat) : (s.tally b e n).region k = s.region k := by
  unfold State.tally; split <;> rfl
@[simp] theorem State.job_onPe (s : State) (k : Nat) (i : Nat) (g : Pe → Pe) : (s.onPe i g).job k = s.job k := rfl
@[simp] theorem State.job_onRegion (s : State) (k : Nat) (i : Nat) (g : Region → Region) : (s.onRegion i g).job k = s.job k := rfl
@[simp] theorem State.job_onBay (s : State) (k : Nat) (i : Nat) (g : Bay → Bay) : (s.onBay i g).job k = s.job k := rfl
@[simp] theorem State.job_onDie (s : State) (k : Nat) (i : Nat) (g : Die → Die) : (s.onDie i g).job k = s.job k := rfl
@[simp] theorem State.job_onSlice (s : State) (k : Nat) (i : Nat) (g : Slice → Slice) : (s.onSlice i g).job k = s.job k := rfl
@[simp] theorem State.job_onCur (s : State) (k : Nat) (g : Frame → Frame) : (s.onCur g).job k = s.job k := rfl
@[simp] theorem State.job_tally (s : State) (k : Nat) (b e n : Nat) : (s.tally b e n).job k = s.job k := by
  unfold State.tally; split <;> rfl
@[simp] theorem State.job_progress (s : State) (k : Nat) (rid : Nat) : (s.progress rid).job k = s.job k := by
  unfold State.progress; split <;> rfl
@[simp] theorem State.bay_onPe (s : State) (k : Nat) (i : Nat) (g : Pe → Pe) : (s.onPe i g).bay k = s.bay k := rfl
@[simp] theorem State.bay_onRegion (s : State) (k : Nat) (i : Nat) (g : Region → Region) : (s.onRegion i g).bay k = s.bay k := rfl
@[simp] theorem State.bay_onJob (s : State) (k : Nat) (i : Nat) (g : Job → Job) : (s.onJob i g).bay k = s.bay k := rfl
@[simp] theorem State.bay_onDie (s : State) (k : Nat) (i : Nat) (g : Die → Die) : (s.onDie i g).bay k = s.bay k := rfl
@[simp] theorem State.bay_onSlice (s : State) (k : Nat) (i : Nat) (g : Slice → Slice) : (s.onSlice i g).bay k = s.bay k := rfl
@[simp] theorem State.bay_onCur (s : State) (k : Nat) (g : Frame → Frame) : (s.onCur g).bay k = s.bay k := rfl
@[simp] theorem State.bay_progress (s : State) (k : Nat) (rid : Nat) : (s.progress rid).bay k = s.bay k := by
  unfold State.progress; split <;> rfl
@[simp] theorem State.die_onPe (s : State) (k : Nat) (i : Nat) (g : Pe → Pe) : (s.onPe i g).die k = s.die k := rfl
@[simp] theorem State.die_onRegion (s : State) (k : Nat) (i : Nat) (g : Region → Region) : (s.onRegion i g).die k = s.die k := rfl
@[simp] theorem State.die_onJob (s : State) (k : Nat) (i : Nat) (g : Job → Job) : (s.onJob i g).die k = s.die k := rfl
@[simp] theorem State.die_onBay (s : State) (k : Nat) (i : Nat) (g : Bay → Bay) : (s.onBay i g).die k = s.die k := rfl
@[simp] theorem State.die_onSlice (s : State) (k : Nat) (i : Nat) (g : Slice → Slice) : (s.onSlice i g).die k = s.die k := rfl
@[simp] theorem State.die_onCur (s : State) (k : Nat) (g : Frame → Frame) : (s.onCur g).die k = s.die k := rfl
@[simp] theorem State.die_tally (s : State) (k : Nat) (b e n : Nat) : (s.tally b e n).die k = s.die k := by
  unfold State.tally; split <;> rfl
@[simp] theorem State.die_progress (s : State) (k : Nat) (rid : Nat) : (s.progress rid).die k = s.die k := by
  unfold State.progress; split <;> rfl
@[simp] theorem State.slice_onPe (s : State) (k : Nat) (i : Nat) (g : Pe → Pe) : (s.onPe i g).slice k = s.slice k := rfl
@[simp] theorem State.slice_onRegion (s : State) (k : Nat) (i : Nat) (g : Region → Region) : (s.onRegion i g).slice k = s.slice k := rfl
@[simp] theorem State.slice_onJob (s : State) (k : Nat) (i : Nat) (g : Job → Job) : (s.onJob i g).slice k = s.slice k := rfl
@[simp] theorem State.slice_onBay (s : State) (k : Nat) (i : Nat) (g : Bay → Bay) : (s.onBay i g).slice k = s.slice k := rfl
@[simp] theorem State.slice_onDie (s : State) (k : Nat) (i : Nat) (g : Die → Die) : (s.onDie i g).slice k = s.slice k := rfl
@[simp] theorem State.slice_onCur (s : State) (k : Nat) (g : Frame → Frame) : (s.onCur g).slice k = s.slice k := rfl
@[simp] theorem State.slice_tally (s : State) (k : Nat) (b e n : Nat) : (s.tally b e n).slice k = s.slice k := by
  unfold State.tally; split <;> rfl
@[simp] theorem State.slice_progress (s : State) (k : Nat) (rid : Nat) : (s.progress rid).slice k = s.slice k := by
  unfold State.progress; split <;> rfl

end Sys2Proof.Machine
end

