-- ==== Sys2Proof/Machine/BexasText.lean ====
section
/-! DEFINITION. BexasText: the tokens of a bexas source line, its expressions, and a slot line as it is written (29 R412, R413,
R414). A line that breaks a rule has no reading: bexas refuses the file (29 R421). -/

namespace Sys2Proof.Machine

/-! ## Tokens (29 R412) -/

/-- A token of a source line. An integer keeps its base and its number of digits, and a float its decimal exponent; the sign
is a token of its own. -/
inductive BTok where
  | word (s : String)
  | dot (s : String)
  | int (v base digits : Nat)
  | float (m : Nat) (e10 : Int)
  | time (t : LTime)
  | sym (c : Char)
  | arrow
  deriving DecidableEq, Repr

/-- A character of an identifier. -/
def identChar (c : Char) : Bool := c.isAlphanum || c == '_'

/-- The value of a digit in any base up to 16. -/
def digitVal (c : Char) : Nat :=
  if c.isDigit then c.toNat - '0'.toNat
  else if 'a' ≤ c && c ≤ 'f' then c.toNat - 'a'.toNat + 10
  else if 'A' ≤ c && c ≤ 'F' then c.toNat - 'A'.toNat + 10
  else 16

/-- The digits at the front of a text, with underscores between them. -/
def digitRun (base : Nat) (cs : List Char) : List Char × List Char := cs.span fun c => digitVal c < base || c == '_'

/-- A run of digits: it begins and ends with a digit. -/
def digitsOk (ds : List Char) : Bool := (ds.head?.any (· != '_')) && ds.getLast?.any (· != '_')

/-- The value of a run of digits. -/
def digitsVal (base : Nat) (ds : List Char) : Nat := (ds.filter (· != '_')).foldl (fun n c => base * n + digitVal c) 0

/-- How many digits a run has. -/
def digitCount (ds : List Char) : Nat := (ds.filter (· != '_')).length

/-- An integer of a base after its prefix. -/
def lexBased (base : Nat) (cs : List Char) : Option (BTok × List Char) :=
  let (ds, r) := digitRun base cs
  if digitsOk ds then some (.int (digitsVal base ds) base (digitCount ds), r) else none

/-- The exponent of a float, if one stands here. -/
def lexExponent : List Char → Option (Int × List Char)
  | c :: cs =>
    if c == 'e' || c == 'E' then
      let (neg, r) := match cs with
        | '-' :: r => (true, r)
        | '+' :: r => (false, r)
        | r => (false, r)
      let (ds, r) := digitRun 10 r
      if digitsOk ds then some (if neg then -(digitsVal 10 ds : Int) else digitsVal 10 ds, r) else none
    else none
  | [] => none

/-- A decimal number: an integer, or a float where a fraction or an exponent follows. -/
def lexDecimal (cs : List Char) : Option (BTok × List Char) :=
  let (ds, r) := digitRun 10 cs
  if !digitsOk ds then none
  else
    let (fs, r) := match r with
      | '.' :: c :: r' => if c.isDigit then digitRun 10 (c :: r') else ([], r)
      | _ => ([], r)
    if !fs.isEmpty && !digitsOk fs then none
    else
      let m := digitsVal 10 (ds ++ fs)
      match lexExponent r with
      | some (e, r) => some (.float m (e - digitCount fs), r)
      | none => if fs.isEmpty then some (.int m 10 (digitCount ds), r) else some (.float m (-(digitCount fs : Int)), r)

/-- A number. -/
def lexNumber : List Char → Option (BTok × List Char)
  | '0' :: 'x' :: r => lexBased 16 r
  | '0' :: 'b' :: r => lexBased 2 r
  | cs => lexDecimal cs

/-- A text cut at each separator. -/
def splitChar (sep : Char) : List Char → List (List Char)
  | [] => [[]]
  | c :: cs =>
    match splitChar sep cs with
    | [] => [[c]]
    | w :: ws => if c == sep then [] :: w :: ws else (c :: w) :: ws

/-- A whole text that is one integer. -/
def wholeInt (cs : List Char) : Option Nat :=
  match lexNumber (cs.filter fun c => c != ' ' && c != '\t') with
  | some (.int v _ _, []) => some v
  | _ => none

/-- The inside of a time literal: an epoch up to 0xF_FFFE, and up to four counters up to 2,047; those left out are zero
(29 R412; 20 R291). -/
def timeLiteral (cs : List Char) : Option LTime :=
  let parts : Option (Nat × List Nat) := match splitChar ':' cs with
    | [e] => (wholeInt e).map fun e => (e, [])
    | [e, c] => do return (← wholeInt e, ← (splitChar '.' c).mapM wholeInt)
    | _ => none
  match parts with
  | some (e, c) =>
    if e ≤ 0xFFFFE && c.length ≤ 4 && c.all (· ≤ 2047) then
      some (packFields 64 [(44, 20, e), (33, 11, c.getD 0 0), (22, 11, c.getD 1 0), (11, 11, c.getD 2 0), (0, 11, c.getD 3 0)])
    else none
  | none => none

/-- The tokens of a line, without its comment; the first argument bounds their number. -/
def lexChars : Nat → List Char → Option (List BTok)
  | _, [] => some []
  | 0, _ => none
  | n + 1, c :: cs =>
    if c == ' ' || c == '\t' then lexChars n cs
    else if c == '/' then if cs.head? == some '/' then some [] else none
    else if c == '-' && cs.head? == some '>' then (lexChars n (cs.drop 1)).map (.arrow :: ·)
    else if c == '.' then
      let (w, r) := cs.span identChar
      if w.isEmpty then none else (lexChars n r).map (.dot (String.ofList w) :: ·)
    else if c.isDigit then
      match lexNumber (c :: cs) with
      | some (t, r) => (lexChars n r).map (t :: ·)
      | none => none
    else if c.isAlpha || c == '_' then
      let (w, r) := (c :: cs).span identChar
      if 63 < w.length then none
      else if w == ['t', 'i', 'm', 'e'] && r.head? == some '(' then
        let (b, r) := (r.drop 1).span (· != ')')
        match r, timeLiteral b with
        | _ :: r, some t => (lexChars n r).map (.time t :: ·)
        | _, _ => none
      else (lexChars n r).map (.word (String.ofList w) :: ·)
    else if [':', ',', '(', ')', '?', '+', '-'].contains c then (lexChars n cs).map (.sym c :: ·)
    else none

/-- The tokens of a source line. -/
def lexLine (s : String) : Option (List BTok) := lexChars (s.toList.length + 1) s.toList

/-- A name of the form of a register, port, plane, handle or LSID: its letter and its number (29 R412). -/
def regWord (s : String) : Option (Char × Nat) :=
  match s.toList with
  | c :: ds => if ['g', 'n', 'v', 'p', 'f', 'h', 'm'].contains c && !ds.isEmpty && ds.all Char.isDigit then some (c, digitsVal 10 ds) else none
  | [] => none

/-- An identifier (29 R412). -/
def identOf (s : String) : Option String := if (regWord s).isNone then some s else none

/-! ## Expressions (29 R413) -/

/-- An expression. A hexadecimal integer is marked: a float directive takes it for raw bits (29 R419). -/
inductive BExpr where
  | const (v : Int) (hex : Bool)
  | name (s : String)
  | offset (s : String) (off : Int)
  | diff (a b : String)
  deriving DecidableEq, Repr

/-- An expression at the front of some tokens. -/
def parseExpr : List BTok → Option (BExpr × List BTok)
  | .sym '-' :: .int v b _ :: r => some (.const (-(v : Int)) (b == 16), r)
  | .int v b _ :: r => some (.const v (b == 16), r)
  | .time t :: r => some (.const t.toNat false, r)
  | .word a :: .sym '+' :: .int v _ _ :: r => (identOf a).map fun a => (.offset a v, r)
  | .word a :: .sym '-' :: .int v _ _ :: r => (identOf a).map fun a => (.offset a (-(v : Int)), r)
  | .word a :: .sym '-' :: .word b :: r => do return (.diff (← identOf a) (← identOf b), r)
  | .word a :: r => (identOf a).map fun a => (.name a, r)
  | _ => none

/-- What an expression may name: the names of `.equ`, `.plane` and `.endpoint`, and the labels with the section in which each
stands and its address. -/
structure BEnv where
  names  : List (String × Int)
  labels : List (String × Nat × Nat)
  deriving DecidableEq, Repr

/-- Where a label stands. -/
def BEnv.label (env : BEnv) (s : String) : Option (Nat × Nat) := (env.labels.find? fun e => e.1 == s).map Prod.snd

/-- The value of an expression (29 R413). -/
def BExpr.eval (env : BEnv) : BExpr → Option Int
  | .const v _ => some v
  | .name s =>
    match env.names.find? fun e => e.1 == s with
    | some e => some e.2
    | none => (env.label s).map fun l => (l.2 : Int)
  | .offset s k => (env.label s).map fun l => (l.2 : Int) + k
  | .diff a b =>
    match env.label a, env.label b with
    | some x, some y => if x.1 == y.1 then some ((x.2 : Int) - y.2) else none
    | _, _ => none

/-- A value fits a field of n bits: as a signed or as an unsigned number (29 R413). -/
def fitsBits (n : Nat) (v : Int) : Bool := -(2 ^ (n - 1) : Int) ≤ v && v < 2 ^ n

/-- Expressions with commas between them, to the end of a line. -/
def parseExprs : Nat → List BTok → Option (List BExpr)
  | 0, _ => none
  | n + 1, ts =>
    match parseExpr ts with
    | some (e, []) => some [e]
    | some (e, .sym ',' :: r) => (parseExprs n r).map (e :: ·)
    | _ => none

/-! ## Slot lines (29 R414) -/

/-- An operand as it is written. -/
inductive BOpnd where
  /-- an integer, a label or a name -/
  | expr (e : BExpr)
  /-- `+imm` or `-imm` -/
  | signed (neg : Bool) (v : Nat)
  /-- gN, nN, vN, pN, fN, hN or mN -/
  | reg (cls : Char) (n : Nat)
  /-- nN.bp -/
  | bound (n : Nat)
  deriving DecidableEq, Repr

/-- A target as it is written. -/
inductive BTgt where
  | slot (k : Nat) (opnd : Char)
  | reg (cls : Char) (n : Nat)
  deriving DecidableEq, Repr

/-- A slot line. -/
structure SlotLine where
  slot : Nat
  mnem : String
  sufs : List String
  pm   : Pm
  ops  : List BOpnd
  tgts : List BTgt
  deriving DecidableEq, Repr

/-- The suffixes at the front of some tokens. -/
def parseSuffixes : List BTok → List String × List BTok
  | .dot s :: r => let (ss, r) := parseSuffixes r; (s :: ss, r)
  | r => ([], r)

/-- A predicate, if one stands here. -/
def parsePred : List BTok → Option (Pm × List BTok)
  | .sym '?' :: .word "t" :: r => some (.ifTrue, r)
  | .sym '?' :: .word "f" :: r => some (.ifFalse, r)
  | .sym '?' :: _ => none
  | r => some (.always, r)

/-- One operand. -/
def parseOpnd : List BTok → Option (BOpnd × List BTok)
  | .sym '+' :: .int v _ _ :: r => some (.signed false v, r)
  | .sym '-' :: .int v _ _ :: r => some (.signed true v, r)
  | .word w :: r =>
    match regWord w, r with
    | some ('n', k), .dot "bp" :: r => some (.bound k, r)
    | some (c, k), r => some (.reg c k, r)
    | none, r => some (.expr (.name w), r)
  | .int v b _ :: r => some (.expr (.const v (b == 16)), r)
  | _ => none

/-- The operands, with commas between them; an offset follows its LSID after a blank (11; 29 R414). -/
def parseOpnds : Nat → List BTok → Option (List BOpnd × List BTok)
  | 0, _ => none
  | _ + 1, [] => some ([], [])
  | _ + 1, .arrow :: r => some ([], .arrow :: r)
  | _ + 1, .sym '?' :: r => some ([], .sym '?' :: r)
  | n + 1, ts =>
    match parseOpnd ts with
    | none => none
    | some (o, .sym ',' :: r) =>
      match parseOpnds n r with
      | some (o' :: os, r) => some (o :: o' :: os, r)
      | _ => none
    | some (o, r) =>
      match r with
      | .sym '+' :: _ | .sym '-' :: _ => (parseOpnds n r).map fun x => (o :: x.1, x.2)
      | .sym '?' :: _ | .arrow :: _ | [] => some ([o], r)
      | _ => none

/-- The targets after the arrow: one, or two with a comma between them. -/
def parseTgts : List BTok → Option (List BTgt)
  | [] => some []
  | .arrow :: r =>
    let one : List BTok → Option (BTgt × List BTok)
      | .int k 10 d :: .dot s :: r =>
        match s.toList with
        | [c] => if d ≤ 2 && ['l', 'r', 'x', 'p'].contains c then some (.slot k c, r) else none
        | _ => none
      | .word w :: r => (regWord w).map fun x => (.reg x.1 x.2, r)
      | _ => none
    match one r with
    | some (t, []) => some [t]
    | some (t, .sym ',' :: r) =>
      match one r with
      | some (u, []) => some [t, u]
      | _ => none
    | _ => none
  | _ => none

/-- A slot line (29 R414): the predicate stands once, after the suffixes or after the last operand. -/
def parseSlotLine : List BTok → Option SlotLine
  | .int k 10 d :: .sym ':' :: .word m :: r => do
    guard (d ≤ 2 && k ≤ 63 && m.toList.all fun c => c.isUpper || c.isDigit)
    let (sufs, r) := parseSuffixes r
    let (p, r) ← parsePred r
    let (ops, r) ← parseOpnds (r.length + 1) r
    let (q, r) ← parsePred r
    guard (p == .always || q == .always)
    let tgts ← parseTgts r
    return ⟨k, m, sufs, if p == .always then q else p, ops, tgts⟩
  | _ => none

end Sys2Proof.Machine
end

