-- ==== Sys2Proof/Machine/BexasForm.lean ====
section
/-! DEFINITION. BexasForm: the instruction that a slot line writes, by the assembly form of each entry (chapters 05 and 10 to 28;
29 R414). A suffix that an instruction does not take, a missing one, and an operand outside its field are refused (10 R174). -/

namespace Sys2Proof.Machine

/-! ## Suffixes -/

/-- `.s` or `.z`. -/
def signSuffix : String → Option Bool
  | "s" => some true
  | "z" => some false
  | _ => none

/-- A size of a load (09 Table 9-9). -/
def sizeSuffix : String → Option Sz
  | "s8" => some .s8
  | "z8" => some .z8
  | "s16" => some .s16
  | "z16" => some .z16
  | "s32" => some .s32
  | "z32" => some .z32
  | "x64" => some .x64
  | "x128" => some .x128
  | _ => none

/-- A size of a store: `.z8`, `.z16`, `.z32`, `.x64` and `.x128` only (09 R136). -/
def storeSuffix (s : String) : Option Sz :=
  match sizeSuffix s with
  | some .s8 | some .s16 | some .s32 => none
  | z => z

/-- A sub-operation of an atomic (11 Table 11-4). -/
def atomSuffix : String → Option AtomSub
  | "add" => some .add
  | "and" => some .and
  | "or" => some .or
  | "xor" => some .xor
  | "mins" => some .mins
  | "minu" => some .minu
  | "maxs" => some .maxs
  | "maxu" => some .maxu
  | "xchg" => some .xchg
  | "fadd" => some .fadd
  | _ => none

/-- A type (13 Table 13-1). -/
def typeSuffix : String → Option FType
  | "f16" => some .f16
  | "bf16" => some .bf16
  | "f32" => some .f32
  | "f64" => some .f64
  | "vf16" => some .vf16
  | "vbf16" => some .vbf16
  | "vf32" => some .vf32
  | "vf64" => some .vf64
  | _ => none

/-- A type of many lanes. -/
def vecSuffix : String → Option VType
  | "vf16" => some .vf16
  | "vbf16" => some .vbf16
  | "vf32" => some .vf32
  | "vf64" => some .vf64
  | _ => none

/-- A rounding mode (03 Table 3-2). -/
def roundSuffix : String → Option Round
  | "rn" => some .rn
  | "rz" => some .rz
  | "rp" => some .rp
  | "rm" => some .rm
  | _ => none

/-- An integer type of CVTI and CVTF (13 R210). -/
def intSuffix : String → Option (IntWidth × Bool)
  | "s8" => some (.w8, true)
  | "z8" => some (.w8, false)
  | "s16" => some (.w16, true)
  | "z16" => some (.w16, false)
  | "s32" => some (.w32, true)
  | "z32" => some (.w32, false)
  | "s64" => some (.w64, true)
  | "z64" => some (.w64, false)
  | _ => none

/-- A part of a CVT, and no suffix for part 0 (13 R210). -/
def partSuffix : List String → Option (BitVec 2)
  | [] => some 0
  | ["p1"] => some 1
  | ["p2"] => some 2
  | ["p3"] => some 3
  | _ => none

/-- A width of a GX block (13 R211). -/
def gxSuffix : String → Option GxWidth
  | "gx2" => some .gx2
  | "gx4" => some .gx4
  | "gx7" => some .gx7
  | _ => none

/-- A matrix type (14). -/
def matSuffix : String → Option MatType
  | "f64" => some .f64
  | "f32" => some .f32
  | "f16" => some .f16
  | "bf16" => some .bf16
  | "gx" => some .gx
  | _ => none

/-- A tile buffer (14). -/
def bufSuffix : String → Option TileBuf
  | "ta0" => some .ta0
  | "ta1" => some .ta1
  | "tb0" => some .tb0
  | "tb1" => some .tb1
  | _ => none

/-- An accumulator name (14). -/
def accSuffix : String → Option (BitVec 2)
  | "acc0" => some 0
  | "acc1" => some 1
  | "acc2" => some 2
  | "acc3" => some 3
  | _ => none

/-- An exit number; writing nothing means `.e0` (18). -/
def exitSuffix : List String → Option (BitVec 3)
  | [] => some 0
  | [s] => match s.toList with
    | ['e', c] => if digitVal c < 8 then some (BitVec.ofNat 3 (digitVal c)) else none
    | _ => none
  | _ => none

/-- A queue (22). -/
def queueSuffix : String → Option Queue
  | "rast" => some .rast
  | "zb" => some .zb
  | "tess" => some .tess
  | "tfil" => some .tfil
  | "rtrav" => some .rtrav
  | "asb" => some .asb
  | _ => none

/-- What SITE delivers (15 Table 15-6). -/
def siteSuffix (s : String) : Option SiteSel :=
  match s with
  | "x" => some .x
  | "y" => some .y
  | "z" => some .z
  | "rule" => some .rule
  | "walls" => some .walls
  | "count" => some .count
  | _ => match s.toList with
    | ['i', 'n', c] => if digitVal c < 8 then some (.inp (BitVec.ofNat 3 (digitVal c))) else none
    | _ => none

/-- A scope of FENCE (11 Table 11-5). -/
def fenceSuffix : String → Option (BitVec 2 × FenceScope)
  | "firing" => some (0, .firing)
  | "node" => some (0, .node)
  | "group0" => some (0, .group)
  | "group1" => some (1, .group)
  | "group2" => some (2, .group)
  | "group3" => some (3, .group)
  | "region" => some (0, .region)
  | "device" => some (0, .device)
  | "system" => some (0, .system)
  | _ => none

/-- A system register by its name, with one digit at the end where the table numbers several (24 Table 24-12). -/
def sregNumber (s : String) : Option Nat :=
  match s with
  | "SYS_STATUS" => some 0x000
  | "SYS_TVEC" => some 0x001
  | "SYS_EPC" => some 0x002
  | "SYS_WDOG" => some 0x010
  | "SYS_REGION" => some 0x011
  | "SYS_GROUPS" => some 0x012
  | "SYS_MSTAT" => some 0x013
  | "SYS_STITCH" => some 0x014
  | "SYS_XROOT" => some 0x020
  | "SYS_LBACK" => some 0x021
  | "SYS_SAVE" => some 0x022
  | "SYS_SKEYL" => some 0x023
  | "SYS_SKEYH" => some 0x024
  | "SYS_PESEL" => some 0x02F
  | "SYS_LPTSEL" => some 0x030
  | "SYS_LPTE" => some 0x031
  | "SYS_GRPSEL" => some 0x032
  | "SYS_GRP" => some 0x033
  | "SYS_SBBSEL" => some 0x034
  | "SYS_SBBST" => some 0x035
  | "SYS_PLSEL" => some 0x036
  | "SYS_PLDESC" => some 0x037
  | "SYS_PLQ" => some 0x038
  | "SYS_LOCSEL" => some 0x03D
  | "SYS_LOCENT" => some 0x03E
  | "SYS_PORTSEL" => some 0x040
  | "SYS_PORTHEAD" => some 0x041
  | "SYS_PORTTIME" => some 0x042
  | "SYS_OPTSEL" => some 0x04B
  | "SYS_OPTENT" => some 0x04C
  | "SYS_SWSEL" => some 0x04D
  | "SYS_SWENT" => some 0x04E
  | "SYS_RRSTAT" => some 0x0E0
  | "SYS_RRDIG" => some 0x0E1
  | s =>
    let d := digitVal (s.toList.getLastD '0')
    match String.ofList s.toList.dropLast with
    | "SYS_TREC" => if d < 8 then some (0x008 + d) else none
    | "SYS_PLACT" => if d < 4 then some (0x039 + d) else none
    | "SYS_PORTDATA" => if d < 8 then some (0x043 + d) else none
    | _ => none

/-! ## What a line stands in -/

/-- The place of a slot line: the kind of its block, the address of the block's header, and the names. -/
structure BPlace where
  kind   : BlockKind
  header : Nat
  env    : BEnv

/-- A target in its block (09 Table 9-10). -/
def BTgt.tgt (kind : BlockKind) : BTgt → Option Tgt
  | .slot k c =>
    if k ≤ 63 then
      let n := BitVec.ofNat 6 k
      match c with
      | 'l' => some (.opL n)
      | 'r' => some (.opR n)
      | 'x' => some (.opX n)
      | 'p' => some (.pred n)
      | _ => none
    else none
  | .reg c n =>
    match c, kind with
    | 'g', .control => if n < 64 then some (.reg (BitVec.ofNat 6 n)) else none
    | 'n', .node => if n < 16 then some (.reg (BitVec.ofNat 6 n)) else none
    | 'v', .node => if n < 8 then some (.reg (BitVec.ofNat 6 (16 + n))) else none
    | 'p', .node => if n < 64 then some (.port (BitVec.ofNat 6 n)) else none
    | 'p', .rule => if n < 64 then some (.port (BitVec.ofNat 6 n)) else none
    | _, _ => none

/-- Two targets at most. -/
def SlotLine.two (l : SlotLine) (pl : BPlace) : Option (Tgt × Tgt) := do
  match ← l.tgts.mapM (BTgt.tgt pl.kind) with
  | [] => return (.none, .none)
  | [t] => return (t, .none)
  | [t, u] => return (t, u)
  | _ => none

/-- One target at most. -/
def SlotLine.one (l : SlotLine) (pl : BPlace) : Option Tgt := do
  match ← l.two pl with
  | (t, .none) => return t
  | _ => none

/-- No target. -/
def SlotLine.zero (l : SlotLine) : Option PUnit := guard l.tgts.isEmpty

/-- No operand is written. -/
def SlotLine.bare (l : SlotLine) : Option PUnit := guard l.ops.isEmpty

/-- An instruction that cannot be predicated (09 R135). -/
def SlotLine.always (l : SlotLine) : Option PUnit := guard (l.pm == .always)

/-- The value of an immediate: an integer, which may be negative, or a name of `.equ`; a time never stands there (29 R412). -/
def immediate (pl : BPlace) : List BOpnd → Option Int
  | [.expr (.const v _)] => some v
  | [.expr (.name s)] => (pl.env.names.find? fun e => e.1 == s).map Prod.snd
  | [.signed true v] => some (-(v : Int))
  | _ => none

/-- An immediate within its bounds, in a field of n bits (10 R174). -/
def SlotLine.imm (l : SlotLine) (pl : BPlace) (n : Nat) (lo hi : Int) : Option (BitVec n) := do
  let v ← immediate pl l.ops
  guard (lo ≤ v && v ≤ hi)
  return BitVec.ofInt n v

/-- An offset in bytes. -/
def BOpnd.offset? : BOpnd → Option Int
  | .signed neg v => some (if neg then -(v : Int) else v)
  | _ => none

/-- An offset over its scale, in a signed field of n bits (11; 11 Table 11-1). -/
def scaledOffset (n k : Nat) (v : Int) : Option (BitVec n) := do
  guard (v % k == 0 && -(2 ^ (n - 1) : Int) ≤ v / k && v / k < 2 ^ (n - 1))
  return BitVec.ofInt n (v / k)

/-- An LSID and an offset over its scale (11). -/
def SlotLine.access (l : SlotLine) (n k : Nat) : Option (BitVec 4 × BitVec n) := do
  match l.ops with
  | [.reg 'm' i, o] =>
    guard (i < 16)
    return (BitVec.ofNat 4 i, ← scaledOffset n k (← o.offset?))
  | _ => none

/-- The one register that a line names, of a class, within a bound. -/
def SlotLine.regOf (l : SlotLine) (c : Char) (n : Nat) : Option Nat :=
  match l.ops with
  | [.reg d k] => if c == d && k < n then some k else none
  | _ => none

/-- The plane that a line names: fN, or a name of `.plane` (29 R416). -/
def SlotLine.plane (l : SlotLine) (pl : BPlace) : Option (BitVec 4) :=
  match l.ops with
  | [.expr (.name s)] => (pl.env.names.find? fun e => e.1 == s).bind fun e => if 0 ≤ e.2 && e.2 < 16 then some (BitVec.ofInt 4 e.2) else none
  | _ => (l.regOf 'f' 16).map (BitVec.ofNat 4)

/-- A branch to a label: the offset in words from this block's header (18 R276). -/
def SlotLine.branch (l : SlotLine) (pl : BPlace) : Option (BitVec 20) :=
  match l.ops with
  | [.expr (.name s)] => (pl.env.label s).bind fun a => scaledOffset 20 4 ((a.2 : Int) - pl.header)
  | _ => none

/-! ## The forms, family by family -/

/-- Moves, registers, ports, control flow and FENCE (10; 12; 18; 11 R188). -/
def moveForm (pl : BPlace) (l : SlotLine) : Option Instr :=
  match l.mnem, l.sufs with
  | "READ", ss => do
    l.always
    let fe ← match ss with
      | [] => some false
      | ["nw"] => some true
      | _ => none
    let r ← match pl.kind, l.ops with
      | .control, [.reg 'g' n] => if n < 64 then some n else none
      | .node, [.reg 'n' n] => if n < 16 then some n else none
      | .node, [.reg 'v' n] => if n < 8 then some (16 + n) else none
      | _, _ => none
    let (t, u) ← l.two pl
    return .read (BitVec.ofNat 6 r) fe t u
  | "MOV", [] => do l.bare; let (t, u) ← l.two pl; return .mov l.pm t u
  | "MOVI", [] => do return .movi l.pm (← l.one pl) (← l.imm pl 14 (-8192) 8191)
  | "MOVIS", [] => do return .movis l.pm (← l.one pl) (← l.imm pl 14 0 16383)
  | "NULL", [] => do l.bare; let (t, u) ← l.two pl; return .null l.pm t u
  | "RECV", [] => do l.always; let (t, u) ← l.two pl; return .recv (BitVec.ofNat 6 (← l.regOf 'p' 64)) t u
  | "RECVK", [] => do l.always; let (t, u) ← l.two pl; return .recvk (BitVec.ofNat 6 (← l.regOf 'p' 64)) t u
  | "RECVO", [] => do l.always; let (t, u) ← l.two pl; return .recvo (BitVec.ofNat 6 (← l.regOf 'p' 64)) t u
  | "JOIN", [m] => do
    l.always
    let mode ← match m with
      | "isect" => some JoinMode.isect
      | "union" => some .union
      | "sub" => some .sub
      | "madd" => some .madd
      | "less" => some .less
      | _ => none
    match l.ops with
    | [.reg 'p' a, .reg 'p' b] =>
      guard (a < 64 && b < 64)
      return .join (BitVec.ofNat 6 a) (BitVec.ofNat 6 b) mode (← l.one pl)
    | _ => none
  | "BRO", ss => do l.zero; return .bro l.pm (← exitSuffix ss) (← l.branch pl)
  | "CALLO", ss => do l.zero; return .callo l.pm (← exitSuffix ss) (← l.branch pl)
  | "BRI", ss => do l.zero; l.bare; return .bri l.pm (← exitSuffix ss)
  | "RETB", ss => do l.zero; l.bare; return .retb l.pm (← exitSuffix ss)
  | "HALT", [] => do l.zero; l.bare; return .halt l.pm
  | "FENCE", [s] => do l.zero; l.bare; let (g, sc) ← fenceSuffix s; return .fence l.pm g sc
  | _, _ => none

/-- Integer instructions (10). -/
def integerForm (pl : BPlace) (l : SlotLine) : Option Instr :=
  let plain (mk : Pm → Tgt → Tgt → Instr) : Option Instr := do l.bare; let (t, u) ← l.two pl; return mk l.pm t u
  let signed (s : String) (mk : Pm → Tgt → Tgt → Bool → Instr) : Option Instr := do
    l.bare; let (t, u) ← l.two pl; return mk l.pm t u (← signSuffix s)
  let imm14 (mk : Pm → Tgt → BitVec 14 → Instr) : Option Instr := do return mk l.pm (← l.one pl) (← l.imm pl 14 (-8192) 8191)
  let shift (mk : Pm → Tgt → BitVec 6 → Instr) : Option Instr := do return mk l.pm (← l.one pl) (← l.imm pl 6 0 63)
  let sub (mk : Pm → Tgt → Tgt → Instr) : Option Instr := plain mk
  let imm11 (c : CondI) (lo hi : Int) : Option Instr := do return .cmpi l.pm (← l.one pl) c (← l.imm pl 11 lo hi)
  match l.mnem, l.sufs with
  | "ADD", [] => plain .add
  | "SUB", [] => plain .sub
  | "MUL", [] => plain .mul
  | "MULH", [s] => signed s .mulh
  | "DIV", [s] => signed s .div
  | "REM", [s] => signed s .rem
  | "AND", [] => plain .and
  | "OR", [] => plain .or
  | "XOR", [] => plain .xor
  | "ANDN", [] => plain .andn
  | "SHL", [] => plain .shl
  | "SHR", [] => plain .shr
  | "SRA", [] => plain .sra
  | "ROT", [] => plain .rot
  | "MIN", [s] => signed s .min
  | "MAX", [s] => signed s .max
  | "ABSNEG", ["abs"] => sub fun p t u => .absneg p t u .abs
  | "ABSNEG", ["neg"] => sub fun p t u => .absneg p t u .neg
  | "BITC", ["clz"] => sub fun p t u => .bitc p t u .clz
  | "BITC", ["ctz"] => sub fun p t u => .bitc p t u .ctz
  | "BITC", ["popc"] => sub fun p t u => .bitc p t u .popc
  | "EXT", ["s8"] => sub fun p t u => .ext p t u .w8 true
  | "EXT", ["s16"] => sub fun p t u => .ext p t u .w16 true
  | "EXT", ["s32"] => sub fun p t u => .ext p t u .w32 true
  | "EXT", ["z8"] => sub fun p t u => .ext p t u .w8 false
  | "EXT", ["z16"] => sub fun p t u => .ext p t u .w16 false
  | "EXT", ["z32"] => sub fun p t u => .ext p t u .w32 false
  | "BFX", [s] => signed s .bfx
  | "BFI", [] => plain .bfi
  | "SEL", [] => sub fun p t u => .sel p t u false
  | "SEL", ["nz"] => sub fun p t u => .sel p t u true
  | "CMP", ["eq"] => sub fun p t u => .cmp p t u .eq false
  | "CMP", ["ne"] => sub fun p t u => .cmp p t u .ne false
  | "CMP", ["tst"] => sub fun p t u => .cmp p t u .tst false
  | "CMP", ["lt", s] => signed s fun p t u sg => .cmp p t u .lt sg
  | "CMP", ["le", s] => signed s fun p t u sg => .cmp p t u .le sg
  | "CMP", ["gt", s] => signed s fun p t u sg => .cmp p t u .gt sg
  | "CMP", ["ge", s] => signed s fun p t u sg => .cmp p t u .ge sg
  | "ADDI", [] => imm14 .addi
  | "ANDI", [] => imm14 .andi
  | "ORI", [] => imm14 .ori
  | "XORI", [] => imm14 .xori
  | "MULI", [] => imm14 .muli
  | "SHLI", [] => shift .shli
  | "SHRI", [] => shift .shri
  | "SRAI", [] => shift .srai
  | "CMPI", ["eq"] => imm11 .eq (-1024) 1023
  | "CMPI", ["ne"] => imm11 .ne (-1024) 1023
  | "CMPI", ["lt", "s"] => imm11 .ltS (-1024) 1023
  | "CMPI", ["ge", "s"] => imm11 .geS (-1024) 1023
  | "CMPI", ["le", "s"] => imm11 .leS (-1024) 1023
  | "CMPI", ["gt", "s"] => imm11 .gtS (-1024) 1023
  | "CMPI", ["lt", "z"] => imm11 .ltZ 0 2047
  | "CMPI", ["ge", "z"] => imm11 .geZ 0 2047
  | _, _ => none

/-- Capabilities and memory (05; 11). -/
def memoryForm (pl : BPlace) (l : SlotLine) : Option Instr :=
  let xlate (wr nf : Bool) : Option Instr := do l.bare; let (t, u) ← l.two pl; return .xlate l.pm t u wr nf
  let load (s : String) (mk : Pm → Tgt → BitVec 4 → Sz → BitVec 7 → Instr) : Option Instr := do
    let z ← sizeSuffix s
    let (i, o) ← l.access 7 (szBytes z)
    return mk l.pm (← l.one pl) i z o
  let store (s : String) (mk : Pm → BitVec 4 → Sz → BitVec 7 → Instr) : Option Instr := do
    l.zero
    let z ← storeSuffix s
    let (i, o) ← l.access 7 (szBytes z)
    return mk l.pm i z o
  let wload (mk : Pm → Tgt → BitVec 4 → BitVec 7 → Instr) : Option Instr := do
    let (i, o) ← l.access 7 64
    return mk l.pm (← l.one pl) i o
  let wstore (mk : Pm → BitVec 4 → BitVec 7 → Instr) : Option Instr := do
    l.zero
    let (i, o) ← l.access 7 64
    return mk l.pm i o
  let atomic (op s : String) (mk : Pm → Tgt → BitVec 4 → Sz → AtomSub → BitVec 3 → Instr) : Option Instr := do
    let z ← sizeSuffix s
    let (i, o) ← l.access 3 (szBytes z)
    return mk l.pm (← l.one pl) i z (← atomSuffix op) o
  let ldlw (q : Bool) (s : String) : Option Instr := do
    let z ← sizeSuffix s
    let (i, o) ← l.access 6 (szBytes z)
    return .ldlw l.pm (← l.one pl) i z q o
  let stlf (q : Bool) (s : String) : Option Instr := do
    l.zero
    let z ← storeSuffix s
    let (i, o) ← l.access 6 (szBytes z)
    return .stlf l.pm i z q o
  match l.mnem, l.sufs with
  | "XLATE", [] => xlate false false
  | "XLATE", ["w"] => xlate true false
  | "XLATE", ["nf"] => xlate false true
  | "XLATE", ["w", "nf"] => xlate true true
  | "PAADD", [] => do l.bare; let (t, u) ← l.two pl; return .paadd l.pm t u
  | "PAOFF", [] => do
    match l.ops with
    | [o] => return .paoff l.pm (← l.one pl) (← scaledOffset 14 1 (← o.offset?))
    | _ => none
  | "LD", [s] => load s .ld
  | "ST", [s] => store s .st
  | "LDV", ["x128"] => wload .ldv
  | "STV", ["x128"] => wstore .stv
  | "LDL", [s] => load s .ldl
  | "STL", [s] => store s .stl
  | "LDLW", ["k", s] => ldlw false s
  | "LDLW", ["c", s] => ldlw true s
  | "STLF", [s] => stlf false s
  | "STLF", ["w", s] => stlf true s
  | "LDLV", ["x128"] => wload .ldlv
  | "STLV", ["x128"] => wstore .stlv
  | "ATOM", [op, s] => atomic op s .atom
  | "ATOML", [op, s] => atomic op s .atoml
  | "CAS", [s] => load s .cas
  | _, _ => none

/-- Streams, buffers, AG nodes and endpoints (12). -/
def streamForm (pl : BPlace) (l : SlotLine) : Option Instr :=
  let handle : Option (BitVec 5) := (l.regOf 'h' 32).map (BitVec.ofNat 5)
  let quiet (mk : Pm → BitVec 5 → Instr) : Option Instr := do l.zero; return mk l.pm (← handle)
  let giving (mk : Pm → Tgt → Tgt → BitVec 5 → Instr) : Option Instr := do let (t, u) ← l.two pl; return mk l.pm t u (← handle)
  match l.mnem, l.sufs with
  | "BUFDEF", [] => quiet .bufdef
  | "BUFGET", [] => giving .bufget
  | "BUFPUT", [] => quiet .bufput
  | "BUFSTAT", [] => giving .bufstat
  | "CPYOPEN", [] => quiet .cpyopen
  | "CPYCLOSE", [] => quiet .cpyclose
  | "CPYWAIT", [] => giving .cpywait
  | "GATHER", [s] => do l.bare; let (t, u) ← l.two pl; return .gather l.pm t u (← sizeSuffix s)
  | "SCATTER", [s] => do l.zero; l.bare; return .scatter l.pm (← storeSuffix s)
  | "EPATOM", [s] => do l.bare; let (t, u) ← l.two pl; return .epatom l.pm t u (← atomSuffix s)
  | "EPFENCE", [] => do l.zero; l.bare; return .epfence l.pm
  | "LMSTREAM", ["src"] => do l.bare; let t ← l.one pl; guard t.isPort; return .lmstream l.pm t
  | "LMSTREAM", ["snk"] => do l.zero; l.bare; return .lmstream l.pm .none
  | _, _ => none

/-- Floating point, conversions and vectors (13). -/
def floatForm (pl : BPlace) (l : SlotLine) : Option Instr :=
  let round (ty rm : String) (mk : Pm → Tgt → Tgt → FType → Round → Instr) : Option Instr := do
    l.bare; let (t, u) ← l.two pl; return mk l.pm t u (← typeSuffix ty) (← roundSuffix rm)
  let typed (ty : String) (mk : Pm → Tgt → Tgt → FType → Instr) : Option Instr := do
    l.bare; let (t, u) ← l.two pl; return mk l.pm t u (← typeSuffix ty)
  let vector (ty : String) (mk : Pm → Tgt → Tgt → VType → Instr) : Option Instr := do
    l.bare; let (t, u) ← l.two pl; return mk l.pm t u (← vecSuffix ty)
  let conv (mk : Pm → Tgt → Option Instr) : Option Instr := do l.bare; mk l.pm (← l.one pl)
  match l.mnem, l.sufs with
  | "FADD", [ty, rm] => round ty rm .fadd
  | "FSUB", [ty, rm] => round ty rm .fsub
  | "FMUL", [ty, rm] => round ty rm .fmul
  | "FMA", [ty, rm] => round ty rm .fma
  | "FDIV", [ty, rm] => round ty rm .fdiv
  | "FSQRT", [ty, rm] => round ty rm .fsqrt
  | "FRSQ", [ty, rm] => round ty rm .frsq
  | "FRND", [ty, rm] => round ty rm .frnd
  | "FEXP2", [ty, rm] => round ty rm .fexp2
  | "FLOG2", [ty, rm] => round ty rm .flog2
  | "FMINMAX", ["min", ty] => typed ty fun p t u y => .fminmax p t u y .min
  | "FMINMAX", ["max", ty] => typed ty fun p t u y => .fminmax p t u y .max
  | "FMINMAX", ["minp", ty] => typed ty fun p t u y => .fminmax p t u y .minp
  | "FMINMAX", ["maxp", ty] => typed ty fun p t u y => .fminmax p t u y .maxp
  | "FCMP", ["eq", ty] => typed ty fun p t u y => .fcmp p t u y .eq
  | "FCMP", ["lt", ty] => typed ty fun p t u y => .fcmp p t u y .lt
  | "FCMP", ["le", ty] => typed ty fun p t u y => .fcmp p t u y .le
  | "FCMP", ["un", ty] => typed ty fun p t u y => .fcmp p t u y .un
  | "FCLASS", [ty] => typed ty .fclass
  | "FSIGN", ["cpy", ty] => typed ty fun p t u y => .fsign p t u y .cpy
  | "FSIGN", ["ncpy", ty] => typed ty fun p t u y => .fsign p t u y .ncpy
  | "FSIGN", ["xsgn", ty] => typed ty fun p t u y => .fsign p t u y .xsgn
  | "CVT", src :: dst :: "rsd" :: pt => conv fun p t => do
    return .cvt p t (← typeSuffix dst) true (← partSuffix pt) (← typeSuffix src) .rn
  | "CVT", src :: dst :: rm :: pt => conv fun p t => do
    return .cvt p t (← typeSuffix dst) false (← partSuffix pt) (← typeSuffix src) (← roundSuffix rm)
  | "CVTI", [src, dst, rm] => conv fun p t => do
    let (w, sg) ← intSuffix dst
    return .cvti p t w sg (← typeSuffix src) (← roundSuffix rm)
  | "CVTF", [src, dst, rm] => conv fun p t => do
    let (w, sg) ← intSuffix src
    return .cvtf p t w sg (← typeSuffix dst) (← roundSuffix rm)
  | "GXPACK", [g, "vf32"] => do l.bare; let (t, u) ← l.two pl; return .gxpack l.pm t u (← gxSuffix g)
  | "GXUNP", [g, ty] => do l.bare; let (t, u) ← l.two pl; return .gxunp l.pm t u (← typeSuffix ty) (← gxSuffix g)
  | "VRED", [ty, rm] => do let r ← roundSuffix rm; vector ty fun p t u y => .vred p t u y r
  | "VSHUF", ["perm", ty] => vector ty fun p t u y => .vshuf p t u y false
  | "VSHUF", ["rot", ty] => vector ty fun p t u y => .vshuf p t u y true
  | "VBCAST", [ty] => vector ty .vbcast
  | "VLANE", ["get", ty] => vector ty fun p t u y => .vlane p t u y false
  | "VLANE", ["put", ty] => vector ty fun p t u y => .vlane p t u y true
  | "VDOT", ["a", ty, rm] => do
    let y ← match ← vecSuffix ty with
      | .vf16 => some FType.f16
      | .vbf16 => some .bf16
      | .vf32 => some .f32
      | .vf64 => some .f64
    l.bare; let (t, u) ← l.two pl; return .vdot l.pm t u y (← roundSuffix rm)
  | "VDOT", [ty, rm] => do
    let _ ← vecSuffix ty
    round ty rm .vdot
  | _, _ => none

/-- The matrix unit, the lattice and coprocessor calls (14; 15; 22). -/
def unitForm (pl : BPlace) (l : SlotLine) : Option Instr :=
  let still (mk : Pm → Option Instr) : Option Instr := do l.zero; l.bare; mk l.pm
  let giving (mk : Pm → Tgt → Tgt → Instr) : Option Instr := do l.bare; let (t, u) ← l.two pl; return mk l.pm t u
  match l.mnem, l.sufs with
  | "MLDA", [ty, "ta0"] => still fun p => do return .mlda p (← matSuffix ty) false
  | "MLDA", [ty, "ta1"] => still fun p => do return .mlda p (← matSuffix ty) true
  | "MLDB", [ty, "tb0"] => still fun p => do return .mldb p (← matSuffix ty) false
  | "MLDB", [ty, "tb1"] => still fun p => do return .mldb p (← matSuffix ty) true
  | "MLDL", [ty, b] => still fun p => do return .mldl p (← matSuffix ty) (← bufSuffix b)
  | "MMA", ["z", ty] => still fun p => do return .mma p (← matSuffix ty) .z
  | "MMA", ["k", ty] => still fun p => do return .mma p (← matSuffix ty) .k
  | "MMA", ["d", ty] => still fun p => do return .mma p (← matSuffix ty) .d
  | "MST", [ty, a] => still fun p => do return .mst p (← matSuffix ty) (← accSuffix a)
  | "MREL", [ty, a] => do l.bare; return .mrel l.pm (← l.one pl) (← matSuffix ty) (← accSuffix a)
  | "MJOB", [ty, a] => still fun p => do return .mjob p (← matSuffix ty) (← accSuffix a)
  | "CTR", [] => do
    let (bp, n) ← match l.ops with
      | [.reg 'n' n] => some (false, n)
      | [.bound n] => some (true, n)
      | _ => none
    guard (n < 16)
    let (t, u) ← l.two pl
    return .ctr l.pm t u bp (BitVec.ofNat 4 n)
  | "PLDEF", [] => do l.zero; return .pldef l.pm (← l.plane pl)
  | "PSHIFT", [] => still fun p => some (.pshift p false)
  | "PSHIFT", ["c"] => still fun p => some (.pshift p true)
  | "PSTEP", [] => still fun p => some (.pstep p)
  | "PACT", ["get"] => giving fun p t u => .pact p t u .get
  | "PACT", ["act"] => still fun p => some (.pact p .none .none .act)
  | "PACT", ["adopt"] => still fun p => some (.pact p .none .none .adopt)
  | "PACT", ["deact"] => still fun p => some (.pact p .none .none .deact)
  | "PACT", ["tidy"] => still fun p => some (.pact p .none .none .tidy)
  | "PSUM", ["sum"] => giving fun p t u => .psum p t u .sum
  | "PSUM", ["max"] => giving fun p t u => .psum p t u .max
  | "PSUM", ["min"] => giving fun p t u => .psum p t u .min
  | "PCOPY", ["copy"] => still fun p => some (.pcopy p .copy)
  | "PCOPY", ["swap"] => still fun p => some (.pcopy p .swap)
  | "LMARCH", [] => do let (t, u) ← l.two pl; return .lmarch l.pm t u (← l.plane pl)
  | "SITE", [s] => do let k ← siteSuffix s; giving fun p t u => .site p t u k
  | "CALLQ", [q] => still fun p => do return .callq p (← queueSuffix q) false
  | "CALLQ", [q, "ord"] => still fun p => do return .callq p (← queueSuffix q) true
  | _, _ => none

/-- Logical time, the section commands and the system (18; 20; 24; 26). -/
def systemForm (pl : BPlace) (l : SlotLine) : Option Instr :=
  let still (mk : Pm → Instr) : Option Instr := do l.zero; l.bare; return mk l.pm
  let giving (mk : Pm → Tgt → Tgt → Instr) : Option Instr := do l.bare; let (t, u) ← l.two pl; return mk l.pm t u
  let register : Option (BitVec 13) := match l.ops with
    | [.expr (.name s)] => (sregNumber s).map (BitVec.ofNat 13)
    | _ => none
  match l.mnem, l.sufs with
  | "TIME", ["now"] => giving .timeNow
  | "TIME", ["cmp"] => giving .timeCmp
  | "TIME", ["make"] => giving .timeMake
  | "TIME", ["field"] => giving .timeField
  | "FRONT", ["read"] => giving .frontRead
  | "FRONT", ["wait"] => giving .frontWait
  | "WAITF", [] => giving .frontWait
  | "FRONT", ["subscribe"] => still .frontSubscribe
  | "TCAP", ["new"] => giving .tcapNew
  | "TCAP", ["advance"] => still .tcapAdvance
  | "TCAP", ["drop"] => still .tcapDrop
  | "SYS", ["trap"] => still .sysTrap
  | "SYS", ["eret"] => still .sysEret
  | "SYS", ["bkpt"] => still .sysBkpt
  | "SYS", ["featq"] => giving .sysFeatq
  | "SYS", ["wdog"] => giving .sysWdog
  | "SYS", ["pmonctl"] => still .sysPmonctl
  | "SYS", ["pmonrd"] => giving .sysPmonrd
  | "SYS", ["rrmark"] => still .sysRrmark
  | "SYS", ["tlbinv"] => still .sysTlbinv
  | "SYS", ["csload"] => still .sysCsload
  | "SREG", ["rd"] => do return .sregRd l.pm (← l.one pl) (← register)
  | "SREG", ["wr"] => do l.zero; return .sregWr l.pm (← register)
  | "SECT", ["cfgload"] => still .sectCfgload
  | "SECT", ["arm"] => still .sectArm
  | "SECT", ["bound"] => still .sectBound
  | "SECT", ["drain"] => still .sectDrain
  | "SECT", ["sinkw"] => giving .sectSinkw
  | "SECT", ["release"] => still .sectRelease
  | "SECT", ["gred"] => giving .sectGred
  | "SECT", ["gbcast"] => still .sectGbcast
  | _, _ => none

/-- The instruction of a slot line. The whole block's checks come with the block (09 R160; 29 R421). -/
def SlotLine.instr (pl : BPlace) (l : SlotLine) : Option Instr := do
  let i ← moveForm pl l <|> integerForm pl l <|> memoryForm pl l <|> streamForm pl l <|> floatForm pl l <|> unitForm pl l <|>
    systemForm pl l
  guard i.wellFormed
  return i

end Sys2Proof.Machine
end

