-- ==== Sys2Proof/Machine/BexasBlock.lean ====
section
/-! DEFINITION. BexasBlock: how bexas assembles a block and fills in its header (29 R414, R415), and its data directives
(29 R419). -/

namespace Sys2Proof.Machine

/-! ## Counting a block (29 R415) -/

/-- The deliveries of an instruction to register and output-port targets; those that are none of the firing are left out. -/
def countedOut (i : Instr) : Nat :=
  match i with
  | .mrel _ _ _ _ | .lmstream _ _ => 0
  | i => ((targetsOf i).filter fun t => t.isReg || t.isPort).length

/-- Whether an instruction counts toward NST. -/
def countedStore (i : Instr) : Nat := if storeClass i then 1 else 0

/-- The slots that feed the predicate of a slot. -/
def predFeeders (is : List Instr) (k : Nat) : List Nat :=
  (is.zipIdx.filter fun e => (targetsOf e.1).contains (.pred (BitVec.ofNat 6 k))).map Prod.snd

/-- An instruction is predicated. -/
def predicated (i : Instr) : Bool := predMode i != some .always

/-- The count of a block: each unpredicated instruction once, and for each slot that feeds predicates the larger of the
counts of its `?t` and its `?f` members; none where such a producer is itself predicated. -/
def countBlock (is : List Instr) (count : Instr → Nat) : Option Nat :=
  let ps := (is.zipIdx.filter fun e => predicated e.1).map fun e => (e.1, predFeeders is e.2)
  if ps.any fun e => e.2.any fun k => match is[k]? with
    | some i => predicated i
    | none => true
  then none
  else
    let plain := ((is.filter fun i => !predicated i).map count).sum
    let side (g : List Nat) (m : Pm) : Nat := ((ps.filter fun e => e.2 == g && predMode e.1 == some m).map fun e => count e.1).sum
    some (plain + (((ps.map Prod.snd).filter fun g => !g.isEmpty).eraseDups.map fun g => max (side g .ifTrue) (side g .ifFalse)).sum)

/-! ## A block -/

/-- A block as it is written: its directive, a `.counts` line and its slot lines. -/
structure BBlock where
  kind   : BlockKind
  name   : String
  counts : Option (Nat × Nat)
  lines  : List SlotLine
  deriving DecidableEq, Repr

/-- The code of KIND. -/
def BlockKind.code : BlockKind → Nat
  | .control => 0
  | .node => 1
  | .rule => 2

/-- The header of a block (09 R133; 29 R415). -/
def blockHeader (kind : BlockKind) (counts : Option (Nat × Nat)) (is : List Instr) : Option Word := do
  let (nout, nst) ← match counts with
    | some c => some c
    | none => (countBlock is countedOut).bind fun a => (countBlock is countedStore).map fun b => (a, b)
  guard (!is.isEmpty && is.length ≤ 64 && nout ≤ 15 && nst ≤ 15)
  let feats := (is.filterMap featureOf).eraseDups
  return packFields 32 ([(30, 2, kind.code), (24, 6, is.length - 1), (20, 4, nout), (16, 4, nst)] ++ feats.map fun b => (b, 1, 1))

/-- The slots of a block begin at 0 and rise by one with each line. -/
def slotsInOrder (ls : List SlotLine) : Bool := ls.map SlotLine.slot == List.range ls.length

/-- The words of a block at an address: its header and its slots; none where a line or the block breaks a rule (29 R421). -/
def BBlock.words (b : BBlock) (env : BEnv) (addr : Nat) : Option (List Word) := do
  guard (slotsInOrder b.lines)
  let is ← b.lines.mapM (SlotLine.instr ⟨b.kind, addr, env⟩)
  let h ← blockHeader b.kind b.counts is
  let ws := is.map encode
  guard (blockFault b.kind h ws).isNone
  return h :: ws

/-- The words that a block takes. -/
def BBlock.size (b : BBlock) : Nat := 1 + b.lines.length

/-! ## Floats (29 R419) -/

/-- A value of a float directive: a decimal, an infinity, the default NaN, or raw bits. -/
inductive BFloat where
  | dec (neg : Bool) (m : Nat) (e10 : Int)
  | inf (neg : Bool)
  | nan
  | raw (v : Nat)
  deriving DecidableEq, Repr

/-- A float value at the front of some tokens. -/
def parseFloat : List BTok → Option (BFloat × List BTok)
  | .sym '-' :: .word "inf" :: r => some (.inf true, r)
  | .word "inf" :: r => some (.inf false, r)
  | .word "nan" :: r => some (.nan, r)
  | .sym '-' :: .float m e :: r => some (.dec true m e, r)
  | .float m e :: r => some (.dec false m e, r)
  | .sym '-' :: .int v 10 _ :: r => some (.dec true v 0, r)
  | .int v 10 _ :: r => some (.dec false v 0, r)
  | .int v 16 _ :: r => some (.raw v, r)
  | _ => none

/-- Float values with commas between them, to the end of a line. -/
def parseFloats : Nat → List BTok → Option (List BFloat)
  | 0, _ => none
  | n + 1, ts =>
    match parseFloat ts with
    | some (v, []) => some [v]
    | some (v, .sym ',' :: r) => (parseFloats n r).map (v :: ·)
    | _ => none

/-- A decimal rounded once to a format with rn. Its digits beyond any place that can matter are kept as one sticky bit below. -/
def Fmt.roundDecimal (f : Fmt) (neg : Bool) (m : Nat) (e10 : Int) : Nat :=
  if 0 ≤ e10 then (f.round .rn neg (m * 10 ^ e10.toNat) 0).1
  else
    let d := 10 ^ (-e10).toNat
    let p := 2 ^ f.eb + 2 * f.fb + 4 * (-e10).toNat + 64
    let q := m * 2 ^ p / d
    (f.round .rn neg (2 * q + if m * 2 ^ p % d = 0 then 0 else 1) (-(p : Int) - 1)).1

/-- The bits of a float value in a format; a value that would round to infinity is refused. -/
def BFloat.code (f : Fmt) : BFloat → Option Nat
  | .dec neg m e => do
    let c := f.roundDecimal neg m e
    guard (c % 2 ^ (f.width - 1) < f.infCode)
    return c
  | .inf neg => some (f.signed neg f.infCode)
  | .nan => some f.nanCode
  | .raw v => if v < 2 ^ f.width then some v else none

/-- The bytes of 16 values as a GX block (03 R48). -/
def gxBytes (w : Nat) (vs : List BFloat) : Option (List Byte) := do
  let cs ← vs.mapM (BFloat.code fp32)
  return leBytes (2 + 2 * w) (gxPack w (gxEncode w (cs.map fp32.decode)).1)

/-- Values in groups of 16; a count that is no multiple of 16 is refused. -/
def gxGroups (w : Nat) : Nat → List BFloat → Option (List Byte)
  | _, [] => some []
  | 0, _ => none
  | n + 1, vs => do
    guard (16 ≤ vs.length)
    return (← gxBytes w (vs.take 16)) ++ (← gxGroups w n (vs.drop 16))

/-! ## Data lines (29 R419) -/

/-- A line of a data section. -/
inductive BData where
  | label (s : String)
  | align (n : Nat)
  /-- `.b8` to `.b64`: the bytes of each value -/
  | ints (bytes : Nat) (es : List BExpr)
  | floats (f : Fmt) (vs : List BFloat)
  | gx (w : Nat) (vs : List BFloat)
  deriving DecidableEq, Repr

/-- A data directive by its name and its tokens. -/
def parseData (dir : String) (ts : List BTok) : Option BData :=
  let n := ts.length + 1
  match dir with
  | "align" => match ts with
    | [.int k _ _] => if k ≤ 65536 && (List.range 17).any (fun e => 2 ^ e == k) then some (.align k) else none
    | _ => none
  | "b8" => (parseExprs n ts).map (.ints 1)
  | "b16" => (parseExprs n ts).map (.ints 2)
  | "b32" => (parseExprs n ts).map (.ints 4)
  | "b64" => (parseExprs n ts).map (.ints 8)
  | "f16" => (parseFloats n ts).map (.floats fp16)
  | "bf16" => (parseFloats n ts).map (.floats bf16)
  | "f32" => (parseFloats n ts).map (.floats fp32)
  | "f64" => (parseFloats n ts).map (.floats fp64)
  | "gx2" => (parseFloats n ts).map (.gx 2)
  | "gx4" => (parseFloats n ts).map (.gx 4)
  | "gx7" => (parseFloats n ts).map (.gx 7)
  | _ => none

/-- How many bytes a line emits at an offset of its section. -/
def BData.size (at_ : Nat) : BData → Nat
  | .label _ => 0
  | .align n => (n - at_ % n) % n
  | .ints k es => k * es.length
  | .floats f vs => f.width / 8 * vs.length
  | .gx w vs => (2 + 2 * w) * (vs.length / 16)

/-- The offset of each label of some lines that begin at an offset. -/
def dataLabels : Nat → List BData → List (String × Nat)
  | _, [] => []
  | o, .label s :: ds => (s, o) :: dataLabels o ds
  | o, d :: ds => dataLabels (o + d.size o) ds

/-- The bytes of a line. -/
def BData.bytes (env : BEnv) (at_ : Nat) : BData → Option (List Byte)
  | .label _ => some []
  | .align n => some (List.replicate ((n - at_ % n) % n) 0)
  | .ints k es => do
    let vs ← es.mapM (BExpr.eval env)
    guard (vs.all (fitsBits (8 * k)))
    return vs.flatMap fun v => leBytes k (v % 2 ^ (8 * k)).toNat
  | .floats f vs => do return (← vs.mapM (BFloat.code f)).flatMap (leBytes (f.width / 8))
  | .gx w vs => gxGroups w vs.length vs

/-- The bytes of some lines that begin at an offset. -/
def dataBytes (env : BEnv) : Nat → List BData → Option (List Byte)
  | _, [] => some []
  | o, d :: ds => do
    let b ← d.bytes env o
    return b ++ (← dataBytes env (o + b.length) ds)

/-- The greatest alignment that a section asks for, at least 8. -/
def dataAlign (ds : List BData) : Nat := ds.foldl (fun a d => match d with
  | .align n => max a n
  | _ => a) 8

end Sys2Proof.Machine
end

