-- ==== Sys2Proof/Machine/BexasParse.lean ====
section
/-! DEFINITION. BexasParse: the directives of a bexas file and the items that they make (29 R416, R417, R419; 28 R410). A line that
is none of them is refused (29 R421). -/

namespace Sys2Proof.Machine

/-! ## What a graph declares (29 R416) -/

/-- Where a node stands: a PE, a rectangle of PEs, or an AG node (28 R410). -/
inductive BPos where
  | pe (d x y : Nat)
  | rect (d x0 y0 x1 y1 : Nat)
  | ag (d e i : Nat)
  deriving DecidableEq, Repr

/-- A node with its rule slots and its first register values. -/
structure BNode where
  pos   : BPos
  block : BBlock
  rules : List (Nat × BBlock)
  nregs : List (Nat × BExpr)
  vregs : List (Nat × List BExpr)
  deriving DecidableEq, Repr

/-- Where a circuit begins: at an output port, or at a coprocessor queue. -/
inductive BFrom where
  | port (node : String) (p : Nat)
  | queue (q : Queue)
  deriving DecidableEq, Repr

/-- An `.edge` with its attributes (29 R417). -/
structure BEdge where
  from_ : BFrom
  node  : String
  port  : Nat
  act   : Option Nat
  fan   : Bool
  via   : List Nat
  coal  : Option Nat
  deriving DecidableEq, Repr

/-- A `.group`. -/
structure BGroup where
  idx   : Nat
  nodes : List String
  root  : String
  loc   : Option (String × Nat)
  dom   : Bool
  deriving DecidableEq, Repr

/-- A graph: what stands between `.graph` and `.endg`. -/
structure BGraph where
  name    : String
  region  : Option (Nat × Nat)
  control : Option Nat
  stream  : Option (Nat × Nat)
  sources : List (String × Nat)
  sinks   : List String
  nodes   : List BNode
  sbbs    : List (Nat × BBlock)
  edges   : List BEdge
  fronts  : List (String × Nat)
  groups  : List BGroup
  names   : List (String × Int)
  deriving DecidableEq, Repr

/-- An item of a file. -/
inductive BItem where
  | ctl (b : BBlock)
  | data (ds : List BData)
  | graph (g : BGraph)
  | equ (name : String) (e : BExpr)
  deriving DecidableEq, Repr

/-- A graph that declares nothing yet. -/
def BGraph.start (name : String) (region : Option (Nat × Nat)) : BGraph :=
  ⟨name, region, none, none, [], [], [], [], [], [], [], []⟩

/-! ## Directives -/

/-- The number of an input or output port, as `pN`. -/
def portWord (s : String) : Option Nat :=
  match regWord s with
  | some ('p', n) => if n < 64 then some n else none
  | _ => none

/-- The place after `at`. -/
def parsePos : List BTok → Option BPos
  | [.sym '(', .int d _ _, .sym ',', .int x _ _, .sym ',', .int y _ _, .sym ')'] =>
    if d < 4 && x < 64 && y < 64 then some (.pe d x y) else none
  | [.sym '(', .int d _ _, .sym ',', .int x _ _, .sym ',', .int y _ _, .sym ')', .word "to",
      .sym '(', .int u _ _, .sym ',', .int v _ _, .sym ')'] =>
    if d < 4 && x ≤ u && y ≤ v && u < 64 && v < 64 then some (.rect d x y u v) else none
  | [.word "ag", .sym '(', .int d _ _, .sym ',', .int e _ _, .sym ',', .int i _ _, .sym ')'] =>
    if d < 4 && e < 4 && i < 16 then some (.ag d e i) else none
  | _ => none

/-- The slot lines of a block, to its `.endb`, with the lines after it. -/
def blockLines : List (List BTok) → Option (List SlotLine × List (List BTok))
  | [] => none
  | [.dot "endb"] :: r => some ([], r)
  | l :: r => do
    let x ← parseSlotLine l
    let (ls, r) ← blockLines r
    return (x :: ls, r)

/-- A block after its directive: a `.counts` line may come first (29 R415). -/
def parseBlock (kind : BlockKind) (name : String) (r : List (List BTok)) : Option (BBlock × List (List BTok)) :=
  match r with
  | [.dot "counts", .int n _ _, .sym ',', .int m _ _] :: r =>
    (blockLines r).map fun x => (⟨kind, name, some (n, m), x.1⟩, x.2)
  | r => (blockLines r).map fun x => (⟨kind, name, none, x.1⟩, x.2)

/-- The attributes of an `.edge`, each at most once, but for one `via` per seam (29 R417). -/
def edgeAttrs (e : BEdge) : List BTok → Option BEdge
  | [] => some e
  | .word "enter" :: r => if e.act.isNone then edgeAttrs { e with act := some 1 } r else none
  | .word "next" :: r => if e.act.isNone then edgeAttrs { e with act := some 2 } r else none
  | .word "leave" :: r => if e.act.isNone then edgeAttrs { e with act := some 3 } r else none
  | .word "fan" :: r => if e.fan then none else edgeAttrs { e with fan := true } r
  | .word "via" :: .int s _ _ :: r => if e.via.length < 2 then edgeAttrs { e with via := e.via ++ [s] } r else none
  | .word "coal" :: .int t _ _ :: r =>
    if e.coal.isNone && 1 ≤ t && t ≤ 7 then edgeAttrs { e with coal := some t } r else none
  | _ => none

/-- An `.edge`. -/
def parseEdge : List BTok → Option BEdge
  | .word "q" :: .dot q :: .arrow :: .word b :: .dot p :: r => do
    edgeAttrs ⟨.queue (← queueSuffix q), ← identOf b, ← portWord p, none, false, [], none⟩ r
  | .word a :: .dot n :: .arrow :: .word b :: .dot p :: r => do
    edgeAttrs ⟨.port (← identOf a) (← portWord n), ← identOf b, ← portWord p, none, false, [], none⟩ r
  | _ => none

/-- The nodes of a `.group`, and what follows `root`. -/
def groupTail (g : BGroup) : List BTok → Option BGroup
  | [.word "root", .word a] => (identOf a).map fun a => { g with root := a }
  | [.word "root", .word a, .word "dom"] => (identOf a).map fun a => { g with root := a, dom := true }
  | [.word "root", .word a, .word "loc", .word b, .dot p] => do
    return { g with root := ← identOf a, loc := some (← identOf b, ← portWord p) }
  | [.word "root", .word a, .word "loc", .word b, .dot p, .word "dom"] => do
    return { g with root := ← identOf a, loc := some (← identOf b, ← portWord p), dom := true }
  | .sym ',' :: .word a :: r => (identOf a).bind fun a => groupTail { g with nodes := g.nodes ++ [a] } r
  | _ => none

/-- A `.group`. -/
def parseGroup : List BTok → Option BGroup
  | .int k _ _ :: .word a :: r => do
    guard (k ≤ 255)
    groupTail ⟨k, [← identOf a], "", none, false⟩ r
  | _ => none

/-- The last node of a graph, changed; none before the first `.node`. -/
def BGraph.lastNode (g : BGraph) (f : BNode → BNode) : Option BGraph :=
  match g.nodes.getLast? with
  | some n => some { g with nodes := g.nodes.dropLast ++ [f n] }
  | none => none

/-- A directive of one line inside a graph. -/
def graphLine (g : BGraph) : List BTok → Option BGraph
  | [.dot "control", .word "depth", .int d _ _] => if g.control.isNone && d ≤ 4 then some { g with control := some d } else none
  | [.dot "source", .word a, .word "depth", .int d _ _] => do
    guard (d ≤ 4)
    return { g with sources := g.sources ++ [(← identOf a, d)] }
  | [.dot "sink", .word a] => do return { g with sinks := g.sinks ++ [← identOf a] }
  | .dot "edge" :: r => (parseEdge r).map fun e => { g with edges := g.edges ++ [e] }
  | [.dot "frontier", .word a, .dot p] => do return { g with fronts := g.fronts ++ [(← identOf a, ← portWord p)] }
  | .dot "group" :: r => (parseGroup r).map fun x => { g with groups := g.groups ++ [x] }
  | [.dot "endpoint", .int k _ _, .word a] => do
    guard (k ≤ 255)
    return { g with names := g.names ++ [(← identOf a, (k : Int))] }
  | [.dot "plane", .word a, .word f] =>
    match regWord f with
    | some ('f', k) => do
      guard (k < 16)
      return { g with names := g.names ++ [(← identOf a, (k : Int))] }
    | _ => none
  | [.dot "stream", .word "nthr", .int n _ _, .word "entry", .int b _ _] =>
    if g.stream.isNone && 1 ≤ n && n ≤ 4096 && b ≤ 63 then some { g with stream := some (n, b) } else none
  | .dot "nreg" :: .word w :: r =>
    match regWord w, parseExpr r with
    | some ('n', k), some (e, []) => if k < 16 then g.lastNode fun n => { n with nregs := n.nregs ++ [(k, e)] } else none
    | _, _ => none
  | .dot "vreg" :: .word w :: r =>
    match regWord w, parseExprs (r.length + 1) r with
    | some ('v', k), some es =>
      if k < 8 && es.length == 8 then g.lastNode fun n => { n with vregs := n.vregs ++ [(k, es)] } else none
    | _, _ => none
  | _ => none

/-- The lines of a graph, to its `.endg`; the first argument bounds their number. -/
def parseGraph : Nat → BGraph → List (List BTok) → Option (BGraph × List (List BTok))
  | 0, _, _ => none
  | _ + 1, _, [] => none
  | n + 1, g, l :: r =>
    match l with
    | [.dot "endg"] => some (g, r)
    | .dot "node" :: .word a :: .word "at" :: ps => do
      let pos ← parsePos ps
      let (b, r) ← parseBlock .node (← identOf a) r
      parseGraph n { g with nodes := g.nodes ++ [⟨pos, b, [], [], []⟩] } r
    | [.dot "rule", .word a, .word "index", .int k _ _] => do
      guard (k ≤ 7)
      let (b, r) ← parseBlock .rule (← identOf a) r
      parseGraph n (← g.lastNode fun x => { x with rules := x.rules ++ [(k, b)] }) r
    | [.dot "sbb", .word a, .word "index", .int k _ _] => do
      guard (k ≤ 63)
      let (b, r) ← parseBlock .node (← identOf a) r
      parseGraph n { g with sbbs := g.sbbs ++ [(k, b)] } r
    | l => do parseGraph n (← graphLine g l) r

/-! ## A file -/

/-- A line of a data section: a label, a directive, or both. -/
def dataLine : List BTok → Option (List BData)
  | [.word a, .sym ':'] => (identOf a).map fun a => [.label a]
  | .word a :: .sym ':' :: .dot d :: r => do return [.label (← identOf a), ← parseData d r]
  | .dot d :: r => (parseData d r).map fun x => [x]
  | _ => none

/-- The items of a file, one directive after another; the first argument bounds their number. -/
def parseItems : Nat → List (List BTok) → Option (List BItem)
  | _, [] => some []
  | 0, _ => none
  | n + 1, l :: r =>
    match l with
    | [.dot "ctl", .word a] => do
      let (b, r) ← parseBlock .control (← identOf a) r
      return .ctl b :: (← parseItems n r)
    | [.dot "graph", .word a] => do
      let (g, r) ← parseGraph (r.length + 1) (BGraph.start (← identOf a) none) r
      return .graph g :: (← parseItems n r)
    | [.dot "graph", .word a, .word "region", .int w _ _, .int h _ _] => do
      guard (1 ≤ w && w ≤ 8 && 1 ≤ h && h ≤ 8)
      let (g, r) ← parseGraph (r.length + 1) (BGraph.start (← identOf a) (some (w, h))) r
      return .graph g :: (← parseItems n r)
    | .dot "equ" :: .word a :: .sym ',' :: e =>
      match parseExpr e with
      | some (x, []) => do return .equ (← identOf a) x :: (← parseItems n r)
      | _ => none
    | [.dot "data"] => do return .data [] :: (← parseItems n r)
    | l => do
      let d ← dataLine l
      return .data d :: (← parseItems n r)

/-- The lines of a data section are gathered into one item: `.data` makes an empty item, and each later line one of its own. -/
def gatherData : List BItem → List BItem → Option (List BItem)
  | acc, [] => some acc.reverse
  | acc, .data [] :: is => gatherData (.data [] :: acc) is
  | .data ds :: acc, .data d :: is => gatherData (.data (ds ++ d) :: acc) is
  | _, .data _ :: _ => none
  | .data ds :: acc, .equ a e :: is => gatherData (.data ds :: .equ a e :: acc) is
  | acc, i :: is => gatherData (i :: acc) is

/-- The items of a source text, line by line (29 R412). -/
def parseFile (src : List String) : Option (List BItem) := do
  let ls := (← src.mapM lexLine).filter fun l => !l.isEmpty
  gatherData [] (← parseItems (ls.length + 1) ls)

end Sys2Proof.Machine
end

