-- ==== Sys2Proof/Machine/BexasGraph.lean ====
section
/-! DEFINITION. BexasGraph: what bexas builds from the graphs of a file: the places of nodes, their depths, the circuits and
routes, the locations and the path-summary table (29 R418, R426; 28 R410; 20 R292 to R296; 22 R330; 08 R116 to R126). -/

namespace Sys2Proof.Machine

/-! ## Places (28 R410; 29 R426) -/

/-- The PEs or the AG node of a place, in ascending order. -/
def BPos.keys : BPos → List Nat
  | .pe d x y => [peOf d x y]
  | .rect d x0 y0 x1 y1 =>
    (List.range (y1 - y0 + 1)).flatMap fun j => (List.range (x1 - x0 + 1)).map fun i => peOf d (x0 + i) (y0 + j)
  | .ag d e i => [agBase + 64 * d + 16 * e + i]

/-- The names that hold inside a graph: those of the file, of its planes and of its endpoints. -/
def BEnv.inGraph (env : BEnv) (g : BGraph) : BEnv := { env with names := g.names ++ env.names }

/-- The instructions of a node; a block that breaks a rule has none, and is refused when it is written. -/
def BNode.instrs (env : BEnv) (n : BNode) : List Instr := ((n.block.words env 0).map fun ws => instrsOf (ws.drop 1)).getD []

/-- A node where it stands: its graph, its copies and its instructions. -/
structure Placed where
  graph : Nat
  node  : BNode
  keys  : List Nat
  is    : List Instr
  deriving DecidableEq, Repr

/-- Every node of the graphs of a file. -/
def placedNodes (env : BEnv) (gs : List BGraph) : List Placed :=
  gs.zipIdx.flatMap fun g => g.1.nodes.map fun n => ⟨g.2, n, n.pos.keys, n.instrs (env.inGraph g.1)⟩

/-- The queues that the CALLQs of a node name (22 R330). -/
def Placed.calls (p : Placed) : List Queue :=
  (p.is.filterMap fun i => match i with
    | .callq _ q _ => some q
    | _ => none).eraseDups

/-- The nodes of a graph that call a queue, by their numbers. -/
def callersOf (ps : List Placed) (g : Nat) (q : Queue) : List Nat :=
  (ps.zipIdx.filter fun p => p.1.graph == g && p.1.calls.contains q).map Prod.snd

/-- The node of a name: its number among the nodes. -/
def nodeAt (ps : List Placed) (s : String) : Option Nat := ps.findIdx? fun p => p.node.block.name == s

/-- A node of a graph by its name. -/
def nodeIn (ps : List Placed) (g : Nat) (s : String) : Option Nat := do
  let i ← nodeAt ps s
  guard (ps[i]?.any fun p => p.graph == g)
  return i

/-- The first copy of a node. -/
def firstKey (ps : List Placed) (i : Nat) : Nat := ((ps[i]?.map Placed.keys).getD []).headD 0

/-- The rectangle of a graph: the whole bays that hold every node, or the region that the directive gives, extended up and to
the right of the origin (29 R426); none where the nodes stand on several dies, or the region does not cover them. -/
def graphRect (g : BGraph) : Option Rect := do
  let ks := (g.nodes.flatMap fun n => n.pos.keys).map hostPe
  let k ← ks.head?
  guard (ks.all fun x => peDie x == peDie k)
  let bx := ks.map fun x => peX x / 8
  let by_ := ks.map fun x => peY x / 8
  let x0 := bx.foldl min 7
  let y0 := by_.foldl min 7
  let w := bx.foldl max 0 - x0 + 1
  let h := by_.foldl max 0 - y0 + 1
  let (w', h') := g.region.getD (w, h)
  guard (w ≤ w' && h ≤ h' && x0 + w' ≤ 8 && y0 + h' ≤ 8)
  return ⟨peDie k, 8 * x0, 8 * y0, 8 * w', 8 * h'⟩

/-- SYS_REGION of a rectangle (17 Table 17-2). -/
def Rect.word (r : Rect) : W64 :=
  packFields 64 [(14, 2, r.d), (11, 3, r.x0 / 8), (8, 3, r.y0 / 8), (5, 3, r.w / 8 - 1), (2, 3, r.h / 8 - 1)]

/-- The bay at the lower left of a rectangle. -/
def Rect.bay (r : Rect) : Nat := bayOf r.home

/-! ## Edges between nodes -/

/-- The action code of an edge; none is 00 (20 R293). -/
def BEdge.action (e : BEdge) : Nat := e.act.getD 0

/-- The branches of each output port: the source node, the port, its action, and the node and port that each `.edge` names. The
second and each later branch of a port carries `fan`, and all have one action (29 R417, R418). -/
structure PortEdges where
  node  : Nat
  port  : Nat
  act   : Nat
  edges : List BEdge
  deriving DecidableEq, Repr

/-- The edges of a graph from each output port, in the order of nodes and ports. -/
def portEdges (ps : List Placed) (gi : Nat) (g : BGraph) : Option (List PortEdges) :=
  let froms := (g.edges.filterMap fun e => match e.from_ with
    | .port a p => some (a, p)
    | .queue _ => none).eraseDups
  froms.mapM fun f => do
    let es := g.edges.filter fun e => e.from_ == .port f.1 f.2
    let act := (es.map BEdge.action).headD 0
    guard ((es.all fun e => e.action == act) && (es.drop 1).all BEdge.fan)
    return ⟨← nodeIn ps gi f.1, f.2, act, es⟩

/-- The return circuits of a graph: the queue, the node and the port. -/
def returnEdges (ps : List Placed) (gi : Nat) (g : BGraph) : Option (List (Queue × Nat × Nat)) :=
  (g.edges.filterMap fun e => match e.from_ with
    | .queue q => some (q, e)
    | .port _ _ => none).mapM fun x => do return (x.1, ← nodeIn ps gi x.2.node, x.2.port)

/-! ## Depths (20 R292, R293; 29 R418) -/

/-- An edge between nodes as the depths see it: the source, the action and the destination. -/
abbrev DepthEdge := Nat × Nat × Nat

/-- The edges of a file for the depths. A return circuit carries its callers' times unchanged (22 R330). -/
def depthEdges (ps : List Placed) (outs : List PortEdges) (rets : List (Nat × Queue × Nat × Nat)) : Option (List DepthEdge) := do
  let a ← outs.mapM fun o => o.edges.mapM fun e => do return (o.node, o.act, ← nodeAt ps e.node)
  let b := rets.flatMap fun r => (callersOf ps r.1 r.2.1).map fun i => (i, 0, r.2.2.1)
  return a.flatten ++ b

/-- Depths pass along the edges from the nodes where they are known; the first argument bounds the rounds. -/
def spreadDepths : Nat → List DepthEdge → Map Nat → Map Nat
  | 0, _, m => m
  | n + 1, es, m =>
    spreadDepths n es (es.foldl (fun (m : Map Nat) e =>
      match m.find e.1, m.find e.2.2 with
      | some d, none => match actDepth e.2.1 d with
        | some d' => Map.set m e.2.2 d'
        | none => m
      | _, _ => m) m)

/-- The depth of every node: that of its sources along the edge actions; a node that no source reaches has depth 0. None where
two paths give one node different depths, or an action stands at a depth outside its row (20 R293; 29 R418). Log entry 108
(DESIGN CHOICE). -/
def nodeDepths (n : Nat) (srcs : List (Nat × Nat)) (es : List DepthEdge) : Option (Map Nat) := do
  let m := spreadDepths n es (srcs.foldl (fun (m : Map Nat) e => Map.set m e.1 e.2) [])
  let loose := (List.range n).filter fun i => (m.find i).isNone && !es.any fun e => e.2.2 == i
  let m := spreadDepths n es (loose.foldl (fun (m : Map Nat) i => Map.set m i 0) m)
  let m := (List.range n).foldl (fun (m : Map Nat) i => if (m.find i).isNone then Map.set m i 0 else m) m
  guard (es.all fun e => actDepth e.2.1 (Map.get 0 m e.1) == some (Map.get 0 m e.2.2))
  guard (srcs.all fun e => Map.get 0 m e.1 == e.2)
  return m

/-! ## Locations (29 R418; 28 R410) -/

/-- What a location stands for. The copies of a node share theirs. -/
inductive LocKey where
  | source (node : Nat)
  | control (graph : Nat)
  | input (node port : Nat)
  | queue (graph : Nat) (q : Queue)
  | hold (graph : Nat) (q : Queue)
  | frontier (node port : Nat)
  deriving DecidableEq, Repr

/-- A value put into a list in ascending order of a number, before those of the same number. -/
def insertBy {α : Type} (f : α → Nat) (x : α) : List α → List α
  | [] => [x]
  | y :: ys => if f x ≤ f y then x :: y :: ys else y :: insertBy f x ys

/-- A list put in ascending order of a number. -/
def sortedBy {α : Type} (f : α → Nat) (l : List α) : List α := l.foldr (insertBy f) []

/-- What the locations of a file are numbered from. -/
structure LocInputs where
  ps      : List Placed
  sources : List Nat
  /-- graphs with a control location and the lower-left bay of each -/
  ctls    : List (Nat × Nat)
  /-- the input ports that end a circuit, and port 63 where a node reads it -/
  inputs  : List (Nat × Nat)
  rets    : List (Nat × Queue × Nat × Nat)
  /-- the queues that the CALLQs of each graph name, with its die -/
  queues  : List (Nat × Nat × Queue)
  fronts  : List (Nat × Nat)

/-- The locations in the order of their numbers (29 R418). -/
def locationList (x : LocInputs) : List LocKey :=
  let place := fun (e : Nat × Nat) => 64 * firstKey x.ps e.1 + e.2
  let ret := fun (e : Nat × Nat) => (x.rets.find? fun r => r.2.2 == e).map fun r => (r.1, r.2.1)
  let srcs := (sortedBy (firstKey x.ps) x.sources).map LocKey.source
  let ctls := (sortedBy Prod.snd x.ctls).map fun e => LocKey.control e.1
  let ins := (sortedBy place x.inputs).flatMap fun e => match ret e with
    | some (g, q) => [LocKey.queue g q, LocKey.hold g q, LocKey.input e.1 e.2]
    | none => [LocKey.input e.1 e.2]
  let qs := (sortedBy (fun (e : Nat × Nat × Queue) => 8 * e.2.1 + queueCode e.2.2) x.queues).flatMap fun e =>
    [LocKey.queue e.1 e.2.2, LocKey.hold e.1 e.2.2]
  let fs := (sortedBy place x.fronts).map fun e => LocKey.frontier e.1 e.2
  (srcs ++ ctls ++ ins ++ qs ++ fs).eraseDups

/-- The number of a location. -/
def locNumber (ls : List LocKey) (k : LocKey) : Option Nat := ls.findIdx? (· == k)

/-! ## Path summaries (20 R295, R296; 22 R330) -/

/-- A step between two locations, and the counter that a next action on it advances: 0 for none. -/
abbrev PathStep := Nat × Nat × Nat

/-- The least counts of next actions to each location: over the paths that have met a location of the depth in question, and
over those that have not. -/
abbrev PathCounts := List (Option Nat × Option Nat)

/-- The smaller of two counts. -/
def minOpt : Option Nat → Option Nat → Option Nat
  | some a, some b => some (min a b)
  | some a, none => some a
  | none, b => b

/-- One step for paths whose least depth is m: locations of a smaller depth are not entered. -/
def relaxStep (m : Nat) (depth : Nat → Nat) (d : PathCounts) (e : PathStep) : PathCounts :=
  let (u, t) := d.getD e.1 (none, none)
  let w := if e.2.2 = m && m ≠ 0 then 1 else 0
  if depth e.2.1 < m then d
  else
    d.modify e.2.1 fun x =>
      if depth e.2.1 = m then (x.1, minOpt x.2 (minOpt (t.map (· + w)) (u.map (· + w))))
      else (minOpt x.1 (u.map (· + w)), minOpt x.2 (t.map (· + w)))

/-- The least counts from a location over the paths whose least depth is m. -/
def pathCounts (m n : Nat) (depth : Nat → Nat) (es : List PathStep) (a : Nat) : PathCounts :=
  let start : PathCounts := (List.range n).map fun i =>
    if i = a && m ≤ depth a then (if depth a = m then (none, some 0) else (some 0, none)) else (none, none)
  (List.range (2 * n)).foldl (fun d _ => es.foldl (relaxStep m depth) d) start

/-- The entry for a pair of locations (20 R296): the least M over the paths, and the least DELTA among those with that M, or
0 where some path has a greater M. -/
def summaryEntry (n : Nat) (depth : Nat → Nat) (es : List PathStep) (a b : Nat) : BitVec 32 :=
  if a = b then packFields 32 [(31, 1, 1), (28, 3, depth a)]
  else
    match (List.range 5).filterMap fun m => ((pathCounts m n depth es a).getD b (none, none)).2.map fun c => (m, c) with
    | [] => 0
    | (m, c) :: more => packFields 32 [(31, 1, 1), (28, 3, m), (17, 11, if more.isEmpty && m ≠ 0 then min c 2047 else 0)]

/-- The path-summary table: N and its N × N entries (20 R295). -/
def summaryTable (n : Nat) (depth : Nat → Nat) (es : List PathStep) : List Word :=
  BitVec.ofNat 32 n :: (List.range n).flatMap fun a => (List.range n).map fun b => summaryEntry n depth es a b

/-! ## Routes (08 R117 to R126) -/

/-- The steps between two PEs of a die: along x, then along y. -/
def xySteps (a b : Nat) : List (Nat × Nat) :=
  let (d, ax, ay, bx, by_) := (peDie a, peX a, peY a, peX b, peY b)
  let xs := if ax ≤ bx then (List.range (bx - ax)).map fun i => (peOf d (ax + i) ay, 1)
    else (List.range (ax - bx)).map fun i => (peOf d (ax - i) ay, 3)
  let ys := if ay ≤ by_ then (List.range (by_ - ay)).map fun i => (peOf d bx (ay + i), 0)
    else (List.range (ay - by_)).map fun i => (peOf d bx (ay - i), 2)
  xs ++ ys

/-- The steps of a route between two boxes of a die; an AG node's box joins the box of its host. Log entry 108 (DESIGN CHOICE). -/
def routeSteps (a b : Nat) : List (Nat × Nat) :=
  (if agBase ≤ a then [(a, (agSide (a - agBase) + 2) % 4)] else []) ++ xySteps (hostPe a) (hostPe b) ++
  (if agBase ≤ b then [(hostPe b, agSide (b - agBase))] else [])

/-- A part of a switch entry: the box, the tag, and a side to forward to or the input port to deliver to. -/
inductive SwitchPart where
  | forward (side : Nat)
  | deliver (port : Nat)
  deriving DecidableEq, Repr

/-- The bits of a part (08 Table 8-2). -/
def SwitchPart.bits : SwitchPart → Nat
  | .forward side => 2 ^ (13 - side)
  | .deliver port => 2 ^ 14 + 16 * port

/-- The entry that some parts make; none where they deliver to two ports. -/
def switchEntry (xs : List SwitchPart) : Option (BitVec 16) :=
  let xs := xs.eraseDups
  if 1 < (xs.filter fun x => match x with
    | .deliver _ => true
    | .forward _ => false).length
  then none
  else some (BitVec.ofNat 16 (2 ^ 15 + (xs.map SwitchPart.bits).sum))

/-- The parts of a route from a box to an input port of a node. -/
def routeParts (tag a b port : Nat) : List (Nat × Nat × SwitchPart) :=
  (routeSteps a b).map (fun e => (e.1, tag, .forward e.2)) ++ [(b, tag, .deliver port)]

/-- The side over which a die borders another (01 R7): 0 above, 1 to the east, 2 below, 3 to the west. -/
def sideToward (d e : Nat) : Option Nat :=
  if d / 2 = e / 2 && d % 2 < e % 2 then some 1
  else if d / 2 = e / 2 && e % 2 < d % 2 then some 3
  else if d % 2 = e % 2 && d / 2 < e / 2 then some 0
  else if d % 2 = e % 2 && e / 2 < d / 2 then some 2
  else none

/-- The box of a rectangle's edge on a side, in the row or column of a box. -/
def edgeBox (r : Rect) (side k : Nat) : Nat :=
  match side with
  | 0 => peOf r.d (peX k) (r.y0 + r.h - 1)
  | 1 => peOf r.d (r.x0 + r.w - 1) (peY k)
  | 2 => peOf r.d (peX k) r.y0
  | _ => peOf r.d r.x0 (peY k)

/-- The sides by which a circuit leaves a die and enters another through the slices that its `via`s name. -/
def viaSides (d e : Nat) : List Nat → Option (Nat × Nat)
  | [s] => do
    guard (onSeam s d e)
    return (← sideToward d e, ← sideToward e d)
  | [s, t] => (List.range 4).findSome? fun x => do
    guard (x != d && x != e && onSeam s d x && onSeam t x e)
    return (← sideToward d x, ← sideToward e x)
  | _ => none

/-! ## Circuits -/

/-- A circuit of one copy of a node, or a return circuit: its tag, the box where it begins, the output port, and the input ports
where it ends, with the slices on the way. -/
structure Circuit where
  tag   : Nat
  graph : Nat
  key   : Nat
  port  : Option Nat
  ends  : List (Nat × Nat × Nat × List Nat)
  deriving DecidableEq, Repr

/-- The copies of the destination that a copy of the source sends to: the one copy; the copy at the same place of a rectangle
of the same size; or every copy. None otherwise, since an input port ends one circuit (08 R116). Log entry 108 (DESIGN CHOICE). -/
def copiesFor (src dst : List Nat) (i : Nat) : Option (List Nat) :=
  if dst.length = src.length then some ((dst[i]?).toList)
  else if src.length = 1 then some dst
  else none

/-- The tag of the first return circuit, as 23's launch parameters have it. Log entry 109 (DEDUCED). -/
def returnTag : Nat := 0x20

/-- The circuits of a file with their tags: those of output ports in ascending order of box and port, and the return circuits
in the order of their directives. Log entry 108 (DESIGN CHOICE). -/
def circuitsOf (ps : List Placed) (rects : List Rect) (outs : List PortEdges) (rets : List (Nat × Queue × Nat × Nat)) :
    Option (List Circuit) := do
  let a ← outs.mapM fun o => do
    let p ← ps[o.node]?
    p.keys.zipIdx.mapM fun k => do
      let es ← o.edges.mapM fun e => do
        let j ← nodeAt ps e.node
        let q ← ps[j]?
        return (← copiesFor p.keys q.keys k.2).map fun x => (j, x, e.port, e.via)
      return (⟨0, p.graph, k.1, some o.port, es.flatten⟩ : Circuit)
  let b ← rets.mapM fun r => do
    let rc ← rects[r.1]?
    let q ← ps[r.2.2.1]?
    return (⟨0, r.1, rc.home, none, q.keys.map fun x => (r.2.2.1, x, r.2.2.2, [])⟩ : Circuit)
  let a := sortedBy (fun (c : Circuit) => 64 * c.key + c.port.getD 0) a.flatten
  guard (a.length + b.length ≤ 4064)
  return (a.zipIdx.map fun c => { c.1 with tag := if c.2 < returnTag then c.2 else c.2 + b.length }) ++
    b.zipIdx.map fun c => { c.1 with tag := returnTag + c.2 }

/-- The part of a circuit inside a graph's region, and its mailbox edges (08 R126). -/
structure CircuitParts where
  parts : List (Nat × Nat × SwitchPart)
  mail  : List (Nat × MailEdge)
  deriving DecidableEq, Repr

/-- The switch parts and mailbox edges of one circuit. Branches that cross the same slices share one edge. Log entry 108
(DESIGN CHOICE). -/
def circuitParts (ps : List Placed) (rects : List Rect) (loc : Nat → Nat → Option Nat) (c : Circuit) : Option CircuitParts := do
  let rc ← rects[c.graph]?
  let near := c.ends.filter fun e => e.2.2.2.isEmpty
  let far := c.ends.filter fun e => !e.2.2.2.isEmpty
  guard (near.all fun e => ps[e.1]?.any fun p => p.graph == c.graph)
  let vias := (far.map fun e => e.2.2.2).eraseDups
  let xs ← vias.mapM fun v => do
    let es := far.filter fun e => e.2.2.2 == v
    let e ← es.head?
    let q ← ps[e.1]?
    let rd ← rects[q.graph]?
    guard (es.all fun x => ps[x.1]?.any fun p => p.graph == q.graph)
    let (out, in_) ← viaSides rc.d rd.d v
    let leave := edgeBox rc out (hostPe c.key)
    let enter := edgeBox rd in_ (hostPe e.2.1)
    let locs ← es.mapM fun x => loc x.1 x.2.2.1
    let m : MailEdge := ⟨rc.index leave, out, c.tag, v.headD 0, v[1]?, enter, locs⟩
    return (((routeSteps c.key leave).map fun s => (s.1, c.tag, SwitchPart.forward s.2)) ++ [(leave, c.tag, .forward out)] ++
      es.flatMap fun x => routeParts c.tag enter x.2.1 x.2.2.1, (c.graph, m))
  return ⟨(near.flatMap fun e => routeParts c.tag c.key e.2.1 e.2.2.1) ++ (xs.map Prod.fst).flatten, xs.map Prod.snd⟩

/-- The switch table of a box: its entries in ascending order of tags. -/
def boxTable (parts : List (Nat × Nat × SwitchPart)) (key : Nat) : Option (List (Nat × BitVec 16)) :=
  let mine := parts.filter fun x => x.1 == key
  (sortedBy id ((mine.map fun x => x.2.1).eraseDups)).mapM fun t => do
    return (t, ← switchEntry ((mine.filter fun x => x.2.1 == t).map fun x => x.2.2))

end Sys2Proof.Machine
end

