-- ==== Sys2Proof/Machine/Bexas.lean ====
section
/-! DEFINITION. Bexas: how bexas writes an image from a source text (29 R415 to R421, R426): the section images with their CONF
records and tables, the data, the path-summary table and the group table, in one Garette image. bexas is no part of the machine: what
it writes reaches the machine as a launch package (17 Table 17-1). -/

namespace Sys2Proof.Machine

/-! ## The whole file -/

/-- What bexas knows of a file when it writes its images. -/
structure BProgram where
  graphs   : List BGraph
  rects    : List Rect
  placed   : List Placed
  depths   : Map Nat
  circuits : List Circuit
  parts    : List (Nat × Nat × SwitchPart)
  mail     : List (Nat × MailEdge)
  fronts   : List (Nat × Nat)
  rets     : List (Nat × Queue × Nat × Nat)
  outs     : List PortEdges
  locs     : List LocKey
  table    : List Word
  groups   : List (Nat × W64)

/-- A list names no value twice. -/
def noRepeat {α : Type} [BEq α] (l : List α) : Bool := l.eraseDups.length == l.length

/-- The input ports where circuits end, each copy for itself. -/
def endPorts (cs : List Circuit) : List (Nat × Nat) := cs.flatMap fun c => c.ends.map fun e => (e.2.1, e.2.2.1)

/-- The depth of a location (20 R292): that of its node, of its control thread, or the least of the callers of its queue. -/
def locDepth (gs : List BGraph) (ps : List Placed) (depths : Map Nat) : LocKey → Nat
  | .source i | .input i _ | .frontier i _ => Map.get 0 depths i
  | .control g => ((gs[g]?.bind BGraph.control).getD 0)
  | .queue g q | .hold g q =>
    ((callersOf ps g q).map (Map.get 0 depths)).foldl min 4

/-- The locations of a node from which its outputs follow. -/
def locsOfNode (ls : List LocKey) (i : Nat) : List Nat :=
  (ls.zipIdx.filter fun e => match e.1 with
    | .source j | .input j _ | .frontier j _ => j == i
    | _ => false).map Prod.snd

/-- The counter that an action advances: that of its depth, for next (20 R293). -/
def nextCounter (act depth : Nat) : Nat := if act = 2 then depth else 0

/-- The steps between locations: along circuits, from the control location to port 63, and through queues (20 R296; 22
R330). -/
def pathSteps (ps : List Placed) (outs : List PortEdges) (rets : List (Nat × Queue × Nat × Nat)) (depths : Map Nat)
    (ls : List LocKey) : List PathStep :=
  let at_ := locNumber ls
  let along := outs.flatMap fun o => o.edges.flatMap fun e =>
    ((nodeAt ps e.node).bind fun j => at_ (.input j e.port)).toList.flatMap fun b =>
      (locsOfNode ls o.node).map fun a => (a, b, nextCounter o.act (Map.get 0 depths o.node))
  let bound := ls.zipIdx.flatMap fun e => match e.1 with
    | .control g => (ls.zipIdx.filter fun x => match x.1 with
      | .input j 63 => ps[j]?.any fun p => p.graph == g
      | _ => false).map fun x => (e.2, x.2, 0)
    | _ => []
  let calls := ls.zipIdx.flatMap fun e => match e.1 with
    | .queue g q =>
      ((callersOf ps g q).flatMap fun i => (locsOfNode ls i).map fun a => (a, e.2, 0)) ++
      (at_ (.hold g q)).toList.map fun h => (e.2, h, 0)
    | .hold g q => (rets.filter fun r => r.1 == g && r.2.1 == q).filterMap fun r =>
      (at_ (.input r.2.2.1 r.2.2.2)).map fun b => (e.2, b, 0)
    | _ => []
  along ++ bound ++ calls

/-- The groups that a node is in, in ascending order. -/
def groupsOf (gs : List BGraph) (name : String) : List Nat :=
  sortedBy id (((gs.flatMap BGraph.groups).filter fun g => g.nodes.contains name).map BGroup.idx)

/-- A group table entry (17 Table 17-3). -/
def groupWord (ps : List Placed) (ls : List LocKey) (g : BGroup) : Option W64 := do
  let r ← nodeAt ps g.root
  guard (g.nodes.all fun n => (nodeAt ps n).isSome)
  let loc ← match g.loc with
    | some (n, p) => (nodeAt ps n).bind fun i => locNumber ls (.input i p)
    | none => some 0
  return packFields 64 [(63, 1, 1), (62, 1, b2n g.dom), (40, 10, loc), (0, 15, firstKey ps r)]

/-- The graphs of a file worked out: places, depths, circuits, locations and tables (29 R418). -/
def linkGraphs (env : BEnv) (gs : List BGraph) : Option BProgram := do
  let ps := placedNodes env gs
  guard (noRepeat (ps.map fun p => p.node.block.name) && noRepeat (ps.flatMap Placed.keys))
  let rects ← gs.mapM graphRect
  let outs := (← gs.zipIdx.mapM fun g => portEdges ps g.2 g.1).flatten
  let rets := (← gs.zipIdx.mapM fun g => (returnEdges ps g.2 g.1).map fun l => l.map fun r => (g.2, r)).flatten
  let srcs := (← gs.zipIdx.mapM fun g => g.1.sources.mapM fun s => (nodeIn ps g.2 s.1).map fun i => (i, s.2)).flatten
  let fronts := (← gs.zipIdx.mapM fun g => g.1.fronts.mapM fun f => (nodeIn ps g.2 f.1).map fun i => (i, f.2)).flatten
  let _ ← gs.zipIdx.mapM fun g => g.1.sinks.mapM fun s => nodeIn ps g.2 s
  let depths ← nodeDepths ps.length srcs (← depthEdges ps outs rets)
  let circuits ← circuitsOf ps rects outs rets
  let ends := endPorts circuits
  guard (noRepeat ends && fronts.all fun f => ps[f.1]?.all fun p => p.keys.all fun k => !ends.contains (k, f.2))
  let bound := (ps.zipIdx.filter fun p => readsBound p.1.is).map fun p => (p.2, 63)
  let inputs := (circuits.flatMap fun c => c.ends.map fun e => (e.1, e.2.2.1)) ++ bound
  let queues := (ps.flatMap fun p => p.calls.map fun q => (p.graph, peDie (hostPe (p.keys.headD 0)), q)).eraseDups
  let locs := locationList
    { ps := ps, sources := srcs.map Prod.fst,
      ctls := (gs.zip rects).zipIdx.filterMap fun g => g.1.1.control.map fun _ => (g.2, g.1.2.bay),
      inputs := inputs.eraseDups, rets := rets, queues := queues, fronts := fronts }
  guard (locs.length ≤ 1024)
  let cps ← circuits.mapM (circuitParts ps rects fun i p => locNumber locs (.input i p))
  let groups ← (gs.flatMap BGraph.groups).mapM fun g => (groupWord ps locs g).map fun w => (g.idx, w)
  guard (noRepeat (groups.map Prod.fst))
  let dep := fun (i : Nat) => (locs[i]?.map (locDepth gs ps depths)).getD 0
  return { graphs := gs, rects := rects, placed := ps, depths := depths, circuits := circuits,
           parts := cps.flatMap CircuitParts.parts, mail := cps.flatMap CircuitParts.mail, fronts := fronts, rets := rets, outs := outs,
           locs := locs, table := summaryTable locs.length dep (pathSteps ps outs rets depths locs), groups := groups }

/-! ## CONF records (17 Table 17-5; 28 R410) -/

/-- A CONF record: its type, its index and its data. -/
def confRecord (type index : Nat) (data : List (Nat × Nat × Nat)) : W512 := packFields 512 ([(0, 8, type), (8, 8, index)] ++ data)

/-- The segments of a block, fourteen words in each. -/
def segments (type : Nat) (index : Nat → Nat) (ws : List Word) : List W512 :=
  (List.range (ceilDiv ws.length 14)).map fun s =>
    confRecord type (index s) (((ws.drop (14 * s)).take 14).zipIdx.map fun w => (64 + 32 * w.2, 32, w.1.toNat))

/-- The values of some expressions in a field of 64 bits. -/
def values64 (env : BEnv) (es : List BExpr) : Option (List Nat) := do
  let vs ← es.mapM (BExpr.eval env)
  guard (vs.all (fitsBits 64))
  return vs.map fun v => (v % 2 ^ 64).toNat

/-- The CONF records of a node: its block and its rule slots, its registers, its groups and its coalescing ports, then END. Log
entry 108 (DESIGN CHOICE). -/
def nodeConfs (env : BEnv) (n : BNode) (groups : List Nat) (coal : List (Nat × Nat)) : Option (List W512) := do
  let ws ← n.block.words env 0
  let rs ← n.rules.mapM fun r => do return segments 2 (fun s => 32 * r.1 + s) (← r.2.words env 0)
  let ns ← n.nregs.mapM fun r => do
    let v ← values64 env [r.2]
    return confRecord 3 r.1 [(64, 64, v.headD 0)]
  let vs ← n.vregs.mapM fun r => do
    let v ← values64 env r.2
    return [0, 1].map fun h => confRecord 4 (2 * r.1 + h) ((List.range 4).map fun k => (64 + 64 * k, 64, v.getD (4 * h + k) 0))
  guard (groups.length ≤ 4 && noRepeat (n.rules.map Prod.fst) && noRepeat (coal.map Prod.fst))
  let gr := if groups.isEmpty then [] else [confRecord 5 0 (groups.zipIdx.flatMap fun g => [(64 + 9 * g.2, 8, g.1), (72 + 9 * g.2, 1, 1)])]
  let cp := if coal.isEmpty then [] else [confRecord 6 0 (coal.flatMap fun c => [(64 + c.1, 1, 1), (128 + 3 * c.1, 3, c.2)])]
  return segments 1 id ws ++ rs.flatten ++ ns ++ vs.flatten ++ gr ++ cp ++ [confRecord 7 0 []]

/-! ## Section images (29 R420) -/

/-- The coalescing ports of a node with their thresholds (29 R417). -/
def coalescing (gs : List BGraph) (name : String) : List (Nat × Nat) :=
  ((gs.flatMap BGraph.edges).filter fun e => e.node == name).filterMap fun e => e.coal.map fun t => (e.port, t)

/-- The output-port table of a box (08 Table 8-1). -/
def outEntries (pr : BProgram) (key : Nat) : List Byte :=
  (List.range 64).flatMap fun p => leBytes 2 (match pr.circuits.find? fun c => c.key == key && c.port == some p with
    | some c => 2 ^ 15 + c.tag
    | none => 0)

/-- The location table of a box (20 Table 20-2): that of its node, and zeros where it has none. -/
def locEntries (pr : BProgram) (node : Option Nat) : List Byte :=
  match node with
  | none => List.replicate 260 0
  | some i =>
    let depth := Map.get 0 pr.depths i
    let port := fun (p : Nat) =>
      let front := pr.fronts.contains (i, p)
      let loc := locNumber pr.locs (if front then .frontier i p else .input i p)
      let act := ((pr.outs.find? fun o => o.node == i && o.port == p).map PortEdges.act).getD 0
      packFields 32 ([(17, 2, act), (16, 1, b2n front)] ++ match loc with
        | some l => [(31, 1, 1), (21, 10, l)]
        | none => [])
    let last : BitVec 32 := packFields 32 ([(18, 3, depth)] ++ match locNumber pr.locs (.source i) with
      | some l => [(31, 1, 1), (21, 10, l)]
      | none => [])
    ((List.range 64).flatMap fun p => leBytes 4 (port p).toNat) ++ leBytes 4 last.toNat

/-- Bytes padded with zeros to a multiple of a number. -/
def padTo (n : Nat) (bs : List Byte) : List Byte := bs ++ List.replicate ((n - bs.length % n) % n) 0

/-- The PE record of a box. -/
def peRecord (env : BEnv) (pr : BProgram) (place key : Nat) : Option (List Byte) := do
  let i := pr.placed.findIdx? fun p => p.keys.contains key
  let confs ← match i.bind fun i => pr.placed[i]? with
    | some p => nodeConfs env p.node (groupsOf pr.graphs p.node.block.name) (coalescing pr.graphs p.node.block.name)
    | none => some [confRecord 7 0 []]
  let sw ← boxTable pr.parts key
  let head : W64 := packFields 64 [(0, 16, place), (16, 16, confs.length), (32, 16, 64 + 2 * sw.length + 130)]
  return padTo 64 (leBytes 8 head.toNat ++ confs.flatMap (fun w => leBytes 64 w.toNat) ++ outEntries pr key ++
    sw.flatMap (fun e => leBytes 2 e.1 ++ leBytes 2 e.2.toNat) ++ locEntries pr i)

/-- The boxes of a graph that have a record: those of its nodes and those that its circuits pass, by their places. -/
def recordPlaces (pr : BProgram) (g : Nat) (rc : Rect) : List (Nat × Nat) :=
  let r := { Region.blank with sysreg := rc.word }
  let mine := (pr.placed.filter fun p => p.graph == g).flatMap Placed.keys
  let passed := (pr.parts.map fun x => x.1).filter fun k => rc.has (hostPe k)
  sortedBy Prod.fst ((mine ++ passed).eraseDups.map fun k => (r.placeOf k, k))

/-- The first 64 bytes of a section image. The spec gives the stream word no layout: the thread count stands in [12:0] and the
entry block in [21:16]. Log entry 110 (DESIGN CHOICE). -/
def imageHead (pr : BProgram) (gi : Nat) (g : BGraph) (rc : Rect) (npe nret : Nat) : List Byte :=
  let stream : W64 := match g.stream with
    | some (n, b) => packFields 64 [(0, 13, n), (16, 6, b)]
    | none => 0
  let ctl : W64 := match g.control, locNumber pr.locs (.control gi) with
    | some d, some l => packFields 64 [(63, 1, 1), (18, 3, d), (0, 10, l)]
    | _, _ => 0
  padTo 64 (leBytes 8 (rc.word.toNat % 256 / 4 * 4) ++ leBytes 8 npe ++ leBytes 8 stream.toNat ++ leBytes 8 ctl.toNat ++ leBytes 8 nret)

/-- A section image as it stands in memory, and what the launch package says of it. -/
structure BSection where
  raw  : RawImage
  meta_ : SectionMeta

/-- The bytes of a section image. -/
def RawImage.bytes (r : RawImage) : List Byte := r.head ++ r.rets ++ r.pes.flatten

/-- What the launch package says of a graph (17 Table 17-1). -/
def sectionMeta (env : BEnv) (pr : BProgram) (gi : Nat) (g : BGraph) (va : W64) : Option SectionMeta := do
  let sbb ← g.sbbs.mapM fun b => do return (b.1, ← b.2.words env 0)
  guard (noRepeat (g.sbbs.map Prod.fst) && g.stream.isSome == !g.sbbs.isEmpty)
  let sinks := pr.locs.zipIdx.filter fun e => match e.1 with
    | .input i _ => pr.placed[i]?.any fun p => p.graph == gi && g.sinks.contains p.node.block.name
    | _ => false
  let queues := pr.locs.zipIdx.filterMap fun e => match e.1 with
    | .queue x q => if x = gi then (locNumber pr.locs (.hold x q)).map fun h => (q, e.2, h) else none
    | _ => none
  let mail := (pr.mail.filter fun m => m.1 == gi).map Prod.snd
  return ⟨va, sinks.map Prod.snd, queues, mail, sbb, ((g.stream.map Prod.fst).getD 0), ((g.stream.map Prod.snd).getD 0)⟩

/-- The image of a graph at an address. -/
def sectionImage (env : BEnv) (pr : BProgram) (gi : Nat) (g : BGraph) (rc : Rect) (va : W64) : Option BSection := do
  let places := recordPlaces pr gi rc
  let pes ← places.mapM fun p => peRecord (env.inGraph g) pr p.1 p.2
  let rets := (pr.circuits.filter fun c => c.graph == gi && c.port.isNone).zip (pr.rets.filter fun r => r.1 == gi)
  let list := rets.flatMap fun r => leBytes 2 (r.1.tag + 4096 * queueCode r.2.2.1)
  return ⟨⟨imageHead pr gi g rc pes.length rets.length, padTo 64 list, pes⟩, ← sectionMeta (env.inGraph g) pr gi g va⟩

/-- A machine that holds nothing but the region for which an image is made: the checks of CFGLOAD are made against it. -/
def checkState (rc : Rect) (groups : List (Nat × W64)) : State :=
  { State.reset with regions := [(0, { Region.blank with live := true, job := 1, sysreg := rc.word })],
                     jobs := [(1, { Job.blank with pkg := { LaunchPackage.blank with groups := groups } })] }

/-- CFGLOAD would take the image: it breaks no rule on routes, blocks or groups (18 R281; 29 R418, R421). -/
def imageAccepted (rc : Rect) (groups : List (Nat × W64)) (va : W64) (x : BSection) : Bool :=
  match x.raw.parse va x.meta_ with
  | some img => (imageFault (checkState rc groups) 0 va x.raw img).isNone
  | none => false

/-! ## The Garette image (29 R420) -/

/-- A chunk: its type, the base-2 logarithm of its alignment, its content and its virtual address. -/
structure BChunk where
  type  : Nat
  align : Nat
  bytes : List Byte
  vaddr : Nat
  deriving DecidableEq, Repr

/-- A chunk in the image. Log entry 108 (DESIGN CHOICE). -/
def BChunk.image (c : BChunk) : List Byte :=
  let bs := padTo 8 c.bytes
  leBytes 8 ((packFields 64 [(60, 4, c.type), (48, 12, c.align), (0, 48, bs.length)] : W64).toNat) ++ leBytes 8 c.vaddr ++ bs

/-- A Garette image. -/
def gimBytes (cs : List BChunk) : List Byte :=
  leBytes 8 ((packFields 64 [(32, 32, 0x4D494752), (16, 16, 1), (0, 16, cs.length)] : W64).toNat) ++ List.replicate 56 0 ++
  cs.flatMap BChunk.image

/-- What bexas makes of a file: the image, and what the host says of its sections, groups and locations at the launch. -/
structure BOutput where
  chunks   : List BChunk
  sections : List SectionMeta
  groups   : List (Nat × W64)
  /-- the source and control locations, once for each holder -/
  sources  : List Nat

/-- The bytes of the image. -/
def BOutput.gim (o : BOutput) : List Byte := gimBytes o.chunks

/-- The addresses of control blocks that follow one another. -/
def ctlLabels : Nat → List BBlock → List (String × Nat)
  | _, [] => []
  | a, b :: bs => (b.name, a) :: ctlLabels (a + 4 * b.size) bs

/-- The words of control blocks that follow one another. -/
def ctlWords (env : BEnv) : Nat → List BBlock → Option (List Word)
  | _, [] => some []
  | a, b :: bs => do return (← b.words env a) ++ (← ctlWords env (a + 4 * b.size) bs)

/-- The names of `.equ` in the order of the file; none is defined twice or stands for a label as well (29 R413, R419). -/
def equNames (env : BEnv) : List BItem → Option BEnv
  | [] => some env
  | .equ a e :: is => do
    let v ← e.eval env
    guard ((env.names.all fun x => x.1 != a) && env.labels.all fun x => x.1 != a)
    equNames { env with names := (a, v) :: env.names } is
  | _ :: is => equNames env is

/-- The base-2 logarithm of an alignment. -/
def alignLog (n : Nat) : Nat := ((List.range 17).find? fun e => n ≤ 2 ^ e).getD 16

/-- The group table in memory: 256 entries. -/
def groupTableBytes (gs : List (Nat × W64)) : List Byte :=
  (List.range 256).flatMap fun k => leBytes 8 (((gs.find? fun e => e.1 == k).map fun e => e.2.toNat).getD 0)

/-- The source and control locations, once for each holder (20 R301; 28 R410). -/
def holderLocs (pr : BProgram) : List Nat :=
  pr.locs.zipIdx.flatMap fun e => match e.1 with
    | .source i => List.replicate ((pr.placed[i]?.map fun p => p.keys.length).getD 0) e.2
    | .control _ => [e.2]
    | _ => []

/-- bexas: the image of a source text whose chunks the launch places at the given addresses: the control program, the section
images, the data sections, the path-summary table and the group table, in this order. None is the refusal of a file that breaks
a rule (29 R421). Log entry 108 (DESIGN CHOICE). -/
def bexas (vaddrs : List Nat) (src : List String) : Option BOutput := do
  let items ← parseFile src
  let ctls := items.filterMap fun i => match i with
    | .ctl b => some b
    | _ => none
  let gs := items.filterMap fun i => match i with
    | .graph g => some g
    | _ => none
  let datas := items.filterMap fun i => match i with
    | .data ds => some ds
    | _ => none
  let nctl := if ctls.isEmpty then 0 else 1
  let va := fun (k : Nat) => vaddrs[k]?
  let ctlLs ← if ctls.isEmpty then some [] else (va 0).map fun a => (ctlLabels a ctls).map fun l => (l.1, 0, l.2)
  let dataLs := (← datas.zipIdx.mapM fun d => (va (nctl + gs.length + d.2)).map fun a =>
    (dataLabels 0 d.1).map fun l => (l.1, d.2 + 1, a + l.2)).flatten
  let labels := ctlLs ++ dataLs
  guard (noRepeat (labels.map Prod.fst))
  let env ← equNames ⟨[], labels⟩ items
  let pr ← linkGraphs env gs
  let ctlChunk ← if ctls.isEmpty then some [] else (va 0).bind fun a => (ctlWords env a ctls).map fun ws =>
    [(⟨1, 3, ws.flatMap fun w => leBytes 4 w.toNat, a⟩ : BChunk)]
  let secs ← (gs.zip pr.rects).zipIdx.mapM fun g => do
    let a ← va (nctl + g.2)
    let x ← sectionImage env pr g.2 g.1.1 g.1.2 (BitVec.ofNat 64 a)
    guard (imageAccepted g.1.2 pr.groups (BitVec.ofNat 64 a) x)
    return ((⟨2, 6, x.raw.bytes, a⟩ : BChunk), x.meta_)
  let dataChunks ← datas.zipIdx.mapM fun d => do
    let bs ← dataBytes env 0 d.1
    return (⟨3, alignLog (dataAlign d.1), bs, ← va (nctl + gs.length + d.2)⟩ : BChunk)
  let n := nctl + gs.length + datas.length
  let tables ← if pr.locs.isEmpty then some [] else (va n).map fun a =>
    [(⟨5, 3, pr.table.flatMap fun w => leBytes 4 w.toNat, a⟩ : BChunk)]
  let groupChunk ← if pr.groups.isEmpty then some [] else (va (n + tables.length)).map fun a =>
    [(⟨6, 3, groupTableBytes pr.groups, a⟩ : BChunk)]
  let chunks := ctlChunk ++ secs.map Prod.fst ++ dataChunks ++ tables ++ groupChunk
  guard (chunks.all fun c => c.vaddr % 2 ^ c.align == 0)
  return ⟨chunks, secs.map Prod.snd, pr.groups, holderLocs pr⟩

end Sys2Proof.Machine
end

