-- ==== Sys2Proof/Safety.lean ====
section
/-! DEFINITION. Safety: what counts as a safe run, in the terms that claims use. -/

namespace Sys2Proof

open Machine

/-- A step goes on: it neither stops with a fault nor is refused. -/
def Safe (s : State) : Prop := ∃ t, Machine.step s = .next t

/-- A state that some number of steps reach from another. -/
inductive Reaches : State → State → Prop where
  | refl (s : State) : Reaches s s
  | step {s t u : State} : Machine.step s = .next t → Reaches t u → Reaches s u

/-- A run from a state never stops. -/
def SafeRun (s : State) : Prop := ∀ t, Reaches s t → Safe t

end Sys2Proof
end

