-- ==== Sys2Proof/Tests/Slice0.lean ====
section
/-! SUPPORT. Tests of slice 0: ill-formed terms that WellFormed refuses, words written out bit by bit from the manual's encodings,
values from the manual's worked examples and tables, and a witness for the hypotheses of each obligation. -/

open Sys2Proof Sys2Proof.Machine

/-! ## Helpers: a block of one slot, with its operands, on a node of a machine that has just been reset -/

namespace Sys2Proof.Tests

/-- A slot that has received these operands. -/
def slotWith (os : List Value) : Slot := ⟨os[0]?, os[1]?, os[2]?, none, .idle⟩

/-- A live node block at time 5 with room for deliveries and stores, whose one slot has these operands. -/
def nodeBlock (os : List Value) : Frame :=
  { Frame.blank with live := true, agent := .node 0, kind := .node, header := 0x00FF0000, slots := [slotWith os], time := 5 }

/-- The machine with that block. -/
def at_ (os : List Value) : State := { State.reset with cur := nodeBlock os }

/-- The same block as a control block of region 0. -/
def ctl (os : List Value) : State :=
  { State.reset with cur := { nodeBlock os with agent := .ctl 0, kind := .control, addr := 0x4000 } }

/-- A DATA operand. -/
def d (w : W64) : Value := .data w

/-- A page capability, with R and W, of the 64 KiB page at 0x0123_0000. -/
def cap : Value := ⟨.data, false, true, (0x0000C00001231230#64).setWidth 512⟩

/-- A token at a time. -/
def tok (v : Value) (t : LTime) : Token := ⟨v, t, 0⟩

/-- The node with these tokens at ports 3 and 4, and these frontiers. -/
def ports (a b : List Token) (fr : LTime) : State :=
  (at_ []).onPe 0 fun p => { p with inports := [(3, { InPort.blank with q := a, frontier := fr }), (4, { InPort.blank with q := b, frontier := fr })] }

/-- Local page 0 is present. -/
def present (s : State) : State := s.onPe 0 fun p => { p with lpt := [(0, { p.lptAt 0 with p := true })] }

/-! ## Witnesses: the hypotheses of each statement hold together somewhere -/

theorem witness_StepRunsDecodedInstruction :
    let s := { at_ [d 1, d 2] with cur := { nodeBlock [d 1, d 2] with words := [0x20000000] } }
    s.fabricOff = false ∧ s.tick.agenda = [] ∧ s.tick.cur.dueSlot = some 0 ∧ s.tick.cur.words[0]? = some 0x20000000 ∧
      decode 0x20000000 = .ok (.add .always .none .none) ∧ (Instr.add .always .none .none).wellFormed = true :=
  ⟨rfl, rfl, by decide, rfl, rfl, rfl⟩

theorem witness_StepRunsTheAgenda :
    let s := { at_ [] with agenda := [.slot 0], cur := { nodeBlock [] with words := [0xFE000000] } }
    s.tick.agenda = .slot 0 :: [] ∧ s.tick.cur.words[0]? = some 0xFE000000 ∧
      (∀ i, decode 0xFE000000 = .ok i → i.wellFormed = false) ∧
      ({ at_ [] with agenda := [.event .powerUp] } : State).tick.agenda = .event .powerUp :: [] ∧ Instr.powerUp.encoded = false :=
  ⟨rfl, rfl, (fun _ h => nomatch (show Except.error DecodeError.illegalOpcode = Except.ok _ from h)), rfl, rfl⟩

theorem witness_DecodeAndEncodeAgree : (Instr.add .ifTrue (.reg 63) (.opX 63)).encoded = true ∧
    (Instr.add .ifTrue (.reg 63) (.opX 63)).wellFormed = true := ⟨rfl, rfl⟩

/-- Whether an outcome is a next state. -/
def isNext : Host.Outcome State Fault Refusal → Bool
  | .next _ => true
  | _ => false

theorem next_of_isNext {o : Host.Outcome State Fault Refusal} (h : isNext o = true) : ∃ t, o = .next t := by
  cases o with
  | next t => exact ⟨t, rfl⟩
  | fault f => exact absurd h (by simp [isNext])
  | refused r => exact absurd h (by simp [isNext])

theorem witness_StepKeepsMemoryCanonical : State.reset.mem.wf = true ∧ ∃ t, step State.reset = .next t :=
  ⟨by decide, next_of_isNext (by decide +kernel)⟩

theorem witness_KindsPredicatesAndWaiting :
    Claim.Ready (at_ [.ofKind .err, .ofKind .null]) .always [.ofKind .err, .ofKind .null] ∧
    nonData [.ofKind .err, .ofKind .null] = some .null ∧ nonData [d 1, .ofKind .err] = some .err ∧
    nonData [.ofKind .eos, .ofKind .eor] = some .eos ∧ nonData [.ofKind .eor, .ofKind .bound] = some .eor ∧
    nonData [.ofKind .bound, .ofKind .absent] = some .bound ∧
    ({ nodeBlock [] with slots := [{ slotWith [] with pred := some (d 0) }] }).skips .ifTrue = true ∧
    ({ nodeBlock [] with slots := [{ slotWith [] with pred := some (d 0) }] }).skips .ifFalse = false ∧
    (at_ [d 1]).cur.skips .always = false ∧ (at_ [d 1]).cur.slot.op1 = none ∧ (at_ [d 1]).cur.slot.phase = .idle := by
  and_intros <;> first | decide | rfl

theorem witness_DeliveriesHaveTheirEffect :
    ((nodeBlock []).slotAt 0).op0 = none ∧ ((nodeBlock [d 1]).slotAt 0).op0 = some (d 1) ∧
    (nodeBlock []).regTaken 63 = false ∧ ({ nodeBlock [] with acts := [(0, .reg 63 none)] }).regTaken 63 = true ∧
    (nodeBlock []).outs < (nodeBlock []).nout ∧ ({ nodeBlock [] with outs := 15 }).nout ≤ 15 ∧
    ({ nodeBlock [] with ovf := [63] }).ovf.contains 63 = true ∧ (Value.ofKind .err).kind ≠ .data := by
  and_intros <;> first | decide | rfl

theorem witness_ReadsAndMovesDeliver :
    Claim.Ready (at_ []) .always [] ∧ Claim.Ready (at_ [d 7]) .always [d 7] ∧ (d 7).isData = true ∧
    ((at_ []).getReg (.node 0) 63).st = .empty ∧
    (((at_ []).onPe 0 fun p => { p with nregs := [(3, { Reg.blank with st := .full })] }).getReg (.node 0) 3).st = .full ∧
    (((at_ []).onPe 0 fun p => { p with nregs := [(3, { Reg.blank with st := .failed ⟨.memerr, 1, 0⟩ })] }).getReg (.node 0) 3).st =
      .failed ⟨.memerr, 1, 0⟩ := ⟨rfl, rfl, rfl, by decide, by decide, by decide⟩

theorem witness_TwoOperandIntegerResults :
    Claim.Ready (at_ [d (.intMin 64), d (.allOnes 64)]) .always [d (.intMin 64), d (.allOnes 64)] ∧
    Claim.Ready (at_ [d 7, d 0]) .always [d 7, d 0] ∧ (d 7).isData = true ∧ (d 0).isData = true ∧ (d 0).lo = 0 ∧
    (d (.intMin 64)).lo = BitVec.intMin 64 ∧ (d (.allOnes 64)).lo = BitVec.allOnes 64 := by
  and_intros <;> first | decide | rfl

theorem witness_BitFieldsAndCounts :
    Claim.Ready (at_ [d 0]) .always [d 0] ∧ Claim.Ready (at_ [d 1, d 0x3F3F]) .always [d 1, d 0x3F3F] ∧
    Claim.Ready (at_ [d 1, d 2, d 0x3F00]) .always [d 1, d 2, d 0x3F00] := ⟨rfl, rfl, rfl⟩

theorem witness_CompareAndImmediateResults :
    Claim.Ready (at_ [d (.intMin 64), d 1]) .always [d (.intMin 64), d 1] ∧ (d (.intMin 64)).lo.toInt < (d 1).lo.toInt ∧
    ¬ ((d (.intMin 64)).lo.toNat < (d 1).lo.toNat) := ⟨rfl, by decide, by decide⟩

theorem witness_CompareAndImmediateResults_immediate : Claim.Ready (at_ [d 5]) .always [d 5] ∧ (d 5).isData = true := ⟨rfl, rfl⟩

theorem witness_ReadsAndMovesDeliver_select :
    Claim.Ready (at_ [d 2, .ofKind .eos, d 9]) .always [d 2, .ofKind .eos, d 9] ∧ (d 2).lo ≠ 0 ∧ (d 2).bits.getLsbD 0 = false ∧
    Claim.Ready (at_ [.ofKind .absent, d 1, d 9]) .always [.ofKind .absent, d 1, d 9] ∧ (Value.ofKind .absent).isData = false ∧
    nonData [.ofKind .absent, d 1, d 9] = some .absent := ⟨rfl, by decide, by decide, rfl, rfl, rfl⟩

theorem witness_ReceivesAndJoins :
    Claim.Ready (ports [] [] 0) .always [] ∧ (ports [tok (d 1) 5] [] 0).heads (nodeBlock []) 3 = [tok (d 1) 5] ∧
    (ports [] [] 0).heads (nodeBlock []) 3 = [] ∧ ¬ (5 : LTime) < ((ports [] [] 5).portOf (nodeBlock []) 3).frontier ∧
    (5 : LTime) < ((ports [] [] 6).portOf (nodeBlock []) 3).frontier ∧
    (ports [tok (d 1) 4, tok (d 2) 5, tok (d 3) 6] [] 0).heads (nodeBlock []) 3 = [tok (d 1) 4, tok (d 2) 5, tok (d 3) 6] ∧
    (ports [tok (d 0x200000000) 5] [tok (d 0x300000000) 5] 0).heads (nodeBlock []) 4 = [tok (d 0x300000000) 5] ∧
    keyOf (d 0x200000000) < keyOf (d 0x300000000) ∧ ((ports [] [] 0).portOf (nodeBlock []) 3).key = none := by
  and_intros <;> first | decide | (unfold Claim.Ready; decide)

theorem witness_ExitsAreTaken :
    Claim.Ready (ctl []) .always [] ∧ (ctl []).cur.exit = none ∧ (ctl []).myRegion.rstack = [] ∧
    16 ≤ ((ctl []).onRegion 0 fun r => { r with rstack := List.replicate 16 0 }).myRegion.rstack.length ∧
    (ctl []).sectView.st = .idle ∧ (ctl []).myGroup 0 = none ∧
    ((ctl []).onRegion 0 fun r => { r with sect := .armed }).sectView.st ≠ .idle ∧
    Claim.Ready (ctl [d 0x4002]) .always [d 0x4002] ∧ bits (d 0x4002).lo 1 0 ≠ 0 ∧ bits (d 0x4004).lo 1 0 = 0 := by
  and_intros <;> first | decide | rfl

/-- The tables of the worked example (05 Table 5-6), with a leaf at the third level. -/
def tables : State :=
  let put := fun (m : Memory) (a w : Nat) => m.writeBytes a ((List.range 8).map fun k => BitVec.ofNat 8 (w / 256 ^ k))
  { at_ [d 0x00000C00A0101234] with
    mem := put (put (put [] 0x20000018 0x8000000020010000) 0x20010028 0x8000000020020000) 0x20020080 0x8000000001230007,
    regions := [(0, { Region.blank with xroot := 0x8000000020000000 })] }

theorem witness_TranslateDeliversCapability :
    Claim.Ready tables .always [d 0x00000C00A0101234] ∧ tables.holdOf (.slot (.node 0) 0) 0xA010 = .free ∧
    (tables.translate (.pe (agentNumber (.node 0))) 0 (tables.region 0).xroot 0x00000C00A0101234 false false true).2 =
      .leaf 0x8000000001230007 false ∧
    (tables.translate (.pe (agentNumber (.node 0))) 0 (tables.region 0).xroot 0x00000C00A0110000 false false false).2 = .fail .notmapped ∧
    ((at_ []).translate (.pe (agentNumber (.node 0))) 0 0 0x0040000000000000 false false false).2 = .fail .noncanon :=
  ⟨by unfold Claim.Ready; decide, by decide, by decide +kernel, by decide +kernel, by decide +kernel⟩

theorem witness_WalkReadsThreeLevels :
    canonical 0x00000C00A0101234 = true ∧ bitAt (0x8000000020000000 : W64) 63 = true ∧
    (tables.walkRead (peRequester 0) 0x20000018).2 = some 0x8000000020010000 ∧ malformed 1 0x8000000020010000 = false ∧
    (tables.walkRead (peRequester 0) 0x20010028).2 = some 0x8000000020020000 ∧ malformed 2 0x8000000020020000 = false ∧
    (tables.walkRead (peRequester 0) 0x20020080).2 = some 0x8000000001230007 ∧ malformed 3 0x8000000001230007 = false ∧
    bitAt (0x8000000001230007 : W64) 2 = true := by
  and_intros <;> decide +kernel

theorem witness_PageAddKeepsCapInsideThePage :
    Claim.Ready (at_ [cap, d 0xEDCC]) .always [cap, d 0xEDCC] ∧ cap.isData = true ∧ cap.cap = true ∧
    Claim.Ready (at_ [d (1 <<< 63), d 1]) .always [d (1 <<< 63), d 1] ∧ (d (1 <<< 63)).cap = false ∧
    bitAt (d (1 <<< 63)).lo 63 = true ∧ Claim.Fresh (at_ [d 0]) ∧ Claim.Ready (at_ [d 0]) .always [d 0] := by
  and_intros <;> first | decide | rfl

theorem witness_AddressFaultsArePrecise :
    Claim.deviceForm (.ld .always .none 0 .x64 0) = some (.load, 0, 8, 1) ∧
    Claim.deviceForm (.cas .always .none 0 .x128 63) = some (.rmw, 63 * 16, 16, 3) ∧
    predMode (.ld .always .none 0 .x64 0) = some .always ∧ Claim.Fresh (at_ [cap]) ∧
    Claim.Ready (at_ [cap]) .always [cap] ∧ (((cap.lo.setWidth 46).toNat : Int) + 4) % 8 ≠ 0 ∧
    bitAt cap.lo 46 = true ∧ bitAt cap.lo 47 = true ∧
    Claim.localForm (.ldl .always .none 0 .x64 64) = some (-512, 8, 1) ∧ Claim.Ready (at_ [d 0]) .always [d 0] ∧
    524288 < (524281 : Int) + 8 := by
  and_intros <;> first | decide | rfl

theorem witness_DeviceAccessesAreMade :
    Claim.Ready (at_ [cap]) .always [cap] ∧ cap.isData = true ∧ Claim.Fresh (at_ [cap]) ∧ (at_ [cap]).cur.storesClear 0 = true ∧
    capAddress cap .load 0 8 = .ok 0x1231230 ∧ capAddress cap .store 0 8 = .ok 0x1231230 ∧
    capAddress cap .rmw 0 8 = .ok 0x1231230 ∧ capAddress cap .load 16 64 = .ok 0x1231240 ∧
    Claim.Ready (at_ [cap, d 1]) .always [cap, d 1] ∧ Claim.Ready (at_ [cap, d 1, d 2]) .always [cap, d 1, d 2] := by
  and_intros <;> first | decide | rfl

theorem witness_LocalAccessesAreMade :
    Claim.Ready (present (at_ [d 0x40])) .always [d 0x40] ∧ Claim.Fresh (present (at_ [d 0x40])) ∧
    (present (at_ [d 0x40])).cur.storesClear 0 = true ∧ ((present (at_ [])).pe 0).present 0 0 = true ∧
    ((present (at_ [])).pe 0).badGran 0x40 8 = none ∧ localAddress (d 0x40) 0 8 = .ok 0x40 ∧
    localAddress (d 0x40) 64 64 = .ok 0x80 ∧ ((present (at_ [])).pe 0).isFull 4 = false ∧
    Claim.Ready (at_ [d 0x40, d 1]) .always [d 0x40, d 1] := by
  and_intros <;> first | decide | (unfold Claim.Ready; decide) | rfl

theorem witness_LocalAccessesAtTheCommit :
    ((present (at_ [])).pe 0).present 0 (0xFF8 / 4096) = true ∧ 0 < 8 ∧ (64 : Nat) ≤ 64 := ⟨by decide, by decide, by decide⟩

theorem witness_AtomicsReturnTheOldValue :
    let r := { Req.blank with op := .atom .add, addr := 56, n := 8 }
    r.addr % 64 + r.n ≤ 64 ∧ 0 < r.n ∧ r.op = .atom .add ∧ ({ r with op := .cas }).op = .cas := ⟨by decide, by decide, rfl, rfl⟩


/-! ## WellFormed: one ill-formed term for each check -/

theorem test_wellFormed_refuses :
    Instr.wellFormed (.join 3 3 .madd .none) = false ∧ Instr.wellFormed (.fence .always 1 .node) = false ∧
    Instr.wellFormed (.cmp .always .none .none .eq true) = false ∧ Instr.wellFormed (.atom .always (.opL 1) 0 .x64 .add 0) = false ∧
    Instr.wellFormed (.atom .always .none 0 .x128 .add 0) = false ∧ Instr.wellFormed (.atoml .always (.port 1) 0 .x64 .add 0) = false ∧
    Instr.wellFormed (.cas .always .none 0 .z8 0) = false ∧ Instr.wellFormed (.epatom .always .none .none .fadd) = false ∧
    Instr.wellFormed (.lmstream .always (.reg 1)) = false ∧ Instr.wellFormed (.cvt .always .none .f32 false 0 .f32 .rn) = false ∧
    Instr.wellFormed (.cvt .always .none .f32 true 0 .f16 .rn) = false ∧ Instr.wellFormed (.cvt .always .none .f16 false 1 .f32 .rn) = false ∧
    Instr.wellFormed (.cvti .always .none .w32 true .vf32 .rn) = false ∧ Instr.wellFormed (.cvtf .always .none .w32 true .vf32 .rn) = false ∧
    Instr.wellFormed (.gxunp .always .none .none .f32 .gx4) = false ∧ Instr.wellFormed (.mrel .always (.opL 3) .f32 0) = false ∧
    Instr.wellFormed (.pact .always (.reg 1) .none .act) = false ∧ Instr.wellFormed (.callq .always .rast true) = false := by decide

/-! ## Words that are illegal, each for its reason (09 R137, R141, R159; 29 Table 29-2) -/

theorem test_decode_refuses :
    decode 0x00000000 = .error .illegalOpcode ∧ decode 0xFE000000 = .error .illegalOpcode ∧ decode 0x98000000 = .error .reservedOpcode ∧
    decode (0b0100000#7 ++ 0b11#2 ++ 0#23) = .error .illegalPm ∧ decode (0b0000010#7 ++ 0b00#2 ++ 0b000000001#9 ++ 0#14) = .error .badTarget ∧
    decode (0b0000010#7 ++ 0b00#2 ++ 0b111000000#9 ++ 0#14) = .error .badTarget ∧
    decode (0b0000010#7 ++ 0b00#2 ++ 0#18 ++ 0b00001#5) = .error .unassigned := by
  and_intros <;> rfl

/-! ## Words that the manual gives with their assembly -/

/-- The node `bucket` (10 Table 10-9). -/
theorem test_decode_bucket :
    [0x06104009, 0x0810B8DD, 0x082179B9, 0x0C008A46, 0x02190C00, 0x2411C000, 0x48128004, 0x56120020, 0x58228036, 0x066283FF, 0x4A514000].map decode =
      [.ok (.movi .always (.opL 1) 9), .ok (.movis .always (.opL 2) 0x38DD), .ok (.movis .always (.opR 5) 0x39B9),
       .ok (.recv 0 (.opL 5) (.opL 6)), .ok (.read 3 false (.opR 6) .none), .ok (.mul .always (.opL 7) .none),
       .ok (.cmp .always (.opL 10) .none .lt false), .ok (.shli .always (.opL 8) 32), .ok (.shri .always (.opR 10) 54),
       .ok (.movi .always (.opX 10) 1023), .ok (.sel .always (.port 5) .none false)] := rfl

/-- The examples of 05 (XLATE.nf), 13 R208 (CVT), 22 (CALLQ), 24 R371 and R376 (SYS, SREG) and 26 Table 26-8. -/
theorem test_decode_examples :
    decode 0x60118001 = .ok (.xlate .always (.opL 6) .none false true) ∧
    decode 0xBC11CC08 = .ok (.cvt .always (.opL 7) .bf16 true 0 .f32 .rn) ∧ decode 0xF6000000 = .ok (.callq .always .rast false) ∧
    decode 0xF8414003 = .ok (.sysFeatq .always (.reg 5) .none) ∧ decode 0xF8000001 = .ok (.sysEret .always) ∧
    decode 0xF841C004 = .ok (.sysWdog .always (.reg 7) .none) ∧ decode 0xFA414000 = .ok (.sregRd .always (.reg 5) 0) ∧
    decode 0xFA002000 = .ok (.sregWr .always 0) ∧ decode 0xF8410006 = .ok (.sysPmonrd .always (.reg 4) .none) := by
  and_intros <;> rfl

/-! ## Results that the manual works out -/

/-- The machine after an instruction on a node, from operands. -/
def after (i : Instr) (os : List Value) : State :=
  match exec i (at_ os) with
  | .next t => t
  | _ => State.reset

/-- What the instruction delivers to n5 or to port 5, with the flags that its block raises. -/
def gives (i : Instr) (os : List Value) : Option W512 × List Flags :=
  let f := (after i os).cur
  ((f.acts.findSome? fun a => match a.2 with
    | .reg 5 (some v) => some v.bits
    | .send 5 (some v) => some v.bits
    | _ => none), f.flags.map Prod.snd)

/-- A result with no flag, and with some: invalid, division by zero, overflow, underflow, inexact. -/
def exact_ (w : W64) : Option W512 × List Flags := (some (w.setWidth 512), [Flags.none])
def raised (w : W64) (f : Flags) : Option W512 × List Flags := (some (w.setWidth 512), [f])

def r5 : Tgt := .reg 5
def always : Pm := .always
def NX : Flags := { Flags.none with nx := true }
def NV : Flags := { Flags.none with nv := true }
def DZ : Flags := { Flags.none with dz := true }
def OFNX : Flags := { Flags.none with ovf := true, nx := true }

/-- 13 Table 13-4, the rows of FMINMAX and FCMP. -/
theorem test_table_13_4_compares :
    gives (.fminmax always r5 .none .f32 .min) [d 0x80000000, d 0] = exact_ 0x80000000 ∧
    gives (.fminmax always r5 .none .f32 .min) [d 0x7FC00001, d 0x3F800000] = exact_ 0x3F800000 ∧
    gives (.fminmax always r5 .none .f32 .minp) [d 0x7FC00001, d 0x3F800000] = exact_ 0x7FC00001 ∧
    gives (.fcmp always r5 .none .f32 .eq) [d 0x7FC00000, d 0x7FC00000] = exact_ 0 ∧
    gives (.fcmp always r5 .none .f32 .lt) [d 0x7FC00000, d 0x3F800000] = raised 0 NV :=
  ⟨by decide +kernel, by decide +kernel, by decide +kernel, by decide +kernel, by decide +kernel⟩

/-- 13 Table 13-4, the rows of arithmetic. -/
theorem test_table_13_4_arithmetic :
    gives (.fdiv always r5 .none .f16 .rn) [d 0x3C00, d 0x8000] = raised 0xFC00 DZ ∧
    gives (.fsqrt always r5 .none .f32 .rn) [d 0x80000000] = exact_ 0x80000000 ∧
    gives (.frsq always r5 .none .f32 .rn) [d 0] = raised 0x7F800000 DZ ∧
    gives (.frnd always r5 .none .f32 .rn) [d 0x40200000] = raised 0x40000000 NX ∧
    gives (.frnd always r5 .none .f32 .rn) [d 0xBE99999A] = raised 0x80000000 NX ∧
    gives (.fexp2 always r5 .none .f32 .rn) [d 0x43000000] = raised 0x7F800000 OFNX ∧
    gives (.flog2 always r5 .none .f32 .rn) [d 0x80000000] = raised 0xFF800000 DZ := by
  and_intros <;> decide +kernel

/-- 13 Table 13-4, the rows of conversions. -/
theorem test_table_13_4_conversions :
    gives (.cvt always r5 .f16 false 0 .f32 .rn) [d 0x477FF000] = raised 0x7C00 OFNX ∧
    gives (.cvt always r5 .f16 false 0 .f32 .rz) [d 0x477FF000] = raised 0x7BFF NX ∧
    gives (.cvt always r5 .bf16 false 0 .f32 .rn) [d 0x7F800001] = exact_ 0x7F81 ∧
    gives (.cvti always r5 .w32 true .f32 .rz) [d 0x4F000000] = raised 0x7FFFFFFF NV ∧
    gives (.cvti always r5 .w32 false .f32 .rn) [d 0xBF800000] = raised 0 NV ∧
    gives (.cvtf always r5 .w64 false .f16 .rn) [d 0xFFFFFFFFFFFFFFFF] = raised 0x7C00 OFNX :=
  ⟨by decide +kernel, by decide +kernel, by decide +kernel, by decide +kernel, by decide +kernel, by decide +kernel⟩

/-- 13 R210 with 03 Table 3-6: GXPACK.gx4.vf32 of the 16 worked values, in lane order. -/
theorem test_gxpack_table_3_6 :
    let lanes : List Nat := [0x3FC00000, 0xBF400000, 0x3DCCCCCD, 0x3E4CCCCD, 0, 0x80000000, 0x40400000, 0x3F000000, 0x3E800000, 0x3E000000,
      0xC0200000, 0x3F800000, 0x3E99999A, 0xBE99999A, 0x3D800000, 0x3EE00000]
    let v : Value := .wideData (BitVec.ofNat 512 (lanesNat 32 lanes))
    gives (.gxpack always (.port 5) .none .gx4) [v] =
      (some (BitVec.ofNat 512 (leNat [0x80, 0xC1, 0xB6, 0x10, 0x80, 0x16, 0x00, 0x2D, 0xD5, 0x71])), [NX]) := by decide +kernel

/-- 04 Table 4-4, rows 1 and 4: the scale −3 moves E, and e0 after the byte store is 2.0 in its quad. -/
theorem test_gx_table_4_4 :
    gxPack 4 (gxEncode 4 ([.fin false 63 (-5), .fin true 3 (-2), .fin false 0 0, .fin false 1 (-2)] ++
      ((gxVals 4 (gxUnpack 4 (leNat [0x80, 0xC1, 0xB6, 0x10, 0x80, 0x16, 0x00, 0x2D, 0xD5, 0x71]))).getD []).drop 4)).1 =
    leNat [0x80, 0xC0, 0xA4, 0x00, 0x80, 0x16, 0x00, 0x2D, 0xD5, 0x71] := by decide +kernel

/-- 02 Table 2-3: the slices of three addresses, with entry 0 of the table as it stands there. -/
theorem test_table_2_3 :
    let s : State := { State.reset with art := [(0, ⟨0x1000000, 0x1FFFFFF, 0xFFFFFFFFFFFFFFFF, 21, 0, true⟩)] }
    s.sliceOf 0x000041234567 = 9 ∧ s.sliceOf 0x000000012340 = 143 ∧ s.sliceOf 0x010000000000 = 128 :=
  ⟨by decide +kernel, by decide +kernel, by decide +kernel⟩

/-- 05 Table 5-6 and the text after it: XLATE, PAOFF and PAADD. -/
theorem test_table_5_6 :
    let deliver := fun (o : Host.Outcome State Fault Refusal) => match o with
      | .next t => t.cur.acts.findSome? fun a => match a.2 with
        | .reg 5 (some v) => some (v.cap, v.lo)
        | _ => none
      | _ => none
    let pa : Value := ⟨.data, false, true, (0x0000C00001231234#64).setWidth 512⟩
    let other : State := { tables with cur := nodeBlock [d 0x00000C00A0110000] }
    deliver (exec (.xlate always r5 .none false true) tables) = some (true, 0x0000C00001231234) ∧
    deliver (exec (.xlate always r5 .none false true) other) = some (false, 0x80800C00A0110000) ∧
    deliver (exec (.paoff always r5 4096) (at_ [pa])) = some (true, 0x0000C00001232234) ∧
    deliver (exec (.paadd always r5 .none) (at_ [pa, d 0xEDCC])) = some (false, 0x0000C00001240000) :=
  ⟨by decide +kernel, by decide +kernel, by decide +kernel, by decide +kernel⟩

/-- 20 R308: TIME.make applied to ⟨1 | 0⟩ with op1 = 0x1009. -/
theorem test_time_make : gives (.timeMake always r5 .none) [d 0x0000100000000000, d 0x1009] = (some 0x0000100200000000, []) := by decide +kernel

/-- 10 Table 10-10: the product of `bucket`, and its choice. -/
theorem test_table_10_10 :
    gives (.mul always r5 .none) [d 5, d 0x9E3779B9] = (some 0x000000031715609D, []) ∧
    gives (.mul always r5 .none) [d 1000, d 0x9E3779B9] = (some 0x0000026A08B37AA8, []) ∧
    gives (.cmp always r5 .none .lt false) [d 5, d 1000] = (some 1, []) ∧
    gives (.shri always r5 54) [d 0x1715609D00000000] = (some 92, []) := ⟨by decide +kernel, by decide +kernel, by decide +kernel, by decide +kernel⟩

/-- 17 Table 17-7: what is chosen with WAIT and PASS as in rounds 1, 16 and 17. -/
theorem test_table_17_7 :
    let x := fun (n p1 p2 : Nat) (b2 : List Nat) =>
      ({ Streamer.blank with blocks := [(0, ⟨[], [], 0⟩), (1, ⟨[], List.replicate n 1, p1⟩), (2, ⟨[], b2, p2⟩)] }).select
    x 7 0 0 [5] = some 1 ∧ x 7 0 15 [5] = some 1 ∧ x 7 0 16 [5] = some 2 ∧ x 7 1 0 [] = some 1 := by decide


/-! ## Words written out bit by bit from the encodings of the manual: every encoded instruction -/

theorem test_decode_moves_and_receives :
    decode (0b0000001#7 ++ 0b100101#6 ++ 0b1#1 ++ 0b100000101#9 ++ 0b010001001#9) = .ok (.read 37 true (.reg 5) (.opR 9)) ∧
    decode (0b0000010#7 ++ 0b01#2 ++ 0b100000101#9 ++ 0b010001001#9 ++ 0b00000#5) = .ok (.mov .ifTrue (.reg 5) (.opR 9)) ∧
    decode (0b0000011#7 ++ 0b01#2 ++ 0b100000101#9 ++ 0b10000000000011#14) = .ok (.movi .ifTrue (.reg 5) 8195) ∧
    decode (0b0000100#7 ++ 0b01#2 ++ 0b100000101#9 ++ 0b10000000000011#14) = .ok (.movis .ifTrue (.reg 5) 8195) ∧
    decode (0b0000101#7 ++ 0b01#2 ++ 0b100000101#9 ++ 0b010001001#9 ++ 0b00000#5) = .ok (.null .ifTrue (.reg 5) (.opR 9)) ∧
    decode (0b0000110#7 ++ 0b100101#6 ++ 0b0#1 ++ 0b100000101#9 ++ 0b010001001#9) = .ok (.recv 37 (.reg 5) (.opR 9)) ∧
    decode (0b0000111#7 ++ 0b100101#6 ++ 0b0#1 ++ 0b100000101#9 ++ 0b010001001#9) = .ok (.recvk 37 (.reg 5) (.opR 9)) ∧
    decode (0b0001000#7 ++ 0b100101#6 ++ 0b0#1 ++ 0b100000101#9 ++ 0b010001001#9) = .ok (.recvo 37 (.reg 5) (.opR 9)) ∧
    decode (0b0001001#7 ++ 0b100101#6 ++ 0b100101#6 ++ 0b011#3 ++ 0b100000101#9 ++ 0b0#1) = .ok (.join 37 37 .madd (.reg 5)) ∧
    decode (0b0001010#7 ++ 0b01#2 ++ 0b101#3 ++ 0b10000000000000000101#20) = .ok (.bro .ifTrue 5 524293) ∧
    decode (0b0001011#7 ++ 0b01#2 ++ 0b00000000000000000000#20 ++ 0b101#3) = .ok (.bri .ifTrue 5) ∧
    decode (0b0001100#7 ++ 0b01#2 ++ 0b101#3 ++ 0b10000000000000000101#20) = .ok (.callo .ifTrue 5 524293) ∧
    decode (0b0001101#7 ++ 0b01#2 ++ 0b00000000000000000000#20 ++ 0b101#3) = .ok (.retb .ifTrue 5) ∧
    decode (0b0001110#7 ++ 0b01#2 ++ 0b00000000000000000000000#23) = .ok (.halt .ifTrue) := by
  and_intros <;> rfl

theorem test_decode_integer :
    decode (0b0001111#7 ++ 0b01#2 ++ 0b000000000000000000#18 ++ 0b10#2 ++ 0b010#3) = .ok (.fence .ifTrue 2 .group) ∧
    decode (0b0010000#7 ++ 0b01#2 ++ 0b100000101#9 ++ 0b010001001#9 ++ 0b00000#5) = .ok (.add .ifTrue (.reg 5) (.opR 9)) ∧
    decode (0b0010001#7 ++ 0b01#2 ++ 0b100000101#9 ++ 0b010001001#9 ++ 0b00000#5) = .ok (.sub .ifTrue (.reg 5) (.opR 9)) ∧
    decode (0b0010010#7 ++ 0b01#2 ++ 0b100000101#9 ++ 0b010001001#9 ++ 0b00000#5) = .ok (.mul .ifTrue (.reg 5) (.opR 9)) ∧
    decode (0b0010011#7 ++ 0b01#2 ++ 0b100000101#9 ++ 0b010001001#9 ++ 0b0000#4 ++ 0b1#1) = .ok (.mulh .ifTrue (.reg 5) (.opR 9) true) ∧
    decode (0b0010100#7 ++ 0b01#2 ++ 0b100000101#9 ++ 0b010001001#9 ++ 0b0000#4 ++ 0b1#1) = .ok (.div .ifTrue (.reg 5) (.opR 9) true) ∧
    decode (0b0010101#7 ++ 0b01#2 ++ 0b100000101#9 ++ 0b010001001#9 ++ 0b0000#4 ++ 0b1#1) = .ok (.rem .ifTrue (.reg 5) (.opR 9) true) ∧
    decode (0b0010110#7 ++ 0b01#2 ++ 0b100000101#9 ++ 0b010001001#9 ++ 0b00000#5) = .ok (.and .ifTrue (.reg 5) (.opR 9)) ∧
    decode (0b0010111#7 ++ 0b01#2 ++ 0b100000101#9 ++ 0b010001001#9 ++ 0b00000#5) = .ok (.or .ifTrue (.reg 5) (.opR 9)) ∧
    decode (0b0011000#7 ++ 0b01#2 ++ 0b100000101#9 ++ 0b010001001#9 ++ 0b00000#5) = .ok (.xor .ifTrue (.reg 5) (.opR 9)) ∧
    decode (0b0011001#7 ++ 0b01#2 ++ 0b100000101#9 ++ 0b010001001#9 ++ 0b00000#5) = .ok (.andn .ifTrue (.reg 5) (.opR 9)) ∧
    decode (0b0011010#7 ++ 0b01#2 ++ 0b100000101#9 ++ 0b010001001#9 ++ 0b00000#5) = .ok (.shl .ifTrue (.reg 5) (.opR 9)) ∧
    decode (0b0011011#7 ++ 0b01#2 ++ 0b100000101#9 ++ 0b010001001#9 ++ 0b00000#5) = .ok (.shr .ifTrue (.reg 5) (.opR 9)) ∧
    decode (0b0011100#7 ++ 0b01#2 ++ 0b100000101#9 ++ 0b010001001#9 ++ 0b00000#5) = .ok (.sra .ifTrue (.reg 5) (.opR 9)) ∧
    decode (0b0011101#7 ++ 0b01#2 ++ 0b100000101#9 ++ 0b010001001#9 ++ 0b00000#5) = .ok (.rot .ifTrue (.reg 5) (.opR 9)) ∧
    decode (0b0011110#7 ++ 0b01#2 ++ 0b100000101#9 ++ 0b010001001#9 ++ 0b0000#4 ++ 0b1#1) = .ok (.min .ifTrue (.reg 5) (.opR 9) true) ∧
    decode (0b0011111#7 ++ 0b01#2 ++ 0b100000101#9 ++ 0b010001001#9 ++ 0b0000#4 ++ 0b1#1) = .ok (.max .ifTrue (.reg 5) (.opR 9) true) ∧
    decode (0b0100000#7 ++ 0b01#2 ++ 0b100000101#9 ++ 0b010001001#9 ++ 0b000#3 ++ 0b1#1 ++ 0b0#1) = .ok (.absneg .ifTrue (.reg 5) (.opR 9) .neg) ∧
    decode (0b0100001#7 ++ 0b01#2 ++ 0b100000101#9 ++ 0b010001001#9 ++ 0b00#2 ++ 0b10#2 ++ 0b0#1) = .ok (.bitc .ifTrue (.reg 5) (.opR 9) .popc) ∧
    decode (0b0100010#7 ++ 0b01#2 ++ 0b100000101#9 ++ 0b010001001#9 ++ 0b0000#4 ++ 0b1#1) = .ok (.bfx .ifTrue (.reg 5) (.opR 9) true) ∧
    decode (0b0100011#7 ++ 0b01#2 ++ 0b100000101#9 ++ 0b010001001#9 ++ 0b00000#5) = .ok (.bfi .ifTrue (.reg 5) (.opR 9)) ∧
    decode (0b0100100#7 ++ 0b01#2 ++ 0b100000101#9 ++ 0b010001001#9 ++ 0b0011#4 ++ 0b1#1) = .ok (.cmp .ifTrue (.reg 5) (.opR 9) .le true) ∧
    decode (0b0100101#7 ++ 0b01#2 ++ 0b100000101#9 ++ 0b010001001#9 ++ 0b000#3 ++ 0b1#1 ++ 0b0#1) = .ok (.sel .ifTrue (.reg 5) (.opR 9) true) ∧
    decode (0b0100110#7 ++ 0b01#2 ++ 0b100000101#9 ++ 0b010001001#9 ++ 0b00#2 ++ 0b10#2 ++ 0b1#1) = .ok (.ext .ifTrue (.reg 5) (.opR 9) .w32 true) ∧
    decode (0b0100111#7 ++ 0b01#2 ++ 0b100000101#9 ++ 0b10000000000011#14) = .ok (.addi .ifTrue (.reg 5) 8195) ∧
    decode (0b0101000#7 ++ 0b01#2 ++ 0b100000101#9 ++ 0b10000000000011#14) = .ok (.andi .ifTrue (.reg 5) 8195) ∧
    decode (0b0101001#7 ++ 0b01#2 ++ 0b100000101#9 ++ 0b10000000000011#14) = .ok (.ori .ifTrue (.reg 5) 8195) ∧
    decode (0b0101010#7 ++ 0b01#2 ++ 0b100000101#9 ++ 0b10000000000011#14) = .ok (.xori .ifTrue (.reg 5) 8195) ∧
    decode (0b0101011#7 ++ 0b01#2 ++ 0b100000101#9 ++ 0b00000000#8 ++ 0b100101#6) = .ok (.shli .ifTrue (.reg 5) 37) ∧
    decode (0b0101100#7 ++ 0b01#2 ++ 0b100000101#9 ++ 0b00000000#8 ++ 0b100101#6) = .ok (.shri .ifTrue (.reg 5) 37) ∧
    decode (0b0101101#7 ++ 0b01#2 ++ 0b100000101#9 ++ 0b00000000#8 ++ 0b100101#6) = .ok (.srai .ifTrue (.reg 5) 37) ∧
    decode (0b0101110#7 ++ 0b01#2 ++ 0b100000101#9 ++ 0b101#3 ++ 0b10000000001#11) = .ok (.cmpi .ifTrue (.reg 5) .geZ 1025) ∧
    decode (0b0101111#7 ++ 0b01#2 ++ 0b100000101#9 ++ 0b10000000000011#14) = .ok (.muli .ifTrue (.reg 5) 8195) := by
  and_intros <;> rfl

theorem test_decode_translation_and_memory :
    decode (0b0110000#7 ++ 0b01#2 ++ 0b100000101#9 ++ 0b010001001#9 ++ 0b000#3 ++ 0b1#1 ++ 0b1#1) = .ok (.xlate .ifTrue (.reg 5) (.opR 9) true true) ∧
    decode (0b0110001#7 ++ 0b01#2 ++ 0b100000101#9 ++ 0b010001001#9 ++ 0b00000#5) = .ok (.paadd .ifTrue (.reg 5) (.opR 9)) ∧
    decode (0b0110010#7 ++ 0b01#2 ++ 0b100000101#9 ++ 0b10000000000011#14) = .ok (.paoff .ifTrue (.reg 5) 8195) ∧
    decode (0b0110011#7 ++ 0b01#2 ++ 0b100000101#9 ++ 0b1001#4 ++ 0b110#3 ++ 0b1001001#7) = .ok (.ld .ifTrue (.reg 5) 9 .x64 73) ∧
    decode (0b0110100#7 ++ 0b01#2 ++ 0b000000000#9 ++ 0b1001#4 ++ 0b110#3 ++ 0b1001001#7) = .ok (.st .ifTrue 9 .x64 73) ∧
    decode (0b0110101#7 ++ 0b01#2 ++ 0b100000101#9 ++ 0b1001#4 ++ 0b111#3 ++ 0b1001001#7) = .ok (.ldv .ifTrue (.reg 5) 9 73) ∧
    decode (0b0110110#7 ++ 0b01#2 ++ 0b000000000#9 ++ 0b1001#4 ++ 0b111#3 ++ 0b1001001#7) = .ok (.stv .ifTrue 9 73) ∧
    decode (0b0110111#7 ++ 0b01#2 ++ 0b100000101#9 ++ 0b1001#4 ++ 0b110#3 ++ 0b1001001#7) = .ok (.ldl .ifTrue (.reg 5) 9 .x64 73) ∧
    decode (0b0111000#7 ++ 0b01#2 ++ 0b000000000#9 ++ 0b1001#4 ++ 0b110#3 ++ 0b1001001#7) = .ok (.stl .ifTrue 9 .x64 73) ∧
    decode (0b0111001#7 ++ 0b01#2 ++ 0b100000101#9 ++ 0b1001#4 ++ 0b110#3 ++ 0b1#1 ++ 0b100101#6) = .ok (.ldlw .ifTrue (.reg 5) 9 .x64 true 37) ∧
    decode (0b0111010#7 ++ 0b01#2 ++ 0b000000000#9 ++ 0b1001#4 ++ 0b110#3 ++ 0b1#1 ++ 0b100101#6) = .ok (.stlf .ifTrue 9 .x64 true 37) ∧
    decode (0b0111011#7 ++ 0b01#2 ++ 0b100000101#9 ++ 0b1001#4 ++ 0b111#3 ++ 0b1001001#7) = .ok (.ldlv .ifTrue (.reg 5) 9 73) ∧
    decode (0b0111100#7 ++ 0b01#2 ++ 0b000000000#9 ++ 0b1001#4 ++ 0b111#3 ++ 0b1001001#7) = .ok (.stlv .ifTrue 9 73) ∧
    decode (0b0111101#7 ++ 0b01#2 ++ 0b100000101#9 ++ 0b1001#4 ++ 0b110#3 ++ 0b1000#4 ++ 0b101#3) = .ok (.atom .ifTrue (.reg 5) 9 .x64 .xchg 5) ∧
    decode (0b0111110#7 ++ 0b01#2 ++ 0b100000101#9 ++ 0b1001#4 ++ 0b110#3 ++ 0b1001001#7) = .ok (.cas .ifTrue (.reg 5) 9 .x64 73) ∧
    decode (0b0111111#7 ++ 0b01#2 ++ 0b100000101#9 ++ 0b1001#4 ++ 0b110#3 ++ 0b1000#4 ++ 0b101#3) = .ok (.atoml .ifTrue (.reg 5) 9 .x64 .xchg 5) := by
  and_intros <;> rfl

theorem test_decode_streams :
    decode (0b1000000#7 ++ 0b01#2 ++ 0b000000000000000000#18 ++ 0b10011#5) = .ok (.bufdef .ifTrue 19) ∧
    decode (0b1000001#7 ++ 0b01#2 ++ 0b100000101#9 ++ 0b010001001#9 ++ 0b10011#5) = .ok (.bufget .ifTrue (.reg 5) (.opR 9) 19) ∧
    decode (0b1000010#7 ++ 0b01#2 ++ 0b000000000000000000#18 ++ 0b10011#5) = .ok (.bufput .ifTrue 19) ∧
    decode (0b1000011#7 ++ 0b01#2 ++ 0b100000101#9 ++ 0b010001001#9 ++ 0b10011#5) = .ok (.bufstat .ifTrue (.reg 5) (.opR 9) 19) ∧
    decode (0b1000100#7 ++ 0b01#2 ++ 0b000000000000000000#18 ++ 0b10011#5) = .ok (.cpyopen .ifTrue 19) ∧
    decode (0b1000101#7 ++ 0b01#2 ++ 0b000000000000000000#18 ++ 0b10011#5) = .ok (.cpyclose .ifTrue 19) ∧
    decode (0b1000110#7 ++ 0b01#2 ++ 0b100000101#9 ++ 0b010001001#9 ++ 0b10011#5) = .ok (.cpywait .ifTrue (.reg 5) (.opR 9) 19) ∧
    decode (0b1000111#7 ++ 0b01#2 ++ 0b100000101#9 ++ 0b100001001#9 ++ 0b00#2 ++ 0b110#3) = .ok (.gather .ifTrue (.reg 5) (.reg 9) .x64) ∧
    decode (0b1001000#7 ++ 0b01#2 ++ 0b00000000000000000000#20 ++ 0b110#3) = .ok (.scatter .ifTrue .x64) ∧
    decode (0b1001001#7 ++ 0b01#2 ++ 0b100000101#9 ++ 0b100001001#9 ++ 0b0#1 ++ 0b1000#4) = .ok (.epatom .ifTrue (.reg 5) (.reg 9) .xchg) ∧
    decode (0b1001010#7 ++ 0b01#2 ++ 0b00000000000000000000000#23) = .ok (.epfence .ifTrue) ∧
    decode (0b1001011#7 ++ 0b01#2 ++ 0b101000101#9 ++ 0b00000000000000#14) = .ok (.lmstream .ifTrue (.port 5)) := by
  and_intros <;> rfl

theorem test_decode_float :
    decode (0b1010000#7 ++ 0b01#2 ++ 0b100000101#9 ++ 0b010001001#9 ++ 0b010#3 ++ 0b10#2) = .ok (.fadd .ifTrue (.reg 5) (.opR 9) .f32 .rp) ∧
    decode (0b1010001#7 ++ 0b01#2 ++ 0b100000101#9 ++ 0b010001001#9 ++ 0b010#3 ++ 0b10#2) = .ok (.fsub .ifTrue (.reg 5) (.opR 9) .f32 .rp) ∧
    decode (0b1010010#7 ++ 0b01#2 ++ 0b100000101#9 ++ 0b010001001#9 ++ 0b010#3 ++ 0b10#2) = .ok (.fmul .ifTrue (.reg 5) (.opR 9) .f32 .rp) ∧
    decode (0b1010011#7 ++ 0b01#2 ++ 0b100000101#9 ++ 0b010001001#9 ++ 0b010#3 ++ 0b10#2) = .ok (.fma .ifTrue (.reg 5) (.opR 9) .f32 .rp) ∧
    decode (0b1010100#7 ++ 0b01#2 ++ 0b100000101#9 ++ 0b010001001#9 ++ 0b010#3 ++ 0b10#2) = .ok (.fdiv .ifTrue (.reg 5) (.opR 9) .f32 .rp) ∧
    decode (0b1010101#7 ++ 0b01#2 ++ 0b100000101#9 ++ 0b010001001#9 ++ 0b010#3 ++ 0b10#2) = .ok (.fsqrt .ifTrue (.reg 5) (.opR 9) .f32 .rp) ∧
    decode (0b1010110#7 ++ 0b01#2 ++ 0b100000101#9 ++ 0b010001001#9 ++ 0b010#3 ++ 0b10#2) = .ok (.frsq .ifTrue (.reg 5) (.opR 9) .f32 .rp) ∧
    decode (0b1010111#7 ++ 0b01#2 ++ 0b100000101#9 ++ 0b010001001#9 ++ 0b010#3 ++ 0b10#2) = .ok (.fminmax .ifTrue (.reg 5) (.opR 9) .f32 .minp) ∧
    decode (0b1011000#7 ++ 0b01#2 ++ 0b100000101#9 ++ 0b010001001#9 ++ 0b010#3 ++ 0b11#2) = .ok (.fcmp .ifTrue (.reg 5) (.opR 9) .f32 .un) ∧
    decode (0b1011001#7 ++ 0b01#2 ++ 0b100000101#9 ++ 0b010001001#9 ++ 0b010#3 ++ 0b00#2) = .ok (.fclass .ifTrue (.reg 5) (.opR 9) .f32) ∧
    decode (0b1011010#7 ++ 0b01#2 ++ 0b100000101#9 ++ 0b010001001#9 ++ 0b010#3 ++ 0b10#2) = .ok (.fsign .ifTrue (.reg 5) (.opR 9) .f32 .xsgn) ∧
    decode (0b1011011#7 ++ 0b01#2 ++ 0b100000101#9 ++ 0b010001001#9 ++ 0b010#3 ++ 0b10#2) = .ok (.frnd .ifTrue (.reg 5) (.opR 9) .f32 .rp) ∧
    decode (0b1011100#7 ++ 0b01#2 ++ 0b100000101#9 ++ 0b010001001#9 ++ 0b010#3 ++ 0b10#2) = .ok (.fexp2 .ifTrue (.reg 5) (.opR 9) .f32 .rp) ∧
    decode (0b1011101#7 ++ 0b01#2 ++ 0b100000101#9 ++ 0b010001001#9 ++ 0b010#3 ++ 0b10#2) = .ok (.flog2 .ifTrue (.reg 5) (.opR 9) .f32 .rp) ∧
    decode (0b1011110#7 ++ 0b01#2 ++ 0b100000101#9 ++ 0b000#3 ++ 0b0#1 ++ 0b00#2 ++ 0b000#3 ++ 0b010#3 ++ 0b10#2) = .ok (.cvt .ifTrue (.reg 5) .f16 false 0 .f32 .rp) ∧
    decode (0b1011111#7 ++ 0b01#2 ++ 0b100000101#9 ++ 0b10#2 ++ 0b1#1 ++ 0b000000#6 ++ 0b010#3 ++ 0b10#2) = .ok (.cvti .ifTrue (.reg 5) .w32 true .f32 .rp) ∧
    decode (0b1100000#7 ++ 0b01#2 ++ 0b100000101#9 ++ 0b10#2 ++ 0b1#1 ++ 0b000000#6 ++ 0b010#3 ++ 0b10#2) = .ok (.cvtf .ifTrue (.reg 5) .w32 true .f32 .rp) := by
  and_intros <;> rfl

theorem test_decode_vector :
    decode (0b1100001#7 ++ 0b01#2 ++ 0b100000101#9 ++ 0b010001001#9 ++ 0b110#3 ++ 0b10#2) = .ok (.gxpack .ifTrue (.reg 5) (.opR 9) .gx7) ∧
    decode (0b1100010#7 ++ 0b01#2 ++ 0b100000101#9 ++ 0b010001001#9 ++ 0b110#3 ++ 0b10#2) = .ok (.gxunp .ifTrue (.reg 5) (.opR 9) .vf32 .gx7) ∧
    decode (0b1100011#7 ++ 0b01#2 ++ 0b100000101#9 ++ 0b010001001#9 ++ 0b1#1 ++ 0b10#2 ++ 0b10#2) = .ok (.vred .ifTrue (.reg 5) (.opR 9) .vf32 .rp) ∧
    decode (0b1100100#7 ++ 0b01#2 ++ 0b100000101#9 ++ 0b010001001#9 ++ 0b1#1 ++ 0b10#2 ++ 0b0#1 ++ 0b1#1) = .ok (.vshuf .ifTrue (.reg 5) (.opR 9) .vf32 true) ∧
    decode (0b1100101#7 ++ 0b01#2 ++ 0b100000101#9 ++ 0b010001001#9 ++ 0b1#1 ++ 0b10#2 ++ 0b00#2) = .ok (.vbcast .ifTrue (.reg 5) (.opR 9) .vf32) ∧
    decode (0b1100110#7 ++ 0b01#2 ++ 0b100000101#9 ++ 0b010001001#9 ++ 0b1#1 ++ 0b10#2 ++ 0b0#1 ++ 0b1#1) = .ok (.vlane .ifTrue (.reg 5) (.opR 9) .vf32 true) ∧
    decode (0b1100111#7 ++ 0b01#2 ++ 0b100000101#9 ++ 0b010001001#9 ++ 0b010#3 ++ 0b10#2) = .ok (.vdot .ifTrue (.reg 5) (.opR 9) .f32 .rp) := by
  and_intros <;> rfl

theorem test_decode_matrix :
    decode (0b1101000#7 ++ 0b01#2 ++ 0b000000000000000000#18 ++ 0b011#3 ++ 0b0#1 ++ 0b1#1) = .ok (.mlda .ifTrue .bf16 true) ∧
    decode (0b1101001#7 ++ 0b01#2 ++ 0b000000000000000000#18 ++ 0b011#3 ++ 0b0#1 ++ 0b1#1) = .ok (.mldb .ifTrue .bf16 true) ∧
    decode (0b1101010#7 ++ 0b01#2 ++ 0b000000000000000000#18 ++ 0b011#3 ++ 0b10#2) = .ok (.mldl .ifTrue .bf16 .tb0) ∧
    decode (0b1101011#7 ++ 0b01#2 ++ 0b000000000000000000#18 ++ 0b011#3 ++ 0b10#2) = .ok (.mma .ifTrue .bf16 .d) ∧
    decode (0b1101100#7 ++ 0b01#2 ++ 0b000000000000000000#18 ++ 0b011#3 ++ 0b10#2) = .ok (.mst .ifTrue .bf16 2) ∧
    decode (0b1101101#7 ++ 0b01#2 ++ 0b101000101#9 ++ 0b000000000#9 ++ 0b011#3 ++ 0b10#2) = .ok (.mrel .ifTrue (.port 5) .bf16 2) ∧
    decode (0b1101110#7 ++ 0b01#2 ++ 0b000000000000000000#18 ++ 0b011#3 ++ 0b10#2) = .ok (.mjob .ifTrue .bf16 2) ∧
    decode (0b1101111#7 ++ 0b01#2 ++ 0b100000101#9 ++ 0b010001001#9 ++ 0b1#1 ++ 0b1001#4) = .ok (.ctr .ifTrue (.reg 5) (.opR 9) true 9) := by
  and_intros <;> rfl

theorem test_decode_lattice :
    decode (0b1110000#7 ++ 0b01#2 ++ 0b0000000000000000000#19 ++ 0b1001#4) = .ok (.pldef .ifTrue 9) ∧
    decode (0b1110001#7 ++ 0b01#2 ++ 0b0000000000000000000000#22 ++ 0b1#1) = .ok (.pshift .ifTrue true) ∧
    decode (0b1110010#7 ++ 0b01#2 ++ 0b00000000000000000000000#23) = .ok (.pstep .ifTrue) ∧
    decode (0b1110011#7 ++ 0b01#2 ++ 0b100000101#9 ++ 0b010001001#9 ++ 0b00#2 ++ 0b000#3) = .ok (.pact .ifTrue (.reg 5) (.opR 9) .get) ∧
    decode (0b1110100#7 ++ 0b01#2 ++ 0b100000101#9 ++ 0b010001001#9 ++ 0b000#3 ++ 0b01#2) = .ok (.psum .ifTrue (.reg 5) (.opR 9) .max) ∧
    decode (0b1110101#7 ++ 0b01#2 ++ 0b000000000000000000000#21 ++ 0b01#2) = .ok (.pcopy .ifTrue .swap) ∧
    decode (0b1110110#7 ++ 0b01#2 ++ 0b100000101#9 ++ 0b010001001#9 ++ 0b0#1 ++ 0b1001#4) = .ok (.lmarch .ifTrue (.reg 5) (.opR 9) 9) ∧
    decode (0b1110111#7 ++ 0b01#2 ++ 0b100000101#9 ++ 0b010001001#9 ++ 0b00#2 ++ 0b011#3) = .ok (.site .ifTrue (.reg 5) (.opR 9) (.inp 3)) := by
  and_intros <;> rfl

theorem test_decode_time_and_calls :
    decode (0b1111000#7 ++ 0b01#2 ++ 0b100000101#9 ++ 0b010001001#9 ++ 0b00000#5) = .ok (.timeNow .ifTrue (.reg 5) (.opR 9)) ∧
    decode (0b1111000#7 ++ 0b01#2 ++ 0b100000101#9 ++ 0b010001001#9 ++ 0b00001#5) = .ok (.timeCmp .ifTrue (.reg 5) (.opR 9)) ∧
    decode (0b1111000#7 ++ 0b01#2 ++ 0b100000101#9 ++ 0b010001001#9 ++ 0b00010#5) = .ok (.timeMake .ifTrue (.reg 5) (.opR 9)) ∧
    decode (0b1111000#7 ++ 0b01#2 ++ 0b100000101#9 ++ 0b010001001#9 ++ 0b00011#5) = .ok (.timeField .ifTrue (.reg 5) (.opR 9)) ∧
    decode (0b1111001#7 ++ 0b01#2 ++ 0b100000101#9 ++ 0b010001001#9 ++ 0b00000#5) = .ok (.frontRead .ifTrue (.reg 5) (.opR 9)) ∧
    decode (0b1111001#7 ++ 0b01#2 ++ 0b100000101#9 ++ 0b010001001#9 ++ 0b00001#5) = .ok (.frontWait .ifTrue (.reg 5) (.opR 9)) ∧
    decode (0b1111001#7 ++ 0b01#2 ++ 0b00000000000000000000010#23) = .ok (.frontSubscribe .ifTrue) ∧
    decode (0b1111010#7 ++ 0b01#2 ++ 0b100000101#9 ++ 0b010001001#9 ++ 0b00000#5) = .ok (.tcapNew .ifTrue (.reg 5) (.opR 9)) ∧
    decode (0b1111010#7 ++ 0b01#2 ++ 0b00000000000000000000001#23) = .ok (.tcapAdvance .ifTrue) ∧
    decode (0b1111010#7 ++ 0b01#2 ++ 0b00000000000000000000010#23) = .ok (.tcapDrop .ifTrue) ∧
    decode (0b1111011#7 ++ 0b01#2 ++ 0b000000000000000000#18 ++ 0b001#3 ++ 0b1#1 ++ 0b0#1) = .ok (.callq .ifTrue .zb true) := by
  and_intros <;> rfl

theorem test_decode_system :
    decode (0b1111100#7 ++ 0b01#2 ++ 0b00000000000000000000000#23) = .ok (.sysTrap .ifTrue) ∧
    decode (0b1111100#7 ++ 0b01#2 ++ 0b00000000000000000000001#23) = .ok (.sysEret .ifTrue) ∧
    decode (0b1111100#7 ++ 0b01#2 ++ 0b00000000000000000000010#23) = .ok (.sysBkpt .ifTrue) ∧
    decode (0b1111100#7 ++ 0b01#2 ++ 0b100000101#9 ++ 0b010001001#9 ++ 0b00011#5) = .ok (.sysFeatq .ifTrue (.reg 5) (.opR 9)) ∧
    decode (0b1111100#7 ++ 0b01#2 ++ 0b100000101#9 ++ 0b010001001#9 ++ 0b00100#5) = .ok (.sysWdog .ifTrue (.reg 5) (.opR 9)) ∧
    decode (0b1111100#7 ++ 0b01#2 ++ 0b00000000000000000000101#23) = .ok (.sysPmonctl .ifTrue) ∧
    decode (0b1111100#7 ++ 0b01#2 ++ 0b100000101#9 ++ 0b010001001#9 ++ 0b00110#5) = .ok (.sysPmonrd .ifTrue (.reg 5) (.opR 9)) ∧
    decode (0b1111100#7 ++ 0b01#2 ++ 0b00000000000000000000111#23) = .ok (.sysRrmark .ifTrue) ∧
    decode (0b1111100#7 ++ 0b01#2 ++ 0b00000000000000000001000#23) = .ok (.sysTlbinv .ifTrue) ∧
    decode (0b1111100#7 ++ 0b01#2 ++ 0b00000000000000000001001#23) = .ok (.sysCsload .ifTrue) ∧
    decode (0b1111101#7 ++ 0b01#2 ++ 0b100000101#9 ++ 0b0#1 ++ 0b1000010100011#13) = .ok (.sregRd .ifTrue (.reg 5) 4259) ∧
    decode (0b1111101#7 ++ 0b01#2 ++ 0b0000000001#10 ++ 0b1000010100011#13) = .ok (.sregWr .ifTrue 4259) ∧
    decode (0b1111110#7 ++ 0b01#2 ++ 0b00000000000000000000000#23) = .ok (.sectCfgload .ifTrue) ∧
    decode (0b1111110#7 ++ 0b01#2 ++ 0b00000000000000000000001#23) = .ok (.sectArm .ifTrue) ∧
    decode (0b1111110#7 ++ 0b01#2 ++ 0b00000000000000000000010#23) = .ok (.sectBound .ifTrue) ∧
    decode (0b1111110#7 ++ 0b01#2 ++ 0b00000000000000000000011#23) = .ok (.sectDrain .ifTrue) ∧
    decode (0b1111110#7 ++ 0b01#2 ++ 0b100000101#9 ++ 0b010001001#9 ++ 0b00100#5) = .ok (.sectSinkw .ifTrue (.reg 5) (.opR 9)) ∧
    decode (0b1111110#7 ++ 0b01#2 ++ 0b00000000000000000000101#23) = .ok (.sectRelease .ifTrue) ∧
    decode (0b1111110#7 ++ 0b01#2 ++ 0b100000101#9 ++ 0b010001001#9 ++ 0b00110#5) = .ok (.sectGred .ifTrue (.reg 5) (.opR 9)) ∧
    decode (0b1111110#7 ++ 0b01#2 ++ 0b00000000000000000000111#23) = .ok (.sectGbcast .ifTrue) := by
  and_intros <;> rfl


/-- The node with handle 2 as given. -/
def handle (s : State) (h : Handle) : State := s.onPe 0 fun p => { p with handles := [(2, h)] }

/-- An inbound binding with two slots of 64 bytes from 0x400. -/
def inbound : Handle :=
  { Handle.blank with dir := 1, nsl := 1, slotb := 64, base := 0x400, slots := [.full, .draining], slotPts := [9, 0], opened := true, total := 4 }

theorem witness_BufferCommandsFollowTheSlots :
    Claim.Ready (handle (at_ []) inbound) .always [] ∧ Claim.Names (handle (at_ []) inbound) 2 ∧
    (handle (at_ []) inbound).myHandle 2 = inbound ∧ inbound.psn = false ∧ inbound.slots.getD inbound.rd .free = .full ∧
    inbound.slots.contains .draining = true ∧ ({ inbound with slots := [.full, .free] }).slots.contains .draining = false ∧
    ({ inbound with taken := 4 }).total ≤ 4 ∧ badDefinition 0x4100004000000400 = false ∧
    badDefinition 0x4180004000000400 = true ∧ Handle.blank.isOpen = false ∧
    (∃ b ∈ ({ nodeBlock [] with bufs := [(2, 0)] }).bufs, b.1 = (2#5).toNat) := by
  and_intros <;> first | decide | (unfold Claim.Ready; decide) | rfl | exact ⟨(2, 0), by decide, rfl⟩

theorem witness_CopyAndStreamCommands :
    Claim.Ready (present (at_ [d 0x100, d 0])) .always [d 0x100, d 0] ∧ Claim.Names (present (at_ [d 0x100, d 0])) 2 ∧
    ((present (at_ [])).pe 0).present 0 (0x100 / 4096) = true ∧ ((present (at_ [])).pe 0).badGran 0x100 128 = none ∧
    (openFault (present (at_ [])) 2 0x100 (List.replicate 16 0) 0).isSome = true ∧
    (openFault (handle (at_ []) { inbound with slotb := 4096 }) 2 0x100 [0x10000, 0, 0, 0, 0, 0, 0, 0, 0, 0, 0, 0, 0, 0, 0, 0] 0).isSome = true ∧
    ({ inbound with isOpen := true }).isOpen = true ∧ inbound.isOpen = false ∧ ({ inbound with psn := true }).psn = true ∧
    (bits (0x8000004000000400 : W64) 62 58 = 0 ∧ bits (0x8000004000000400 : W64) 31 19 = 0 ∧ bits (0x8000004000000400 : W64) 51 32 = 64 ∧
      bits (0x8000004000000400 : W64) 18 0 % 64 = 0) ∧ ((at_ []).pe 0).snk.busy = false ∧
    Claim.Ready (at_ [d 0x0100000000000008, d 1]) .always [d 0x0100000000000008, d 1] ∧
    ((State.reset.onJob 0 fun j => { j with endpts := [(1, 16)] }).job 0).endpts.find 1 = some 16 ∧
    (nodeBlock []).stores < (nodeBlock []).nst := by
  and_intros <;> first | decide | (unfold Claim.Ready; decide) | rfl

theorem witness_FloatArithmeticAndCompares :
    Claim.Ready (at_ [d 0x3F800000]) .always [d 0x3F800000] ∧
    Claim.Ready (at_ [d 0x3F800000, d 0x7F800001]) .always [d 0x3F800000, d 0x7F800001] ∧
    Claim.Ready (at_ [d 1, d 2, d 3]) .always [d 1, d 2, d 3] := ⟨rfl, rfl, rfl⟩

theorem witness_RoundsOnceToTheNeighbour :
    fp16 ∈ [fp16, bf16, fp32, fp64] ∧ 0 < 65520 ∧ (fp16.round .rn false 65520 0).2.ovf = true ∧
    (fp16.round .rn false 65519 0).2.ovf = false ∧ (fp16.round .rp false 65505 0).2.ovf = true := 
  ⟨by decide, by decide, by decide, by decide, by decide⟩

theorem witness_FloatSpecialCases :
    fp16.decode 0x7C00 = .inf false ∧ fp16.decode 0xFC00 = .inf true ∧ fp16.decode 0x8000 = .fin true 0 (-24) ∧
    fp16.decode 0x3C00 = .fin false 1024 (-10) ∧ fp16.isNan 0x7C01 = true ∧ fp16.isNan 0x3C00 = false :=
  ⟨by decide, by decide, by decide, by decide, by decide, by decide⟩

theorem witness_ConversionsFollowTheirRules :
    Claim.Ready (at_ [d 0x3F800000]) .always [d 0x3F800000] ∧
    (Instr.cvt .always .none .f16 true 0 .f32 .rn).wellFormed = true ∧ (Instr.cvt .always .none .vf64 false 1 .vf32 .rn).wellFormed = true ∧
    FType.scalar .f32 = true ∧ fp16.decode 0x7E01 = .nan 0x7E01 ∧ fp16.decode 0x7C00 = .inf false ∧
    fp16.decode 0x7BFF = .fin false 2047 5 ∧ fp16.decode 0x3E00 = .fin false 1536 (-10) ∧
    (fp16.toInt .rn 8 true 0x3E00).2.nv = false := by
  and_intros <;> first | decide | rfl

theorem witness_VectorResults :
    Claim.Ready (at_ [.wideData 1]) .always [.wideData 1] ∧ Claim.Ready (at_ [.wideData 1, d 31]) .always [.wideData 1, d 31] ∧
    Claim.Ready (at_ [.wideData 1, d 31, d 7]) .always [.wideData 1, d 31, d 7] ∧ FType.scalar .vf32 = false :=
  ⟨rfl, rfl, rfl, rfl⟩

theorem witness_MatrixCommandsJoinTheQueue :
    Claim.Ready (at_ [d 0x20, d 0x40]) .always [d 0x20, d 0x40] ∧ (d 0x20).lo.toNat % 32 = 0 ∧
    (∀ r : Nat, r < 8 → exactCanonical ((0x20 : Int) + r * 0x40) = true) ∧ bits (d 0xF).lo 63 4 = 0 ∧ bits (d 0x10).lo 63 4 ≠ 0 ∧
    (nodeBlock []).ovf.contains 63 = false ∧ ({ nodeBlock [] with ovf := [63] }).ovf.contains 63 = true ∧
    Claim.Ready (at_ [.ofKind .eos]) .always [.ofKind .eos] ∧ Claim.Ready (at_ [.ofKind .null]) .always [.ofKind .null] ∧
    Claim.Ready (at_ [d 0x40, d 0x40, d 7]) .always [d 0x40, d 0x40, d 7] ∧ bits (d 7).lo 63 3 = 0 ∧
    localAddress (d 0xFC0) 0 64 = .ok 0xFC0 ∧ badCard [0, 0, 0, 0, 0, 0, 0x10000, 0] = none ∧
    badCard [0, 0, 0, 1, 0, 0, 0x10000, 0] = some 1 := by
  and_intros <;> first | decide +kernel | rfl

/-- The node with n4 full: the limits are 2 and 1. -/
def counter (p : InPort) : State :=
  (at_ []).onPe 0 fun q => { q with nregs := [(4, { Reg.blank with st := .full, bits := 0x0001000200000001 })], inports := [(63, p)] }

theorem witness_CounterStepsAndReports :
    let heads := fun (v : Value) => (counter { InPort.blank with q := [tok v 5] }).heads (nodeBlock []) 63
    Claim.Ready (counter InPort.blank) .always [] ∧ ((counter InPort.blank).getReg (.node 0) 4).st = .full ∧
    ((counter InPort.blank).getReg (.node 0) 5).st = .empty ∧ (nodeBlock []).regTaken 4 = false ∧
    heads (.ofKind .bound) = [tok (.ofKind .bound) 5] ∧ heads (.ofKind .eos) = [tok (.ofKind .eos) 5] ∧
    (5 : LTime) < ((counter { InPort.blank with frontier := 6 }).portOf (nodeBlock []) 63).frontier := by
  and_intros <;> first | decide +kernel | (unfold Claim.Ready; decide)

/-- The node with plane 1 defined: one brick of 8 × 8 sites of U8. -/
def plane1 (s : State) : State := s.onPe 0 fun p =>
  { p with planes := [(1, ⟨0x61F81C7000000000, 0, 1⟩)] }

theorem witness_LatticeCommandsAndValues :
    Claim.Ready (plane1 (at_ [d 1])) .always [d 1] ∧ (((plane1 (at_ [])).pe 0).plane 1).defined = true ∧
    (((plane1 (at_ [])).pe 0).plane 2).defined = false ∧ 64 * bits (d 1).lo 5 4 < (((plane1 (at_ [])).pe 0).plane 1).geo.count ∧
    (((plane1 (at_ [])).pe 0).plane 1).geo.count ≤ 64 * bits (d 0x11).lo 5 4 ∧ badShift 0 false 0 = false ∧
    badShift 0x100000000 true 0 = true ∧ (badPlane 0x18000000 0).isSome = true ∧
    Claim.Ready (at_ [d 0x100, d 8]) .always [d 0x100, d 8] ∧ bits (d 0x100).lo 63 8 ≠ 0 ∧
    ((plane1 (at_ [])).pe 0).march = [] ∧ badRay (BitVec.ofNat 512 (2 ^ 192 + 2 ^ 96)) 1 = false := by
  and_intros <;> first | decide +kernel | (unfold Claim.Ready; decide) | rfl


theorem witness_TimesAndFrontiers :
    let loc := fun (s : State) => s.onJob 0 fun j => { j with root := { j.root with nloc := 4, front := [(2, 9)] } }
    Claim.Ready (at_ [d 9, d 0x1F000]) .always [d 9, d 0x1F000] ∧ Claim.Ready (at_ []) .always [] ∧
    (bits (d 0x1F000).lo 2 0 ≤ 4 ∧ bits (d 0x1F000).lo 63 32 = 0 ∧ bits (d 0x1F000).lo 11 5 = 0) ∧ (d 4).lo.toNat ≤ 4 ∧ 4 < (d 5).lo.toNat ∧
    Claim.Ready (loc (at_ [d 2])) .always [d 2] ∧ frontLoc (loc (at_ [d 2])) 2 false = .ok 2 ∧
    frontLoc (loc (at_ [d 2])) 4 false = .error ⟨.frontloc, 4, 0⟩ ∧ ((loc (at_ [])).frontAt 2).1 = 9 ∧
    (8 : LTime) < 9 ∧ ¬ (9 : LTime) < 9 ∧ (loc (at_ [])).cur.agent = .node 0 ∧ frontLoc (loc (at_ [])) 0x100002 true = .ok 2 ∧
    badFrontPort (loc (at_ [])) 0 1 2 = true ∧ ((loc (at_ [])).job 0).root.nloc = 4 := by
  and_intros <;> first | decide | (unfold Claim.Ready; decide) | rfl

/-- A control thread whose section was armed at epoch 1 and holds one capability. -/
def holder (os : List Value) (held : Map LTime) : State :=
  (ctl os).onRegion 0 fun r => { r with sect := .armed, epoch := some 1, caps := held, capHi := [(3, 1)], info := { r.info with ctl := some (3, 4) } }

theorem witness_TimeCapabilitiesFollowTheirRules :
    let t : W64 := 0x0000200000000000
    Claim.Ready (holder [d 3, d t] []) .always [d 3, d t] ∧ (holder [] []).cur.agent = .ctl 0 ∧
    (holder [] []).capsView.loc = some 3 ∧ (holder [] []).capsView.free = some 0 ∧ timeFits t (holder [] []).capsView.depth = true ∧
    epochOf t ≠ 0xFFFFF ∧ (holder [] []).capsView.hi.find 3 = some 1 ∧ 1 < epochOf t ∧
    (holder [] [(0, t)]).capsView.held.find 0 = some t ∧ (holder [] [(0, t)]).capsView.held.find 1 = none ∧
    (holder [] (List.range 16 |>.map fun k => (k, t))).capsView.free = none ∧
    Claim.Ready (holder [d 0] [(0, t)]) .always [d 0] := by
  and_intros <;> first | decide | (unfold Claim.Ready; decide) | rfl

theorem witness_SystemCommandsActAsDescribed :
    let inh := fun (os : List Value) => (ctl os).onRegion 0 fun r => { r with status := 0x6000, trec := BitVec.ofNat 512 (5 * 2 ^ 48) }
    let exe := fun (os : List Value) => (ctl os).onRegion 0 fun r => { r with status := 0x8000 }
    Claim.Ready (ctl [d 0x800000]) .always [d 0x800000] ∧ bitAt (d 0x800000).lo 23 = true ∧ bits (d 0x800000).lo 21 10 = 0 ∧
    (ctl []).myRegion.retTable = [] ∧ bitAt (d 0x400000).lo 22 = true ∧
    (d 65535).lo.toNat < 65536 ∧ 65536 ≤ (d 65536).lo.toNat ∧ bitAt ((ctl []).statusOf (.ctl 0)) 13 = false ∧
    bitAt ((inh []).statusOf (.ctl 0)) 13 = true ∧ bitAt ((inh []).statusOf (.ctl 0)) 12 = false ∧
    Claim.Ready (inh [d 2, d 0]) .always [d 2, d 0] ∧ bitAt (inh []).myRegion.status 14 = true ∧
    bits (inh []).myRegion.trec 51 48 ≠ 0 ∧ bits (inh []).myRegion.trec 47 46 ≠ 3 ∧ (inh []).cur.exit = none ∧
    ((ctl []).job 0).pkg.stall = 0 ∧ Claim.Ready (exe [d 0, d 0x100000000]) .always [d 0, d 0x100000000] ∧
    bitAt ((exe []).statusOf (.ctl 0)) 15 = true ∧ bits (d 0x100000006).lo 2 0 = 6 ∧ bitAt (d 0x100000000).lo 32 = true ∧
    bits (d 0).lo 21 16 < (ctl []).myBays.length ∧ ¬ bits (d 0x3F0000).lo 21 16 < (ctl []).myBays.length := by
  and_intros <;> first | decide +kernel | (unfold Claim.Ready; decide) | rfl

theorem witness_SystemRegistersFollowTheirTable :
    Claim.Ready (ctl []) .always [] ∧ Claim.Ready (ctl [d 0x1F]) .always [d 0x1F] ∧ (sregInfo 0x000).isSome = true ∧
    sregInfo 0x1FFF = none ∧ ((sregInfo 0x000).bind (·.wr)).isSome = true ∧ ((sregInfo 0x021).map (·.rd)) = some .exec ∧
    badSelector (ctl []) 0x000 0x1F = false := by
  and_intros <;> first | decide | rfl

/-- A control thread whose section is in a state. -/
def inSect (os : List Value) (st : SectState) : State :=
  (ctl os).onRegion 0 fun r => { r with sect := st, epoch := some 1, info := { r.info with sinks := [2], nodes := [⟨0, some 1, true, some 2, []⟩] } }

theorem witness_SectionCommandsFollowTheStates :
    Claim.Ready (inSect [d 0, d 2] .loaded) .always [d 0, d 2] ∧ (inSect [] .loaded).sectView.st = .loaded ∧
    (inSect [] .loaded).sectView.epoch = some 1 ∧ (inSect [] .armed).sectView.st = .armed ∧ (inSect [] .done).sectView.st = .done ∧
    (inSect [] .done).sectView.next = false ∧ Claim.Ready (inSect [d 0, d 0, d 0x100000000000] .armed) .always [d 0, d 0, d 0x100000000000] ∧
    ((inSect [] .armed).sectNode 0).isSome = true ∧ (inSect [] .armed).sectNode 100 = none ∧
    epochTime ((inSect [] .armed).sectView.epoch.getD 0) ≤ 0x100000000000 ∧ (inSect [] .armed).anyOpen (inSect [] .armed).myRegion = false ∧
    ((inSect [] .armed).onPe 0 fun p => { p with handles := [(0, { inbound with isOpen := true })] }).anyOpen (inSect [] .armed).myRegion = true ∧
    (inSect [] .armed).goodGroup 3 = false := by
  and_intros <;> first | decide +kernel | (unfold Claim.Ready; decide)

theorem witness_SectionCommandsWaitAndDeliver :
    let s := { tables with cur := (ctl [d 0x00000C00A0101240]).cur }
    (match s.fetchImage (.slot (.ctl 0) 0) 0 0x00000C00A0101240 with
      | (s1, .ok raw) => match raw.parse 0x00000C00A0101240 (sectionAt (s1.job 0).pkg 0x00000C00A0101240) with
        | some img => imageFault s1 0 0x00000C00A0101240 raw img == none
        | none => false
      | _ => false) = true ∧
    s.sectView.st = .idle ∧ s.myRegion.released = false ∧ (inSect [] .draining).sectView.info.sinks = [2] ∧
    (0 : LTime) < Map.get 0 (((inSect [] .draining).onJob 0 fun j => { j with root := { j.root with front := [(2, 9)] } }).root 0).front 2 ∧
    (inSect [] .draining).myRegion.sinkErr = none ∧ (inSect [] .draining).myRegion.unjoined = [] := by
  and_intros <;> decide +kernel

/-- Slice 5 with a read of line 0x40 at the head of its queue for class 1. -/
def asked (op : ReqOp) (ls : List (Nat × Line)) : State :=
  State.reset.onSlice 5 fun c =>
    { c with queues := c.queues.set! 0 [{ Req.blank with op := op, addr := 0x1008, n := 8, cls := 1 }], lines := ls }

theorem witness_SliceAnswersAccesses :
    let l := { freshLine 0 false with sectors := Vector.replicate 4 .clean }
    let r := { Req.blank with op := .load, addr := 0x1008, n := 8, cls := 1 }
    (asked .load []).nextClass 5 = some 1 ∧ State.reset.nextClass 5 ≠ some 1 ∧ ((asked .load []).slice 5).pending 0x40 r.sectors = none ∧
    ((asked .load []).slice 5).hasWay 0x40 = true ∧ l.errs = [] ∧ inExec 0x1008 = false ∧ inExec 0x100000000000 = true ∧
    ((asked .load []).slice 5).queues.toList.getD 0 [] = [{ Req.blank with op := .load, addr := 0x1008, n := 8, cls := 1 }] ∧
    (asked .load []).accessError 0 0x1008 8 false = none ∧ (asked .load []).accessError 0 (2 ^ 45) 8 false = some .unmapped ∧
    (asked .store []).captureNeeded 0x1008 8 = none ∧ ((asked .load [(0x40, l)]).slice 5).lines.find (0x1008 / 64) = some l ∧
    l.poison = false ∧ ({ Req.blank with op := .load, addr := 0x1008, n := 8 }).needs l = [] ∧
    (loadLease l 0 0).2 ≤ 2 ^ 47 ∧ ({ l with poison := true }).poison = true ∧ ((asked .load []).slice 5).fills = [] ∧
    ({ Req.blank with op := .load, addr := 0x1008, n := 8 }).wholeLine = false := by
  and_intros <;> first | decide +kernel | rfl

theorem witness_FillsBringMemoryAndScrub :
    let f : Fill := ⟨0x40, 3, []⟩
    let l := freshLine 0 false
    ((State.reset.onSlice 5 fun c => { c with fills := [f] }).slice 5).fills[0]? = some f ∧ f.waiting = [] ∧
    inView (64 * 0x40) = false ∧ inView (64 * (2 ^ 39)) = true ∧ (State.reset.slice 5).entryAt 0 = ⟨false, 0, 0, 0, 0, 0, 0⟩ ∧
    State.reset.windowAt (64 * 0x40) = none ∧ ((State.reset.onSlice 5 fun c => { c with lines := [(0x40, l)] }).slice 5).lines.find 0x40 = some l ∧
    l.sector 3 = .invalid ∧ ({ l with sectors := Vector.replicate 4 .clean }).sector 3 ≠ .invalid := by
  and_intros <;> first | decide +kernel | rfl

theorem witness_ExecutiveChangesTakeEffect :
    (State.reset.artAt 63).en = false ∧ ({ State.reset with art := [(63, { ArtEntry.blank with en := true })] }.artAt 63).en = true ∧
    artFail [] 63 { ArtEntry.blank with stride := 6, mask := .allOnes 64, limit := 511 * 8 + 7 } = 0 ∧ (2 ^ 24 - 1 : Nat) < 2 ^ 24 ∧
    State.reset.owner.Pairwise (fun a b => a.1 < b.1) ∧ State.reset.maint.busy = false ∧
    ({ State.reset with maint := { State.reset.maint with busy := true } }).maint.busy = true ∧ State.reset.slices = [] ∧
    (∃ c ∈ (State.reset.onSlice 5 fun c => { c with lines := [(0x40, { freshLine 0 false with sectors := Vector.replicate 4 .clean })] }).slices,
      ∃ l ∈ c.2.lines, ∃ j, j < 4 ∧ l.2.sector j ≠ .invalid) ∧ (State.reset.windowK 31).en = false := by
  and_intros <;> first | decide | rfl | exact ⟨_, List.mem_singleton.mpr rfl, _, List.mem_singleton.mpr rfl, 0, by decide, by decide⟩


/-- A packet with a request of class 1, from one place to another. -/
def packet (at_ dst : Place) (b : Body) : Packet := ⟨.memory, at_, 0, dst, 5, b, 0, none⟩

/-- The machine with that packet in flight. -/
def flying (p : Packet) : State := { State.reset with packets := [(7, p)] }

/-- A request with its number. -/
def req : Req := { Req.blank with rid := 3, port := 9, op := .load, addr := 0x1000, n := 8, cls := 1 }

/-- A reply to it. -/
def reply : Reply := ⟨req, none, 1, false, 64, 64, false, 1⟩

theorem witness_PacketsMoveAndAreAnswered :
    let p := packet ⟨0, 0, 0⟩ ⟨0, 2, 0⟩ (.req req)
    let h := packet ⟨0, 2, 0⟩ ⟨0, 2, 0⟩ (.req req)
    let e := packet ⟨0, 63, 5⟩ ⟨1, 0, 5⟩ (.req req)
    let rep := packet ⟨0, 2, 0⟩ ⟨0, 2, 0⟩ (.reply reply)
    (flying p).packets.find 7 = some p ∧ p.merged = none ∧ p.side ≠ 6 ∧ (flying p).inBuffer p p.at_ 0 < 4 ∧
    (flying p).wayOf p = .go ⟨0, 1, 0⟩ 1 false ∧ (flying p).roomFor p ⟨0, 1, 0⟩ 1 false = true ∧ (flying h).wayOf h = .here ∧
    h.body = .req req ∧ ((flying h).slice 5).queues.toList.getD 0 [] = [] ∧ (flying e).wayOf e = .seam ⟨1, 0, 5⟩ (crossing 0 1 5) ∧
    (flying e).roomFor e ⟨1, 0, 5⟩ 5 false = true ∧ rep.body = .reply reply ∧ rep.resent < 15 ∧ 15 ≤ ({ rep with resent := 15 }).resent := by
  and_intros <;> first | decide +kernel | rfl

/-- A firing of node 0 that is done, with a request in flight, and the reply to it. -/
def replied (rep : Reply) (resent : Nat) : State :=
  { flying { packet ⟨0, 2, 0⟩ ⟨0, 2, 0⟩ (.reply rep) with resent := resent } with
    tails := [{ Port.blank with pid := 9, who := .blk (.node 0), flight := [req], pts := 1 }] }

theorem witness_RepliesReachTheirAgents :
    let rep := { reply with merged := true, rts := 0 }
    (replied reply 0).packets.find 7 = some (packet ⟨0, 2, 0⟩ ⟨0, 2, 0⟩ (.reply reply)) ∧
    (match ({ replied reply 0 with packets := (replied reply 0).packets.drop 7 } : State).findPort reply.req.port with
      | (_, some (_, q)) => (q.flight.find? fun x => x.rid == reply.req.rid) == some req
      | _ => false) = true ∧
    reply.merged = false ∧ rep.err = none ∧ rep.rts < ({ Port.blank with pts := 1 }).pts ∧
    15 ≤ ({ packet ⟨0, 2, 0⟩ ⟨0, 2, 0⟩ (.reply reply) with resent := 15 }).resent :=
  ⟨by decide +kernel, by decide +kernel, rfl, rfl, by decide, by decide⟩

theorem witness_ErrorsAreReported :
    let hit := State.reset.onPe 0 fun q =>
      { q with region := some 0, active := { q.active with node := some [] }, boxes := [(3, [tok (d 1) 5])], lops := [⟨.pshift 0x21 0, 5, 0⟩] }
    (hit.pe 0).region = some 0 ∧ (hit.pe 0).active.node.isSome = true ∧ (hit.pe 0).sealed = false ∧
    ((hit.onPe 0 Pe.seal).pe 0).sealed = true ∧ Map.get [] (hit.pe 0).boxes 3 = [tok (d 1) 5] ∧ (tok (d 1) 5).val.kind ≠ .mark ∧
    (hit.pe 0).lops ≠ [] ∧ ({ req with regs := [4] }).regs = [4] ∧ (∀ x, Agent.node 0 ≠ .rule x) := by
  and_intros <;> first | decide +kernel | rfl | exact (fun _ h => nomatch h)

/-- The node whose circuit 3 has these tokens in its box, with an entry for the tag. -/
def circuit (box : List Token) (e : BitVec 16) : State :=
  State.reset.onPe 0 fun p => { p with boxes := [(3, box)], switch := [(3, e)] }

theorem witness_TokensAdvanceAndArrive :
    let s := circuit [tok (d 1) 5] 0x8000
    let m := State.reset.onSlice 5 fun c => { c with mailbox := [(3, [tok (d 1) 5])] }
    Map.get [] (s.pe 0).boxes 3 = [tok (d 1) 5] ∧ (∀ b ∈ s.branches 0 3, s.branchRoom 0 3 (tok (d 1) 5) b = true) ∧
    (s.pe 0).outq.find 3 = none ∧ Map.get [] (m.slice 5).mailbox 3 = [tok (d 1) 5] ∧
    State.reset.noteSink 0 3 (tok (d 1) 5) = State.reset ∧ (State.reset.pe 0).sealed = false ∧
    (State.reset.pe 0).active.coalesces 3 = false ∧ (State.reset.pe 0).active.iloc 3 = none ∧ ((State.reset.pe 0).inport 3).counts = [] ∧
    (tok (.ofKind .mark) 5).val.kind = .mark := by
  and_intros <;> first | decide +kernel | rfl

/-- A descriptor of one tile of four bytes. -/
def desc : Desc := ⟨0x1000, 0, false, 0, 1, [4, 1, 1, 1, 1], 0, [1, 0, 0, 0, 0], [0, 0, 0, 0, 0], [3, 1, 1, 1, 1], [1, 1, 1, 1, 1]⟩

/-- An inbound stream of bay 0 with that descriptor into handle 2 of PE 0. -/
def stream : Stream :=
  { live := true, issuer := .node 0, region := 0, job := 0, desc := desc, inbound := true, handles := [(0, 2)], next := 0, credits := [1],
    notices := [0], tiles := [], stopped := false, closing := false, head := (0, 2), after := 0, upto := 0, started := true, bad := none, again := [], pair := none,
    port := Port.blank }

/-- The machine with that stream. -/
def streaming (st : Stream) : State := State.reset.onBay 0 fun b => { b with streams := [(1, st)] }

theorem witness_CopyEnginesAndLocalPages :
    let out := { stream with inbound := false }
    let s := streaming stream
    (s.bay 0).streams.find 1 = some stream ∧ s.canStart 0 stream = true ∧ stream.nextTile = some 0 ∧ s.tileFault stream 0 = none ∧
    (s.slotsReady 0 1 stream stream.ownSlots 0).2 = true ∧ s.tileFree stream = true ∧ (s.translateTile 0 1 stream 0).2 = none ∧ (streaming out).canStart 0 out = true ∧
    out.next < out.desc.tileCount ∧ (handle s { inbound with dir := 2, wr := 0 }).handle 0 2 = { inbound with dir := 2, wr := 0 } ∧
    (∃ t, ({ stream with tiles := [⟨0, [0], 0, 0⟩] }).tiles.find? (fun (t : Tile) => t.left == 0) = some t) ∧
    ({ stream with bad := some (0x20, 0) }).bad = some (0x20, 0) ∧
    (∃ r ∈ ((State.reset.onPe 0 fun p => { p with refills := [⟨4, []⟩] }).pe 0).refills, r.page = 4) ∧
    (match State.readBacking 0 64 State.reset (pageBacking 0 4) with
      | (_, .ok _) => true
      | _ => false) = true ∧
    ((State.reset.onPe 0 fun p => { p with lpt := [(4, { p.lptAt 4 with wb := true })] }).pe 0 |>.lptAt 4).wb = true ∧
    (State.reset.pe 0).oldestWaiter 0 = none ∧
    (match (State.reset.seekPages 0 0 .source (pagesOf 0 64)).2 with
      | .ok b => !b
      | _ => false) = true ∧
    (match ((present (at_ [])).seekPages 0 0 .source (pagesOf 0 64)).2 with
      | .ok b => b
      | _ => false) = true ∧
    ((present (at_ [])).pe 0).badGran 0 64 = none ∧ (State.reset.pe 0).portFree 2 = true := by
  and_intros <;> first | decide +kernel | rfl | exact ⟨⟨0, [0], 0, 0⟩, by decide +kernel⟩ | exact ⟨⟨4, []⟩, by decide +kernel, rfl⟩

/-- An LDLW of granule 4 that waits for it, once the granule is full. -/
def woken : State :=
  (present (at_ [d 0x40])).onPe 0 fun p => { p with waiters := [⟨4, .node 0, 0, true⟩], full := [4] }

theorem witness_FullEmptyWakeCompletes :
    let s := woken.onCur fun f => { f with words := [encode (.ldlw .always .none 0 .x64 true 0)], slots := [{ slotWith [d 0x40] with phase := .blocked }] }
    ((s.pe 0).oldestWaiter 4).isSome = true ∧ s.cur.agent = .node 0 ∧ s.cur.instr 0 = some (.ldlw .always .none 0 .x64 true 0) ∧ s.cur.pe = 0 ∧
    Claim.Ready s .always [d 0x40] ∧ (d 0x40).isData = true ∧ s.cur.slot.phase = .blocked ∧ localAddress (d 0x40) 0 8 = .ok 0x40 ∧
    s.cur.storesClear 0 = true ∧ s.cur.loadTurn 0 true = true ∧ (s.pe 0).present s.cur.job 0 = true ∧
    (s.pe 0).refillBad (.slot (.node 0) 0) [0] = none ∧ (s.pe 0).badGran 0x40 8 = none := by
  and_intros <;> first | decide +kernel | (unfold Claim.Ready; decide) | rfl

theorem witness_TileElementsHaveTheirAddresses :
    desc.accesses 0 = some [(0, 0x1000), (1, 0x1001), (2, 0x1002)] ∧ 3 < prodNat desc.box ∧ desc.inside (desc.coords 0 2) = true ∧
    desc.inside (desc.coords 0 3) = false ∧ desc.padded 0 = [3] :=
  ⟨by decide +kernel, by decide, by decide +kernel, by decide +kernel, by decide +kernel⟩

/-- Node 0 of region 0 configured with one block, RECV of port 3, with these tokens there. -/
def node (ws : List Word) (q : List Token) : State :=
  (State.reset.onPe 0 fun p => { p with region := some 0, active := { p.active with node := some ws }, inports := [(3, { InPort.blank with q := q })] }).onRegion 0
    fun r => { r with live := true }

theorem witness_FiringsBeginAtTheLeastTime :
    let ws : List Word := [0x40100000, 0x0C180000]
    let s := node ws [tok (d 1) 5]
    let src := (node [0x40000000, 0x0A000000] []).onPe 0 fun p => { p with caps := [(0, 9), (1, 8)] }
    s.fireRegion 0 = some 0 ∧ (s.pe 0).active.node = some ws ∧ isSource (s.pe 0).active.instrs = false ∧
    mandatoryPorts (s.pe 0).active.instrs = [3] ∧ s.readyFiring (probe (.node 0)) (s.pe 0).active.instrs = some (5, 0) ∧
    s.running (· == .node 0) = false ∧ (node ws []).readyFiring (probe (.node 0)) (s.pe 0).active.instrs = none ∧
    isSource (src.pe 0).active.instrs = true ∧ leastCap (src.pe 0).caps = some 8 ∧ readsBound (src.pe 0).active.instrs = false ∧
    recvPorts (src.pe 0).active.instrs = [] ∧ keptPorts (src.pe 0).active.instrs = [] ∧ optPorts (src.pe 0).active.instrs = [] ∧
    (Map.get Ag.blank s.ags 0).inflight.length < 8 := by
  and_intros <;> decide +kernel

/-- The thread of region 0 at an address whose block is `HALT`, in a page that is mapped. -/
def thread : State :=
  let put := fun (m : Memory) (a w n : Nat) => m.writeBytes a ((List.range n).map fun k => BitVec.ofNat 8 (w / 256 ^ k))
  { tables with
    cur := Frame.blank,
    mem := put tables.mem 0x1231004 0x1C000000 4,
    regions := [(0, { Region.blank with live := true, xroot := 0x8000000020000000, pc := 0x00000C00A0101000 })] }

theorem witness_ControlBlocksAreFetchedAndChecked :
    let pc : W64 := 0x00000C00A0101000
    thread.mayFetch 0 = true ∧ bits pc 1 0 = 0 ∧
    (match thread.fetchBytes (.fetch 0) 0 pc 4 with
      | (s1, .ok hd) => hd == [0, 0, 0, 0] && (match s1.fetchBytes (.fetch 0) 0 pc 8 with
        | (_, .ok bs) => bs == [0, 0, 0, 0, 0, 0, 0, 0x1C]
        | _ => false)
      | _ => false) = true ∧
    blockFault .control 0x00000000 [0x1C000000] = none ∧ (blockFault .control 0x00000000 [0xFFFFFFFF]).isSome = true ∧
    (match (thread.onRegion 0 fun r => { r with xroot := 0 }).fetchBytes (.fetch 0) 0 pc 4 with
      | (_, .error none) => true
      | _ => false) = true :=
  ⟨by decide +kernel, by decide, by decide +kernel, by decide +kernel, by decide +kernel, by decide +kernel⟩

theorem witness_ConfigurationsAndBatches :
    let s := State.reset.onPe 0 fun p => { p with region := some 0, confq := [.record 0x3] }
    let ended := State.reset.onPe 0 fun p => { p with region := some 0, pending := { p.pending with ended := true } }
    let co := State.reset.onPe 0 fun p =>
      { p with active := { p.active with coalMask := 8, coalTh := [(3, 2)] }, inports := [(3, { InPort.blank with batch := ⟨[tok (d 1) 5], 0⟩ })] }
    let st : Streamer := { Streamer.blank with on := true, blocks := [(0, ⟨[], [1], 0⟩), (1, ⟨[], [2, 3], 0⟩)] }
    let r := State.reset.onRegion 0 fun r => { r with live := true, streamer := st }
    let out := r.onPe 0 fun p => { p with region := some 0, outq := [(dispatchTag, [tok (d 0x7F) 0])] }
    (s.pe 0).confq = .record 0x3 :: [] ∧ (s.pe 0).sealed = false ∧ s.confWaits 0 = false ∧ ended.confWaits 0 = true ∧ badConf 0 = true ∧
    (ended.pe 0).drained = false ∧ ((co.pe 0).inport 3).batch.since + 4096 ≤ ({ co with cycle := 4096 } : State).cycle ∧
    (ended.pe 0).pending.ended = true ∧ (ended.pe 0).marks = false ∧ (ended.pe 0).active.node = none ∧
    ended.running (agentOnNode 0) = false ∧ (State.reset.pe 0).pending.ended = false ∧
    ((co.pe 0).inport 3).batch.records = [tok (d 1) 5] ∧ (co.pe 0).active.coalesces 3 = true ∧ st.select = some 1 ∧
    Streamer.blank.select = none ∧ (r.region 0).preempt = .none ∧ Map.get [] (out.pe 0).outq dispatchTag = [tok (d 0x7F) 0] := by
  and_intros <;> decide +kernel

theorem witness_BlocksCommitTogether :
    let f := { (ctl []).cur with words := [0x1C000000], header := 0x00000000, slots := [{ slotWith [] with phase := .issued }], exit := some (.halt, 0) }
    let s : State := { ctl [] with cur := f }
    f.complete = true ∧ s.commitFault f = none ∧ f.bufMoved (s.pe 0) = [] ∧ s.commitWaits f = false ∧ f.pagesWait (s.pe 0) = false ∧
    f.emptyWait (s.pe 0) = false ∧ ({ f with phase := .fencing 0 }).phase = .fencing 0 ∧ s.finishWaits { f with phase := .fencing 0 } 0 = false ∧
    ({ f with exit := some (.goto 0x40, 1) }).exit = some (.goto 0x40, 1) := by
  and_intros <;> first | decide +kernel | rfl


/-- A root of two locations with a positive count at location 0 and a horizon at location 1. -/
def root2 : Root :=
  { Root.blank with nloc := 2, counts := [(0, 5, 1)], horizons := [⟨1, 1, []⟩], summary := [(0, 0x80000000), (257, 0x80000000)] }

theorem witness_CountsAndFrontiers :
    (5 : LTime) ∈ (root2.counts.map fun c => c.2.1) ∧ (∃ l, root2.leads 0 l = true) ∧ (∃ h ∈ root2.horizons, h.loc = 1) ∧
    (∀ x ∈ Root.blank.counts, ¬ 0 < x.2.2) ∧ Root.blank.horizons = [] := by
  refine ⟨by decide, ⟨0, by decide +kernel⟩, ⟨⟨1, 1, []⟩, by decide, rfl⟩, by decide, rfl⟩

/-- A batch of a job. -/
def batchOf (j : Nat) : CountBatch := ⟨j, [⟨0, 5, 1⟩], 0, 0, []⟩

theorem witness_BatchesReachTheRootWhole :
    let b2 := State.reset.onBay 0 fun b => { b with batches := [batchOf 1, batchOf 1] }
    let d1 := State.reset.onDie 0 fun d => { d with batches := [batchOf 1] }
    let q := State.reset.onJob 1 fun j => { j with live := true, root := { j.root with queue := [batchOf 1] } }
    let full := State.reset.onJob 1 fun j => { j with root := { j.root with queue := [⟨1, [], 0, 0, []⟩],
                                                                            counts := List.replicate 65537 (0, 5, 1) } }
    let out := State.reset.onJob 1 fun j => { j with root := { j.root with out := [⟨0, 7, 7, 0, .port 2 3⟩, ⟨0, 7, 7, 0, .bay 4⟩] } }
    let peer := State.reset.onJob 1 fun j => { j with live := true, pkg := { j.pkg with peers := 1 } }
    (b2.bay 0).batches = batchOf 1 :: [batchOf 1] ∧ (d1.die 0).batches = [batchOf 1] ∧ (State.reset.root 1).queue = [] ∧
    (∀ e ∈ State.reset.jobs, e.2.root.queue.length < 2) ∧ (q.root 1).queue = [batchOf 1] ∧
    (((q.root 1).count [⟨0, 5, 1⟩]).openAll []).counts.length ≤ rootRoom ∧
    (full.root 1).queue = [⟨1, [], 0, 0, []⟩] ∧ rootRoom < (((full.root 1).count []).openAll []).counts.length ∧
    (out.root 1).out[0]? = some ⟨0, 7, 7, 0, .port 2 3⟩ ∧ (out.root 1).out[1]? = some ⟨0, 7, 7, 0, .bay 4⟩ ∧
    (Map.get (0, 0) (out.region 4).fronts 0).1 < (7 : LTime) ∧ (peer.job 1).live = true ∧ (peer.job 1).pkg.peers ≠ 0 ∧
    (State.reset.job 1).pkg.peers = 0 := by
  refine ⟨rfl, rfl, rfl, by decide, rfl, by decide +kernel, rfl, ?_, rfl, rfl, by decide +kernel, rfl, by decide, rfl⟩
  have h : (((State.reset.onJob 1 fun j =>
      { j with root := { j.root with queue := [⟨1, [], 0, 0, []⟩], counts := List.replicate 65537 (0, 5, 1) } }).root 1).count []).openAll [] =
      { Root.blank with queue := [⟨1, [], 0, 0, []⟩], counts := List.replicate 65537 (0, 5, 1) } := rfl
  simp only [h, rootRoom, List.length_replicate]
  decide

/-- A matrix unit with its eight tiles, the name 1 mapped to tile 2. -/
def unit : Matrix :=
  { Matrix.blank with tiles := List.replicate 8 (List.replicate 64 0), map := [none, some 2, none, none], phys := (Matrix.blank.phys).set 2 .mapped }

theorem witness_MmaWritesItsTile :
    unit.tiles.length = 8 ∧ unit.map.getD 1 none = some 2 ∧ unit.freeTile = some 0 ∧ unit.map.length = 4 ∧
    ({ unit with phys := List.replicate 8 .mapped }).freeTile = none :=
  ⟨rfl, rfl, by decide +kernel, rfl, by decide +kernel⟩

/-- A command of the matrix unit. -/
def cmd (op : MatOp) : MatCmd := ⟨op, .node 0, 0, 0, 5, 0, false, 9, 10, 0, 0, 0, [], 0, []⟩

/-- PE 0 of region 0 with that command at the head of its queue. -/
def matrix (c : MatCmd) : State :=
  (tables.onPe 0 fun p => { p with region := some 0, matrix := { unit with queue := [c] } }).onRegion 0 fun r => { r with live := true, job := 0 }

theorem witness_MatrixCommandsRunInOrder :
    let mma := cmd (.mma .f32 .k 1 false false 0)
    let l : TileLoad := ⟨.ta0, false, 0x00000C00A0101000, 32⟩
    let load := cmd (.load l)
    let rel := cmd (.mrel .f32 1 3 .rn 5)
    let two := { rel with phase := 1, tokens := [tok (d 1) 5, tok (d 2) 5] }
    let s := matrix load
    let s0 := s.onUnit 0 (·.clearRows (bufIdx l.buf) 0)
    let wr : State := { matrix load with tails := [{ Port.blank with pid := 9, flight := [{ req with op := .store }] }] }
    ((matrix mma).pe 0).command = some mma ∧ ((matrix mma).pe 0).region = some 0 ∧
    (unit.mma .f32 .k 0 false false 0).isNone = true ∧ (unit.mma .f32 .k 1 false false 0).isSome = true ∧
    (wr.onUnit 0 (·.clearRows (bufIdx l.buf) 0)).forkReady load = false ∧ s0.forkReady load = true ∧
    (match s0.unitAddr 0 0 load (rowVa l.base l.stride 0) false with
      | (s1, some (.ok a)) => (s1.readNow load.tag 1 (peRequester 0) load.pts a 32).2.err.isNone
      | _ => false) = true ∧
    ((matrix (cmd (.mst .f32 1 0 32 .rn true))).pe 0).command = some (cmd (.mst .f32 1 0 32 .rn true)) ∧
    rel.phase = 0 ∧ ((matrix rel).pe 0).marks = false ∧ (matrix rel).committing rel.after = false ∧
    ((matrix two).pe 0).mrelRoom 3 = true ∧ two.tokens = tok (d 1) 5 :: tok (d 2) 5 :: [] ∧
    (((matrix two).onPe 0 fun p => { p with active := { p.active with outp := [(3, 0x8001)] }, outq := [(1, [tok (d 1) 5])] }).pe 0).mrelRoom 3 = false ∧
    ((State.reset.onPe 0 fun p => { p with marks := true }).pe 0).marks = true ∧
    unit.bufs.length = 4 ∧ (unit.buf 0).length = 256 := by
  and_intros <;> first | decide +kernel | rfl

/-- A ray of plane 1 at a cell. -/
def ray (cell : List Int) : Ray := ⟨.node 0, 0, 1, cell, [0, 0, 0], [1, 1, 1], [1, 1, 1], none, 0, 4, none⟩

/-- PE 0 of region 0 with an operation at the head of its list. -/
def lattice (op : LatOp) : State := State.reset.onPe 0 fun p => { p with region := some 0, lops := [⟨op, 5, 0⟩] }

theorem witness_LatticeOperationsRunAfterTheCommit :
    let sh := lattice (.pshift 0x21 0)
    let st := lattice (.pstep 0x21 0)
    let open_ := fun (s : State) => s.onPe 0 fun p => { p with raceOpen := true }
    let other := ((open_ sh).onRegion 0 fun r => { r with live := true }).onPe 1 fun p =>
      { p with region := some 0, race := [⟨0, .pshift 0x31 0, 5, []⟩] }
    let due := State.reset.onPe 0 fun p => { p with stepRun := { StepRun.blank with live := true } }
    let due2 := State.reset.onPe 0 fun p => { p with stepRun := { StepRun.blank with live := true, groups := [RuleGroup.blank] } }
    let go := State.reset.onPe 0 fun p => { p with region := some 0, march := [ray [-1, 0, 0]] }
    (sh.pe 0).lops = ⟨.pshift 0x21 0, 5, 0⟩ :: [] ∧ (∃ ks, (State.reset.region 0).rect.pes = 0 :: ks) ∧ sh.stepDue (sh.region 0) = none ∧
    (sh.pe 0).collective = some (.pshift 0x21 0, 5) ∧ (st.pe 0).collective = some (.pstep 0x21 0, 5) ∧
    (match sh.needBricks 0 [((sh.pe 0).plane 1, ((sh.pe 0).plane 1).actives)] [] with
      | .here _ => true
      | _ => false) = true ∧
    ((open_ sh).pe 0).raceOpen = true ∧ (open_ sh).raceOther ((open_ sh).region 0) 0 (.pshift 0x21 0) 5 = none ∧
    (other.raceOther (other.region 0) 0 (.pshift 0x21 0) 5).isSome = true ∧
    (due.stepDue (due.region 0) = some 0 ∧ (due.pe 0).stepRun.groups = []) ∧
    (due2.stepDue (due2.region 0) = some 0 ∧ (due2.pe 0).stepRun.groups = RuleGroup.blank :: []) ∧
    (go.pe 0).nextRay = some (0, ray [-1, 0, 0]) := by
  refine ⟨by decide +kernel, ⟨(State.reset.region 0).rect.pes.tail, by decide +kernel⟩, ?_⟩
  and_intros <;> decide +kernel

theorem witness_LatticeSitesAndBoundaries :
    let p : Pe := { Pe.blank with planes := [(1, ⟨0x3, 0, 1⟩)] }
    p.lmem.wf = true ∧ 0 < (p.plane 1).geo.width ∧ (p.plane 1).geo.width % 8 = 0 ∧ 0 < (p.plane 1).geo.sites ∧
    (p.plane 1).active 0 = true ∧ (p.plane 1).active 1 = false ∧ (p.plane 1).quiet = 0 ∧ 1 < 2 ^ (p.plane 1).geo.width ∧
    modeOf 0 0 = 0 ∧ modeOf (4 <<< 23) 0 = 4 ∧ modeOf (1 <<< 23) 0 = 1 ∧ modeOf (2 <<< 23) 0 = 2 ∧ modeOf (3 <<< 23) 0 = 3 := by
  and_intros <;> decide

/-- A call of a queue. -/
def call (q : Queue) : Call := ⟨q, false, 0, 5, 1, 0, 0, 0, 9, 10, none, 2, 3, false⟩

/-- Die 0 with these calls in a queue. -/
def calls (q : Queue) (l : List Call) : State := State.reset.onDie 0 fun x => { x with copro := { x.copro with queues := [(queueCode q, l)] } }

theorem witness_CoprocessorsAndCoverage :
    let s := calls .rast [call .rast]
    let run : Running := ⟨call .rast, 0, some 0, 0⟩
    let busy := State.reset.onCoUnit 0 .rast 0 fun u => { u with running := some run, ready := [run] }
    let h : Nat × Call := (1, { call .zb with ord := true })
    let held := (State.reset.onCoUnit 0 .zb 0 fun u => { u with held := [h] }).onJob 1 fun j => { j with root := { j.root with front := [(2, 9)] } }
    let kept := State.reset.onCoUnit 0 .zb 0 fun u => { u with held := [h] }
    let bound : State := { s with bindings := [(1, .rast, 0x7000)] }
    (busy.unit 0 .rast 0).running = some run ∧ (State.reset.unit 0 .rast 0).running = none ∧
    (State.reset.die 0).copro.next .rast 0 = none ∧ (s.die 0).copro.next .rast 0 = some (call .rast) ∧ s.portQuiet 9 10 = true ∧
    ({ s with tails := [{ Port.blank with pid := 9, flight := [{ req with op := .store }] }] } : State).portQuiet 9 10 = false ∧
    bound.image 1 .rast = some 0x7000 ∧ s.image 1 .rast = none ∧
    ((calls .zb [h.2]).die 0).copro.next .zb 0 = some h.2 ∧ busy.cycle < run.since + 2 ^ 24 ∧
    run.since + 2 ^ 24 ≤ ({ busy with cycle := 2 ^ 24 } : State).cycle ∧ held.released (held.unit 0 .zb 0) = some h ∧
    (∀ x ∈ (kept.unit 0 .zb 0).held, ¬ x.2.time < Map.get 0 (kept.root x.2.job).front x.2.qloc) ∧
    (let one := State.reset.onCoUnit 0 .rast 0 fun u => { u with ready := [run] }
     (one.unit 0 .rast 0).ready = [run] ∧ (one.die 0).copro.mayReturn .rast run = true) ∧
    (∃ g k, ((State.reset.onRegion 0 fun r => { r with preempt := .draining 3 }).region g).preempt = .draining k) ∧
    (let a : Vtx := ⟨0, 0⟩; let b : Vtx := ⟨0x400, 0⟩; let c : Vtx := ⟨0, 0x400⟩
     (0 < edgeFn a b c ∧ edgeFn a c b < 0 ∨ edgeFn a b c < 0 ∧ 0 < edgeFn a c b) ∧ edgeFn a a b = 0) := by
  and_intros <;> first | decide +kernel | exact ⟨0, 3, by decide +kernel⟩

/-- A job whose graph of one entry stands in the page of the worked example. -/
def graph : State := tables.onJob 0 fun j =>
  { j with live := true, xroot := 0x8000000020000000, pkg := { j.pkg with kgbase := 0x00000C00A0101000, nentry := 1 } }

/-- Entry 0 of a type. -/
def entry (t : Nat) : WsEntry := { WsEntry.of 0 (BitVec.ofNat 512 (t <<< 61)) with ready := true, started := true, finished := true }

/-- That entry in its job. -/
def withEntry (e : WsEntry) : State := State.reset.onJob 0 fun j => { j with live := true, entries := [(0, e)], pkg := { j.pkg with nentry := 1 }, next := 1 }

/-- A bid for one bay. -/
def bid : Bid := ⟨0, 0, 0, 0, 1, 1, [0], 0, none⟩

theorem witness_KernelGraphAndBids :
    let fresh := WsEntry.of 0 0
    let noTable := graph.onJob 0 fun j => { j with xroot := 0 }
    (graph.job 0).live = true ∧ (graph.job 0).stops = false ∧ (graph.job 0).next < (graph.job 0).pkg.nentry ∧ (graph.job 0).heldEntries < 4096 ∧
    (match graph.hubRead (.hubEntry 0) 0 5 0x00000C00A0101000 64 with
      | (_, some (.ok bs)) => (WsEntry.of 0 (BitVec.ofNat 512 (leNat bs))).broken.isNone
      | _ => false) = true ∧
    (match noTable.hubRead (.hubEntry 0) 0 5 0x00000C00A0101000 64 with
      | (_, some (.error _)) => true
      | (_, none) => true
      | _ => false) = true ∧
    fresh.broken = none ∧ (WsEntry.of 0 1).broken = some 1 ∧ (State.reset.job 0).pkg.nentry ≤ (State.reset.job 0).next ∧
    (withEntry (entry 0)).draining = false ∧ (withEntry (entry 0)).oldestReady = some (0, entry 0) ∧ (withEntry (entry 0)).poolSize < 1024 ∧
    ({ State.reset with conns := [(0, ⟨0, [(0x05#8, 1, [])], none⟩)] } : State).draining = true ∧
    ((withEntry (entry 0)).job 0).entries.find 0 = some (entry 0) ∧ (withEntry (entry 0)).entryEnded 0 (entry 0) = true ∧
    (withEntry (entry 0)).entryRegion 0 0 = none ∧ (entry 0).failed = false ∧
    (withEntry (entry 0)).entryEnded 0 { entry 0 with finished := false } = false ∧
    ({ State.reset with bids := [bid] } : State).placeFor bid = some (0, 0, 0) ∧
    ({ State.reset with bids := [bid] } : State).placeFor { bid with dies := [] } = none ∧
    [bid].Pairwise (fun x y => y.outranks x = false) ∧ 8 ≤ ({ bid with bypass := 8 }).bypass := by
  and_intros <;> first | decide +kernel | exact List.pairwise_singleton _ _

theorem witness_PreciseFaultsCommitNothing :
    let on := State.reset.onRegion 0 fun r => { r with tvec := 0x8000000000001000 }
    (at_ []).cur.live = true ∧ bitAt (on.region 0).tvec 63 = true ∧ statusInh (on.region 0).status = false ∧ (ctl []).cur.agent = .ctl 0 ∧
    (at_ []).cur.agent = .node 0 ∧ ((at_ []).region 0).overflow = false ∧ ((at_ []).region 0).faultq.length < 32 := by
  and_intros <;> first | decide +kernel | rfl

/-- A record of a fault that interrupts. -/
def faultRec : TrapRecord := mkRecord .deadline 8 3 0 0 0 0

/-- A live region with these changes. -/
def live (f : Region → Region) : State := State.reset.onRegion 0 fun r => f { r with live := true }

theorem witness_FaultsAreHandledAndRegionsMoved :
    let q := live fun r => { r with faultq := [faultRec] }
    let on := live fun r => { r with faultq := [faultRec], tvec := 0x8000000000001000 }
    let inh := live fun r => { r with status := statusSet r.status 14 true }
    let fullq := live fun r => { r with faultq := List.replicate 32 faultRec }
    let limit := live fun r => { r with wdog := 0x0000000100000100, stallCnt := 1024 }
    let halt := live fun r => { r with wdogHalt := some 0 }
    let job := (State.reset.onJob 0 fun j => { j with live := true }).onRegion 0 fun r => { r with live := true }
    let w : Withheld := ⟨.slot (.node 0) 0, 0, 0, 0, .read, 0, none⟩
    let held : State := { live id with withheld := [w] }
    let dr := live fun r => { r with preempt := .draining 0 }
    let sv : Saved :=
      { live := true, lost := false, job := 0, entry := 0, save := 0x10000, gen := 0, nb := 1, region := Region.blank, pes := [],
        streams := [], queued := [], held := [], ready := [], pmons := [], bayLocs := [], ports := [], holds := [], fronts := [], page := none,
        rank := (0, 0, 0), dies := [], place := some 0 }
    (live id).holdsRegion 0 = true ∧ (q.region 0).interrupting = some faultRec ∧ ((live id).region 0).interrupting = none ∧
    q.frameOf (· == .ctl 0) = none ∧ bitAt (on.region 0).tvec 63 = true ∧ bitAt (q.region 0).tvec 63 = false ∧
    statusInh (inh.region 0).status = true ∧ 32 ≤ (fullq.region 0).faultq.length ∧ (fullq.region 0).overflow = false ∧
    bitAt (q.region 0).wdog 0 = false ∧ bits (q.region 0).wdog 63 32 = 0 ∧ bits (limit.region 0).wdog 63 32 ≠ 0 ∧
    1024 * bits (limit.region 0).wdog 31 8 ≤ (limit.region 0).stallCnt ∧ bits (q.region 0).wdog 31 8 = 0 ∧
    (halt.region 0).wdogHalt = some 0 ∧ (job.job 0).live = true ∧ (job.job 0).outcome = none ∧ job.holdsRegion 0 = true ∧
    ((live fun r => { r with brkStop := true }).region 0).brkStop = true ∧
    held.withheld[0]? = some w ∧ (held.region 0).preemptable = true ∧ 0 ∈ held.domainOf 0 ∧ (dr.region 0).draining = true ∧
    (State.reset.pe 0).marks = false ∧ ((State.reset.onPe 0 fun p => { p with inports := [(3, { InPort.blank with marked := true })] }).pe 0 |>.inport 3).marked =
      true ∧
    State.reset.regionOfBay 0 = none ∧ (live id).regionOfBay 0 = some 0 ∧ (dr.domainOf 0).all (dr.regionCut (dr.markedPorts (dr.domainOf 0))) = false ∧
    ({ State.reset with saves := [(0, sv)] } : State).saves.find 0 = some sv ∧ sv.fits sv.region.rect.d = true ∧ sv.badBlock = none ∧
    (({ State.reset with poison := [0x400] } : State).badSave sv.save.toNat sv.nb sv.job sv.gen).isSome = true := by
  and_intros <;> decide +kernel

/-- A machine that runs, with one connection. -/
def running : State := { State.reset with boot := .running, hosts := [1], conns := [(0, ⟨1, [], none⟩)] }

/-- The same with a live job, an endpoint, an export and the safe store. -/
def hosted : State :=
  (running.onJob 1 fun j => { j with live := true, exports := [(0, ⟨0x10000, 64, [(0, 0x10000)], 3⟩)] }).onJob 0xFFFF fun j => { j with endpts := [(2, 64)] }

/-- A transfer in progress. -/
def moving (t : Transfer) : State := { State.reset with transfers := [⟨4, 1, .node 0, 0, t, 5⟩] }

theorem witness_HostAndModule :
    let ep := (State.reset.onBay 0 fun b => { b with streams := [(1, { stream with job := 1, desc := { desc with ep := true, epidx := 2 } })] })
    State.reset.boot = .cold ∧ ({ State.reset with boot := .requested 0 } : State).boot = .requested 0 ∧
    0 + 2 ^ 30 ≤ ({ State.reset with boot := .failed 0, cycle := 2 ^ 30 } : State).cycle ∧ running.hosts.contains 1 = true ∧
    running.hosts.contains 2 = false ∧ State.reset.regionOfBay 0 = none ∧ (live id).regionOfBay 0 = some 0 ∧
    ((State.reset.onBay 0 fun b => { b with power := .on }).bay 0).power = .on ∧
    ((State.reset.onBay 0 fun b => { b with power := .off }).bay 0).power = .off ∧ ({ State.reset with fabricOff := true } : State).fabricOff = true ∧
    running.takesCommand 0 = true ∧ State.reset.takesCommand 0 = false ∧ running.hasJob 1 = false ∧ hosted.hasJob 1 = true ∧
    hosted.endpointOpen 1 2 = false ∧ ep.endpointOpen 1 2 = true ∧ (hosted.job 2).exports = [] ∧ (hosted.job 1).exports.find 5 = none ∧
    ((hosted.job 1).exports.find 0).isSome = true ∧ hosted.safeStore 2 = true ∧ hosted.safeStore 3 = false ∧ (hosted.job 1).rr = 0 ∧
    (let j := (hosted.onJob 1 fun j => { j with rr := 1, wsDone := true }).job 1
     j.live = true ∧ j.rr ≠ 0 ∧ j.wsDone = true ∧ j.captOff = false) ∧
    hosted.exportFor 1 0 64 8 1 = none ∧ (hosted.exportFor 1 0 0 8 3).isSome = true ∧
    ({ hosted with conns := [(0, ⟨1, [(0x01#8, 7, [])], some LaunchPackage.blank⟩)] } : State).waitingOn 0 = some (0x01#8, 7, []) ∧
    (∃ e, (moving (.atomic 0x1000 .add 1 [] (.node 0))).transfers.find? (fun x => x.id == 4) = some e) ∧
    (∀ x ∈ State.reset.transfers, x.id ≠ 4) ∧
    (hosted.job 1).capWait.contains 0 = false ∧ ((hosted.onJob 1 fun j => { j with capWait := [0], pkg := { j.pkg with cappages := 1 } }).job 1).captRoom = true ∧
    ((hosted.onJob 1 fun j => { j with capWait := [0] }).job 1).captRoom = false := by
  and_intros <;> first | decide +kernel | rfl | exact ⟨⟨4, 1, .node 0, 0, .atomic 0x1000 .add 1 [] (.node 0), 5⟩, by decide +kernel⟩

/-! ## bexas: the examples of the spec -/

/-- The words of a block of a source text. -/
def bexasBlock (kind : BlockKind) (src : List String) : Option (List Nat) := do
  let ls ← (← src.mapM lexLine).mapM parseSlotLine
  return (← BBlock.words ⟨kind, "", none, ls⟩ ⟨[], []⟩ 0).map BitVec.toNat

/-- 09 Table 9-21: the words of `pick`. -/
theorem test_bexas_pick :
    bexasBlock .node ["00: RECV p0        -> 03.l", "01: RECV p1        -> 03.r", "02: RECV p2        -> 03.p, 04.p",
      "03: FADD.f32.rn ?t -> p5", "04: NULL ?f        -> p5"] =
    some [0x44100000, 0x0C008600, 0x0C090600, 0x0C1186C4, 0xA0D14008, 0x0B514000] := by decide +kernel

/-- 11 Table 11-6: the header of `swapw` counts its one register delivery and its one store-class instruction. -/
theorem test_bexas_swapw :
    (bexasBlock .node ["00: RECV p0 -> 02.l", "01: RECV p1 -> 02.r", "02: ATOM.xchg.x64 m0 +0 -> n1"]).map (·.headD 0) =
    some 0x42110000 := by decide +kernel

/-- 10 R174: an immediate outside its range, a missing suffix and a slot that skips a number are refused. -/
theorem test_bexas_refuses :
    bexasBlock .node ["00: MOVI 8192 -> p0"] = none ∧ bexasBlock .node ["00: READ n0 -> 01.l", "01: EXT -> p0"] = none ∧
    bexasBlock .node ["01: MOVI 1 -> p0"] = none := by decide +kernel

/-- 29 R412: the value of a time literal. -/
theorem test_bexas_time : lexLine "time(3:0.5)" = some [.time 0x0000300001400000] := by decide +kernel

/-- 28, data image: 0.375 is the FP16 code 0x3600; and a value that would round to infinity is refused. -/
theorem test_bexas_floats :
    (BFloat.dec false 375 (-3)).code fp16 = some 0x3600 ∧ (BFloat.dec false 65520 0).code fp16 = none ∧
    (BFloat.dec true 1 (-1)).code fp32 = some 0xBDCCCCCD := by decide +kernel

/-- 20, after Table 20-7: the path-summary table of `chan5`, whose locations have the depths 1, 1 and 0. -/
theorem test_bexas_summaries :
    (summaryTable 3 (fun i => if i = 2 then 0 else 1) [(0, 1, 0), (1, 2, 0)]).map BitVec.toNat =
    [3, 0x90000000, 0x90000000, 0x80000000, 0, 0x90000000, 0x80000000, 0, 0, 0x80000000] := by decide +kernel

/-- 08 Table 8-3: the entries of circuit 0x01A. -/
theorem test_bexas_route :
    let parts := routeParts 0x1A (peOf 0 2 1) (peOf 0 4 1) 3 ++ routeParts 0x1A (peOf 0 2 1) (peOf 0 4 3) 0
    [peOf 0 2 1, peOf 0 3 1, peOf 0 4 1, peOf 0 4 2, peOf 0 4 3].map (boxTable parts) =
    [0x9000, 0x9000, 0xE030, 0xA000, 0xC000].map fun e => some [(0x1A, e)] := by decide +kernel

end Sys2Proof.Tests
end

section
/-! Lines and fills (02 R29 to R31; 04 R55, R66, R70): what a soft error, a read of HBM and a fill leave in a line, in its slice and
in the log. -/

namespace Sys2Proof.Machine

/-! ## Bits -/

/-- A number placed fills its own bits alone. -/
theorem getLsbD_place (w lo n v j : Nat) :
    (place w lo n v).getLsbD j = (decide (j < w) && decide (lo ≤ j ∧ j < lo + n) && v.testBit (j - lo)) := by
  simp only [place, BitVec.getLsbD_ofNat, Nat.testBit_mul_two_pow, Nat.testBit_mod_two_pow]
  by_cases hlo : lo ≤ j
  · have : (j - lo < n) ↔ j < lo + n := by omega
    simp [hlo, this, Bool.and_assoc]
  · simp [hlo]

/-- The bits of the field inserted are those of the number; every other bit stays. -/
theorem getLsbD_insertBits {w : Nat} (v : BitVec w) (lo n x j : Nat) :
    (insertBits v lo n x).getLsbD j =
      if lo ≤ j ∧ j < lo + n then decide (j < w) && x.testBit (j - lo) else v.getLsbD j := by
  simp only [insertBits, BitVec.getLsbD_or, BitVec.getLsbD_and, BitVec.getLsbD_not, getLsbD_place, Nat.testBit_two_pow_sub_one]
  by_cases hj : lo ≤ j ∧ j < lo + n
  · have : j - lo < n := by omega
    simp [hj, this]
  · cases hv : v.getLsbD j
    · simp [hj]
    · simp [hj, BitVec.lt_of_getLsbD hv]

theorem testBit_bytesAt (v : W512) (o n j : Nat) : (bytesAt v o n).testBit j = (decide (j < 8 * n) && v.getLsbD (8 * o + j)) := by
  simp only [bytesAt, Nat.testBit_mod_two_pow, Nat.testBit_div_two_pow, BitVec.getLsbD, Nat.add_comm]

/-! ## Sectors of a line -/

theorem Line.sector_setSector_self (l : Line) {i : Nat} (x : Sector) (h : i < 4) : (l.setSector i x).sector i = x := by
  simp [Line.sector, Line.setSector, h]

theorem Line.sector_setSector_ne (l : Line) {i j : Nat} (x : Sector) (h : i ≠ j) : (l.setSector j x).sector i = l.sector i := by
  simp [Line.sector, Line.setSector, h.symm]

@[simp] theorem Line.sector_put (l : Line) (o n v i : Nat) : (l.put o n v).sector i = l.sector i := rfl
@[simp] theorem Line.get_setSector (l : Line) (i : Nat) (x : Sector) (o n : Nat) : (l.setSector i x).get o n = l.get o n := rfl

theorem Line.get_put_self (l : Line) {o n : Nat} (v : Nat) (h : o + n ≤ 64) : (l.put o n v).get o n = v % 2 ^ (8 * n) := by
  apply Nat.eq_of_testBit_eq
  intro j
  simp only [Line.get, Line.put, testBit_bytesAt, getLsbD_insertBits, Nat.testBit_mod_two_pow]
  by_cases hj : j < 8 * n
  · have : 8 * o + j < 512 := by omega
    simp [hj, this]
  · simp [hj]

theorem Line.get_put_disjoint (l : Line) {o n p m : Nat} (v : Nat) (h : p + m ≤ o ∨ o + n ≤ p) :
    (l.put o n v).get p m = l.get p m := by
  apply Nat.eq_of_testBit_eq
  intro j
  simp only [Line.get, Line.put, testBit_bytesAt, getLsbD_insertBits]
  by_cases hj : j < 8 * m
  · rw [if_neg (by omega)]
  · simp [hj]

/-! ## Filling a line from memory (04 R55) -/

/-- Sectors are filled one after the other. -/
theorem Line.fillFrom_cons (l : Line) (mem : Memory) (a j : Nat) (secs : List Nat) :
    l.fillFrom mem a (j :: secs) = (l.fillFrom mem a [j]).fillFrom mem a secs := rfl

theorem Line.fillFrom_one_invalid {l : Line} {j : Nat} (mem : Memory) (a : Nat) (h : l.sector j = .invalid) :
    l.fillFrom mem a [j] = (l.put (16 * j) 16 (mem.readNat (a + 16 * j) 16)).setSector j .clean := by
  simp [Line.fillFrom, h]

theorem Line.fillFrom_one_held {l : Line} {j : Nat} (mem : Memory) (a : Nat) (h : l.sector j ≠ .invalid) :
    l.fillFrom mem a [j] = l := by
  simp [Line.fillFrom, h]

/-- Filling one sector leaves the state and the bytes of another. -/
theorem Line.fillFrom_one_ne (l : Line) {i j : Nat} (mem : Memory) (a : Nat) (h : i ≠ j) :
    (l.fillFrom mem a [j]).sector i = l.sector i ∧ (l.fillFrom mem a [j]).get (16 * i) 16 = l.get (16 * i) 16 := by
  by_cases hj : l.sector j = .invalid
  · rw [Line.fillFrom_one_invalid mem a hj, Line.sector_setSector_ne _ _ h, Line.get_setSector, Line.sector_put]
    exact ⟨rfl, Line.get_put_disjoint l _ (by omega)⟩
  · rw [Line.fillFrom_one_held mem a hj]
    exact ⟨rfl, rfl⟩

/-- A sector that is held keeps its state and its bytes. -/
theorem Line.fillFrom_held {l : Line} {i : Nat} (mem : Memory) (a : Nat) (secs : List Nat) (h : l.sector i ≠ .invalid) :
    (l.fillFrom mem a secs).sector i = l.sector i ∧ (l.fillFrom mem a secs).get (16 * i) 16 = l.get (16 * i) 16 := by
  induction secs generalizing l with
  | nil => exact ⟨rfl, rfl⟩
  | cons j secs ih =>
    have one : (l.fillFrom mem a [j]).sector i = l.sector i ∧ (l.fillFrom mem a [j]).get (16 * i) 16 = l.get (16 * i) 16 := by
      by_cases hij : i = j
      · subst hij
        rw [Line.fillFrom_one_held mem a h]
        exact ⟨rfl, rfl⟩
      · exact Line.fillFrom_one_ne l mem a hij
    rw [Line.fillFrom_cons, ← one.1, ← one.2]
    exact ih (one.1 ▸ h)

/-- A sector that is not held and is filled is clean and holds the bytes of memory. -/
theorem Line.fillFrom_invalid {l : Line} {i : Nat} (mem : Memory) (a : Nat) {secs : List Nat} (mem_secs : i ∈ secs) (lt : i < 4)
    (h : l.sector i = .invalid) :
    (l.fillFrom mem a secs).sector i = .clean ∧
      (l.fillFrom mem a secs).get (16 * i) 16 = mem.readNat (a + 16 * i) 16 % 2 ^ 128 := by
  induction secs generalizing l with
  | nil => cases mem_secs
  | cons j secs ih =>
    rw [Line.fillFrom_cons]
    by_cases hij : i = j
    · subst hij
      have filled : (l.fillFrom mem a [i]).sector i = .clean := by
        rw [Line.fillFrom_one_invalid mem a h, Line.sector_setSector_self _ _ lt]
      have kept := Line.fillFrom_held (i := i) mem a secs (l := l.fillFrom mem a [i]) (by simp [filled])
      refine ⟨kept.1.trans filled, kept.2.trans ?_⟩
      rw [Line.fillFrom_one_invalid mem a h, Line.get_setSector, Line.get_put_self l _ (by omega)]
    · have one := Line.fillFrom_one_ne l mem a hij
      exact ih ((List.mem_cons.mp mem_secs).resolve_left hij) (one.1.trans h)

/-- A fill keeps the leases of its line. -/
theorem Line.fillFrom_leases (l : Line) (mem : Memory) (a : Nat) (secs : List Nat) :
    (l.fillFrom mem a secs).wts = l.wts ∧ (l.fillFrom mem a secs).rts = l.rts := by
  induction secs generalizing l with
  | nil => exact ⟨rfl, rfl⟩
  | cons j secs ih =>
    have one : (l.fillFrom mem a [j]).wts = l.wts ∧ (l.fillFrom mem a [j]).rts = l.rts := by
      by_cases hj : l.sector j = .invalid
      · rw [Line.fillFrom_one_invalid mem a hj]
        exact ⟨rfl, rfl⟩
      · rw [Line.fillFrom_one_held mem a hj]
        exact ⟨rfl, rfl⟩
    rw [Line.fillFrom_cons, ← one.1, ← one.2]
    exact ih _

/-! ## Soft errors and reads of HBM (02 R29, R30) -/

@[simp] theorem State.strikeHbm_clean (s : State) (line : Nat) : s.strikeHbm line .clean = s := rfl

theorem State.strikeHbm_of_ne (s : State) (line : Nat) {e : SoftError} (h : e ≠ .clean) :
    s.strikeHbm line e = { s with hbmErr := s.hbmErr.set line e } := by
  simp [State.strikeHbm, h]

theorem State.readHbm_sound {s : State} {line : Nat} (h : s.hbmErr.find line = none) : s.readHbm line = (s, false) := by
  simp [State.readHbm, h]

/-- An error that is corrected is counted at the slice of the line, and the line is read. -/
theorem State.readHbm_corrected {s : State} {line : Nat} (h : s.hbmErr.find line = some .corrected) :
    s.readHbm line = (({ s with hbmErr := s.hbmErr.drop line } : State).onSlice (s.sliceOf (64 * line)) (·.countHbm), false) := by
  simp [State.readHbm, h]

/-- An error that cannot be corrected poisons the line. -/
theorem State.readHbm_uncorrectable {s : State} {line : Nat} (h : s.hbmErr.find line = some .uncorrectable) :
    s.readHbm line = (({ s with hbmErr := s.hbmErr.drop line } : State).poisonLine line, true) := by
  simp [State.readHbm, h]

/-- A slice with a line poisoned where it holds it (02 R30). -/
def Slice.poisonHeld (c : Slice) (line : Nat) : Slice :=
  match c.lines.find line with
  | some l => { c with lines := c.lines.set line { l with poison := true } }
  | none => c

@[simp] theorem Slice.errlog_poisonHeld (c : Slice) (line : Nat) : (c.poisonHeld line).errlog = c.errlog := by
  unfold Slice.poisonHeld; split <;> rfl

/-- A line is poisoned in its slice and in HBM. -/
theorem State.poisonLine_eq (s : State) (line : Nat) :
    s.poisonLine line = { s.onSlice (s.sliceOf (64 * line)) (·.poisonHeld line) with
      poison := if s.poison.contains line then s.poison else line :: s.poison } := rfl

@[simp] theorem State.mem_poison_poisonLine (s : State) (line : Nat) : line ∈ (s.poisonLine line).poison := by
  rw [State.poisonLine_eq]
  by_cases h : line ∈ s.poison <;> simp [h]

@[simp] theorem State.poisonLine_mem (s : State) (line : Nat) : (s.poisonLine line).mem = s.mem := rfl

theorem State.errlog_onSlice (s : State) (n k : Nat) {g : Slice → Slice} (h : ∀ c, (g c).errlog = c.errlog) :
    ((s.onSlice n g).slice k).errlog = (s.slice k).errlog := by
  by_cases hk : k = n
  · subst hk
    rw [State.slice_onSlice_self, h]
  · rw [State.slice_onSlice_ne s _ hk]

/-- Poisoning a line changes no error log. -/
@[simp] theorem State.poisonLine_errlog (s : State) (line k : Nat) : ((s.poisonLine line).slice k).errlog = (s.slice k).errlog := by
  rw [State.poisonLine_eq, ← State.errlog_onSlice s (s.sliceOf (64 * line)) k fun c => c.errlog_poisonHeld line]
  rfl

/-! ## The error log (02 R28) -/

/-- The first element that satisfies a test, at its place. -/
theorem findIdx_eq_some {α : Type} {q : α → Bool} {as : List α} {j : Nat} {x : α} (at_ : as[j]? = some x) (hq : q x = true)
    (before : ∀ i < j, ∀ y, as[i]? = some y → q y = false) (n : Nat) : findIdx q as n = some (n + j, x) := by
  induction as generalizing j n with
  | nil => simp at at_
  | cons a as ih =>
    cases j with
    | zero =>
      obtain rfl : a = x := by simpa using at_
      simp [findIdx, hq]
    | succ j =>
      have head : q a = false := before 0 (by omega) a rfl
      have tail := ih (by simpa using at_) (fun i hi y hy => before (i + 1) (by omega) y (by simpa using hy)) (n + 1)
      simp only [findIdx, head, tail, Bool.false_eq_true, if_false]
      rw [Nat.add_right_comm, Nat.add_assoc]

theorem Slice.errlog_getElem? (c : Slice) {i : Nat} (h : i < 16) : c.errlog.toList[i]? = some (c.entryAt i) := by
  simp [Slice.entryAt, h]

/-- An error goes into the lowest free entry. -/
theorem Slice.entryAt_log {c : Slice} {j : Nat} (e : ErrEntry) (lt : j < 16) (free : (c.entryAt j).v = false)
    (taken : ∀ i, i < j → (c.entryAt i).v = true) : (c.log e).entryAt j = e := by
  have found := findIdx_eq_some (q := fun x : ErrEntry => !x.v) (c.errlog_getElem? lt) (by simp [free])
    (fun i hi y hy => by
      obtain rfl : c.entryAt i = y := by simpa [c.errlog_getElem? (by omega : i < 16)] using hy
      simp [taken i hi]) 0
  simp [Slice.log, found, Slice.entryAt, lt]

@[simp] theorem State.logError_mem (s : State) (k : Nat) (e : ErrEntry) : (s.logError k e).mem = s.mem := by
  unfold State.logError; split <;> rfl
@[simp] theorem State.logError_poison (s : State) (k : Nat) (e : ErrEntry) : (s.logError k e).poison = s.poison := by
  unfold State.logError; split <;> rfl

theorem State.slice_logError_self (s : State) (k : Nat) (e : ErrEntry) : (s.logError k e).slice k = (s.slice k).log e := by
  unfold State.logError
  split <;> exact State.slice_onSlice_self _ k _

theorem Slice.entryAt_congr {c d : Slice} (h : c.errlog = d.errlog) (i : Nat) : c.entryAt i = d.entryAt i := by
  simp only [Slice.entryAt, h]

/-! ## Fills that land with no access behind them (04 R55) -/

/-- A fill for which no request waits leaves its buffer and fills its sectors. -/
theorem State.landFill_of_no_waiting {s : State} {k idx : Nat} {f : Fill} (h : (s.slice k).fills[idx]? = some f)
    (none_waits : f.waiting = []) :
    s.landFill k idx = ((s.popFill k idx).fillSectors k f.line (maskSectors f.sectors)).1 := by
  simp only [State.landFill, h, none_waits, List.foldl_nil]

/-! ## Lines that are held -/

theorem Slice.hasWay_of_find {c : Slice} {line : Nat} {l : Line} (h : c.lines.find line = some l) : c.hasWay line = true := by
  simp [Slice.hasWay, h]

theorem State.makeRoom_of_hasWay {s : State} {k line : Nat} (h : (s.slice k).hasWay line = true) : s.makeRoom k line = s := by
  simp [State.makeRoom, h]

theorem State.lineAt_of_find {s : State} {k line : Nat} {l : Line} (h : (s.slice k).lines.find line = some l) : s.lineAt k line = l := by
  simp [State.lineAt, h]

@[simp] theorem State.lines_setLine_self (s : State) (k line : Nat) (l : Line) :
    ((s.setLine k line l).slice k).lines.find line = some l := by
  simp [State.setLine, Map.find_set_self]

/-- A fill of a held device line whose HBM shows no error. -/
theorem State.fillSectors_device {s : State} {k line : Nat} {l : Line} (secs : List Nat) (no_window : s.windowAt (64 * line) = none)
    (device : inView (64 * line) = false) (sound : s.hbmErr.find line = none) (held : (s.slice k).lines.find line = some l) :
    s.fillSectors k line secs = (s.setLine k line (l.fillFrom s.mem (64 * line) secs), none) := by
  simp [State.fillSectors, State.makeRoom_of_hasWay (Slice.hasWay_of_find held), no_window, device, State.readHbm_sound sound,
    State.lineAt_of_find held]

/-! ## SECTOR_FILL, BOLTER_FILL and SCRUB_READ -/

section
variable {s : State} {k idx : Nat} {f : Fill} (h : (s.slice k).fills[idx]? = some f)
include h

theorem execSectorFill_device (e : SoftError) (device : inView (64 * f.line) = false) :
    execSectorFill k idx e s = .next ((s.strikeHbm f.line e).landFill k idx) := by
  simp [execSectorFill, h, device]

theorem execSectorFill_view (e : SoftError) (view : inView (64 * f.line) = true) : execSectorFill k idx e s = .next s := by
  simp [execSectorFill, h, view]

theorem execBolterFill_view (view : inView (64 * f.line) = true) : execBolterFill k idx s = .next (s.landFill k idx) := by
  simp [execBolterFill, h, view]

theorem execBolterFill_device (device : inView (64 * f.line) = false) : execBolterFill k idx s = .next s := by
  simp [execBolterFill, h, device]

end

theorem inDevice_line {line : Nat} (h : line < 2 ^ 34) : inDevice (64 * line) = true := by
  simp only [inDevice, decide_eq_true_eq]
  omega

/-- The scrubber reads a line that shows no error it cannot correct. -/
theorem execScrubRead_corrects {s t : State} {line : Nat} {e : SoftError} (lt : line < 2 ^ 34)
    (h : (s.strikeHbm line e).readHbm line = (t, false)) : execScrubRead line e s = .next t := by
  simp [execScrubRead, inDevice_line lt, h]

/-- The scrubber finds an error that cannot be corrected, and the owner of the page is named in the log. -/
theorem execScrubRead_charges {s t : State} {line : Nat} {e : SoftError} (lt : line < 2 ^ 34)
    (h : (s.strikeHbm line e).readHbm line = (t, true)) :
    execScrubRead line e s = .next (t.chargeOwner (s.sliceOf (64 * line)) (64 * line)) := by
  simp [execScrubRead, inDevice_line lt, h]

end Sys2Proof.Machine
end

section
/-! Fills bring the bytes of memory, and the scrubber finds what has struck (02 R29 to R31; 04 R55, R66, R70). -/
namespace Sys2Proof.Machine

/-- A fill with no access behind it fills its sectors alone; a read of HBM and the scrubber count, poison and charge what they find. -/
theorem fillsAndScrubbing : Claim.FillsAndScrubbing := by
  intro s k idx line f e at_ none_waits
  have land (t : State) (ht : (t.slice k).fills = (s.slice k).fills) :=
    State.landFill_of_no_waiting (s := t) (ht ▸ at_) none_waits
  have struck_find (e : SoftError) : (s.hbmErr.set line e).find line = some e := Map.find_set_self _ _ _
  have corr := State.readHbm_corrected (s := { s with hbmErr := s.hbmErr.set line .corrected }) (struck_find .corrected)
  have uncorr := State.readHbm_uncorrectable (s := { s with hbmErr := s.hbmErr.set line .uncorrectable }) (struck_find .uncorrectable)
  refine ⟨fun device => ⟨?_, fun ne => ?_⟩, fun view => ⟨?_, execSectorFill_view at_ e view⟩, execBolterFill_device at_, corr,
    ?_, ?_, fun lt => ⟨fun sound => ?_, ?_, ?_⟩⟩
  · exact (execSectorFill_device at_ .clean device).trans (congrArg _ (land s rfl))
  · refine (execSectorFill_device at_ e device).trans (congrArg _ ?_)
    rw [State.strikeHbm_of_ne s _ ne]
    exact land _ rfl
  · exact (execBolterFill_view at_ view).trans (congrArg _ (land s rfl))
  · rw [uncorr]
  · rw [uncorr]
    exact List.contains_iff_mem.mpr (State.mem_poison_poisonLine _ line)
  · exact execScrubRead_corrects lt (State.readHbm_sound sound)
  · exact execScrubRead_corrects lt corr
  · refine ⟨_, execScrubRead_charges lt uncorr, ?_, ?_, fun j hj free taken => ?_⟩
    · simp [State.chargeOwner]
    · simp [State.chargeOwner]
    · have log_eq (i : Nat) := Slice.entryAt_congr (State.poisonLine_errlog
        { s with hbmErr := (s.hbmErr.set line .uncorrectable).drop line } line (s.sliceOf (64 * line))) i
      rw [State.chargeOwner, State.slice_logError_self]
      exact Slice.entryAt_log _ hj ((log_eq j).symm ▸ free) fun i hi => (log_eq i).symm ▸ taken i hi

/-- A fill of a held device line: what was held stays, and what was not comes from memory. -/
theorem fillBringsTheBytesOfMemory : Claim.FillBringsTheBytesOfMemory := by
  intro s k line i secs l no_window device sound held mem_secs lt
  have leases := l.fillFrom_leases s.mem (64 * line) secs
  refine ⟨_, State.fillSectors_device secs no_window device sound held, rfl, _, State.lines_setLine_self s k line _, ?_,
    leases.1, leases.2, fun valid => (Line.fillFrom_held _ _ _ valid).2,
    fun invalid => (Line.fillFrom_invalid _ _ mem_secs (lt i mem_secs) invalid).2⟩
  by_cases h : l.sector i = .invalid
  · simp [(Line.fillFrom_invalid s.mem (64 * line) mem_secs (lt i mem_secs) h).1]
  · simpa [(Line.fillFrom_held s.mem (64 * line) secs h).1] using h

/-- Settles O38, from what a fill leaves in each sector and from what a read of HBM finds. -/
theorem fillsBringMemoryAndScrub : Obligations.FillsBringMemoryAndScrub := ⟨fillsAndScrubbing, fillBringsTheBytesOfMemory⟩

end Sys2Proof.Machine
end

section
/-! SLICE_ACCESS (02 R26; 04 R54 to R56, R59): what a slice makes of the head of a class queue. -/

namespace Sys2Proof.Machine

open Claim (popped)

/-! ## A slice after the head of a queue has left it -/

/-- Changes of a slice that agree on it make the same state. -/
theorem State.onSlice_congr (s : State) {k : Nat} {g h : Slice → Slice} (eq : g (s.slice k) = h (s.slice k)) :
    s.onSlice k g = s.onSlice k h := by
  unfold State.slice at eq
  simp only [State.onSlice, Map.modify, eq]

@[simp] theorem slice_popped (s : State) (k cls : Nat) (rest : List Req) : (popped s k cls rest).slice k =
    { s.slice k with queues := (s.slice k).queues.set! (cls - 1) rest, turn := cls % 5 } :=
  State.slice_onSlice_self _ k _

theorem State.accessError_refresh (s : State) (x : List Nat) (job : BitVec 16) (a n : Nat) (write : Bool) :
    ({ s with refresh := x } : State).accessError job a n write = s.accessError job a n write := rfl

theorem State.captureNeeded_refresh (s : State) (x : List Nat) (a n : Nat) :
    ({ s with refresh := x } : State).captureNeeded a n = s.captureNeeded a n := rfl

/-! ## Taking a request at its line (04 R54, R55) -/

@[simp] theorem State.strikeLine_clean (s : State) (k line part : Nat) : s.strikeLine k line part .clean = s := by
  unfold State.strikeLine
  split <;> rfl

theorem State.evictFor_of_hasWay {s : State} {k line : Nat} (victim : Nat) (h : (s.slice k).hasWay line = true) :
    s.evictFor k victim line = s := by
  simp [State.evictFor, h]

theorem State.lineAt_of_not_held {s : State} {k line : Nat} (h : (s.slice k).lines.find line = none) :
    s.lineAt k line = freshLine (s.slice k).evts (s.poison.contains line) := by
  simp [State.lineAt, h]

theorem State.checkLine_sound {s : State} {k line : Nat} {l : Line} (secs : List Nat) (h : (s.slice k).lines.find line = some l)
    (sound : l.errs = []) : s.checkLine k line secs = (s, false) := by
  simp [State.checkLine, h, sound]

theorem State.checkLine_not_held {s : State} {k line : Nat} (secs : List Nat) (h : (s.slice k).lines.find line = none) :
    s.checkLine k line secs = (s, false) := by
  simp [State.checkLine, h]

section
variable {s : State} {k : Nat} {r : Req} (quiet : (s.slice k).pending (r.addr / 64) r.sectors = none)
  (sound : s.checkLine k (r.addr / 64) r.reads = (s, false))
include quiet sound

/-- A request whose sectors are valid, or whose line is poisoned, is applied. -/
theorem State.takeAt_applies
    (h : r.needs (s.lineAt k (r.addr / 64)) = [] ∨ ((s.lineAt k (r.addr / 64)).poison = true ∧ r.wholeLine = false)) :
    s.takeAt k r = some (s.applyAt k r) := by
  unfold State.takeAt
  rcases h with h | ⟨poison, part⟩
  · simp [quiet, sound, h]
  · simp [quiet, sound, poison, part]

/-- A request that needs a fill waits for it in a fill buffer. -/
theorem State.takeAt_misses {c : Slice} (need : r.needs (s.lineAt k (r.addr / 64)) ≠ [])
    (whole : (s.lineAt k (r.addr / 64)).poison = false)
    (room : (s.slice k).miss r (r.needs (s.lineAt k (r.addr / 64))) = some c) :
    s.takeAt k r = some (s.onSlice k fun _ => c) := by
  simp [State.takeAt, quiet, sound, need, whole, room]

end

/-- A request for a line that no fill is pending for takes a free fill buffer (04 R55). -/
theorem Slice.miss_opens {c : Slice} {r : Req} (need : List Nat) (fresh : ∀ f ∈ c.fills, f.line ≠ r.addr / 64)
    (room : c.fills.length < 64) : c.miss r need = some { c with fills := c.fills ++ [⟨r.addr / 64, sectorMask need, [r]⟩] } := by
  have : (c.fills.any fun f => f.line == r.addr / 64) = false := by simpa using fresh
  simp [Slice.miss, this, room]

/-! ## Applying a request (04 R55, R56) -/

/-- The leases of a line after a request (04 Table 4-1). -/
def Req.leases (r : Req) (l : Line) (write : Bool) : Nat × Nat := if write then storeLease l r.pts else loadLease l r.pts r.lease

theorem State.leaseHigh_of_le (s : State) {t : Nat} (h : t ≤ 2 ^ 47) : s.leaseHigh t = s := by
  have : ¬ 2 ^ 47 < t := Nat.not_lt.mpr h
  simp only [State.leaseHigh, this, decide_false, Bool.false_and, Bool.false_eq_true, if_false]

/-- A request within one line, to a line that is held and not poisoned, whose leases stay below the mark of LEASEHI. -/
theorem State.applyAt_held {s : State} {k : Nat} {r : Req} {l : Line} (held : (s.slice k).lines.find (r.addr / 64) = some l)
    (clean : l.poison = false) (narrow : r.op ≠ .loadV ∧ r.op ≠ .storeV)
    (low : max (r.leases l (r.apply l).2.2).1 (r.leases l (r.apply l).2.2).2 ≤ 2 ^ 47) :
    s.applyAt k r =
      (s.setLine k (r.addr / 64) { (r.apply l).1 with
        wts := (r.leases l (r.apply l).2.2).1, rts := (r.leases l (r.apply l).2.2).2 }).sendReply k
        ⟨r, none, (r.apply l).2.1, (r.apply l).2.2, (r.leases l (r.apply l).2.2).1, (r.leases l (r.apply l).2.2).2, false,
          if r.op == .load then s.lineBytes k (r.addr / 64) else (r.apply l).2.1⟩ := by
  have below : ¬ leaseMax < max (r.leases l (r.apply l).2.2).1 (r.leases l (r.apply l).2.2).2 := by
    unfold leaseMax
    omega
  have vec : (r.op == .loadV || r.op == .storeV) = false := by simp [narrow]
  unfold Req.leases at *
  simp only [State.applyAt, State.applyReq, State.makeRoom_of_hasWay (Slice.hasWay_of_find held), State.lineAt_of_find held, clean, vec,
    below, State.leaseHigh_of_le _ low, Bool.false_and, Bool.false_eq_true, if_false]

/-- A request that does not write a poisoned line whole is answered with POISON (02 R30). -/
theorem State.applyAt_poisoned {s : State} {k : Nat} {r : Req} {l : Line} (held : (s.slice k).lines.find (r.addr / 64) = some l)
    (poisoned : l.poison = true) (part : r.wholeLine = false) : s.applyAt k r = s.answerError k r .poison := by
  simp [State.applyAt, State.applyReq, State.makeRoom_of_hasWay (Slice.hasWay_of_find held), State.lineAt_of_find held, poisoned, part]

/-! ## A load that misses -/

/-- A load reads every sector that it touches, and a line just allocated holds none of them. -/
theorem Req.needs_freshLine {r : Req} (load : r.op = .load) (evts : Nat) (poison : Bool) :
    r.needs (freshLine evts poison) = sectorsOf (r.addr % 64) r.n := by
  have invalid : ∀ i, (freshLine evts poison).sector i = .invalid := fun i => by
    rcases i with _ | _ | _ | _ | i <;> rfl
  simp [Req.needs, Req.reads, Req.sectors, Req.span, load, invalid]

theorem sectorsOf_ne_nil {o n : Nat} (pos : 0 < n) (within : o + n ≤ 64) : sectorsOf o n ≠ [] := by
  have : o / 16 ∈ sectorsOf o n := by
    simp only [sectorsOf, List.mem_filter, List.mem_range, Bool.and_eq_true, decide_eq_true_eq]
    omega
  exact List.ne_nil_of_mem this

/-! ## SLICE_ACCESS -/

/-- Another class has the turn. -/
theorem execSliceAccess_not_turn {s : State} {k cls : Nat} (victim : Nat) (sram : SoftError) (other : s.nextClass k ≠ some cls) :
    execSliceAccess k cls victim sram s = .next s := by
  unfold execSliceAccess
  split
  · next c _ turn _ =>
    have : c ≠ cls := fun e => other (e ▸ turn)
    simp [this]
  · rfl

section
variable {s : State} {k cls : Nat} {r : Req} {rest : List Req} (head : (s.slice k).queues.toList.getD (cls - 1) [] = r :: rest)
include head

theorem Slice.head_of_queue : (s.slice k).head cls = some r := by
  simp only [Slice.head, head, List.head?_cons]

/-- Dropping the head of the queue leaves its rest. -/
theorem popped_of_queue : (({ s with refresh := s.refresh.filter (· != k / 32) } : State).onSlice k fun c =>
    { c with queues := c.queues.set! (cls - 1) ((c.queues.toList.getD (cls - 1) []).drop 1), turn := cls % 5 }) =
    popped s k cls rest := by
  refine State.onSlice_congr _ ?_
  change { s.slice k with
    queues := (s.slice k).queues.set! (cls - 1) (((s.slice k).queues.toList.getD (cls - 1) []).drop 1), turn := cls % 5 } = _
  rw [head]
  rfl

variable (victim : Nat) (sram : SoftError) (turn : s.nextClass k = some cls)
include turn

/-- An access that Table 2-4 refuses leaves its queue and is answered with the code. -/
theorem execSliceAccess_refused {e : ErrCode} (err : s.accessError r.job r.addr r.n r.op.writes = some e) :
    execSliceAccess k cls victim sram s = .next ((popped s k cls rest).answerError k r e) := by
  simp only [execSliceAccess, turn, Slice.head_of_queue head, popped_of_queue head, bne_self_eq_false, Bool.false_eq_true, if_false,
    State.accessError_refresh, err]

/-- An access to executive space acts there. -/
theorem execSliceAccess_executive (ok : s.accessError r.job r.addr r.n r.op.writes = none) (executive : inExec r.addr = true) :
    execSliceAccess k cls victim sram s =
      .next (((popped s k cls rest).accessExec r).1.sendReply k ((popped s k cls rest).accessExec r).2) := by
  simp only [execSliceAccess, turn, Slice.head_of_queue head, popped_of_queue head, bne_self_eq_false, Bool.false_eq_true, if_false,
    State.accessError_refresh, ok, executive, if_true]

/-- An access to device memory or view space is taken at its line, where its set has a way for it. -/
theorem execSliceAccess_taken {t : State} (ok : s.accessError r.job r.addr r.n r.op.writes = none) (fabric : inExec r.addr = false)
    (captured : r.op.writes = true → s.captureNeeded r.addr r.n = none)
    (way : (s.slice k).hasWay (r.addr / 64) = true) (taken : (popped s k cls rest).takeAt k r = some t) :
    execSliceAccess k cls victim .clean s = .next t := by
  have free : (if r.op.writes = true then s.captureNeeded r.addr r.n else none) = none := by
    split
    · exact captured ‹_›
    · rfl
  have way' : ((popped s k cls rest).slice k).hasWay (r.addr / 64) = true := by rw [slice_popped]; exact way
  simp only [execSliceAccess, turn, Slice.head_of_queue head, popped_of_queue head, bne_self_eq_false, Bool.false_eq_true, if_false,
    State.accessError_refresh, ok, fabric, State.captureNeeded_refresh, free, State.strikeLine_clean, State.evictFor_of_hasWay victim way',
    taken]

end

end Sys2Proof.Machine
end

section
/-! A slice refuses, answers or holds an access (02 R26; 04 R54 to R56, R59). -/

namespace Sys2Proof.Machine

open Claim (popped)

/-- Settles O37: each way that the head of a queue can go, by what execSliceAccess does when its class has the turn. -/
theorem sliceAnswersAccesses : Obligations.SliceAnswersAccesses := by
  intro s k cls victim sram r rest _ _ head
  have lines_popped : ((popped s k cls rest).slice k).lines = (s.slice k).lines := by rw [slice_popped]
  have fills_popped : ((popped s k cls rest).slice k).fills = (s.slice k).fills := by rw [slice_popped]
  refine ⟨execSliceAccess_not_turn victim sram, fun turn => ⟨fun e => execSliceAccess_refused head victim sram turn,
    execSliceAccess_executive head victim sram turn, fun quiet => ?_⟩⟩
  have quiet' : ((popped s k cls rest).slice k).pending (r.addr / 64) r.sectors = none := by rw [slice_popped]; exact quiet
  refine ⟨fun l plain ⟨notLoadV, notStoreV, _⟩ held clean sound valid low => ?held, fun l plain held poisoned sound part => ?poisoned,
    fun plain _ held load pos within clean way fresh room => ?missed⟩ <;> obtain ⟨ok, fabric, captured⟩ := plain
  case held =>
    have held' := lines_popped ▸ held
    have applies := State.takeAt_applies quiet' (State.checkLine_sound _ held' sound)
      (.inl (by rw [State.lineAt_of_find held']; exact valid))
    exact (execSliceAccess_taken head victim turn ok fabric captured (Slice.hasWay_of_find held) applies).trans
      (congrArg _ (State.applyAt_held held' clean ⟨notLoadV, notStoreV⟩ low))
  case poisoned =>
    have held' := lines_popped ▸ held
    have applies := State.takeAt_applies quiet' (State.checkLine_sound _ held' sound)
      (.inr (by rw [State.lineAt_of_find held']; exact ⟨poisoned, part⟩))
    exact (execSliceAccess_taken head victim turn ok fabric captured (Slice.hasWay_of_find held) applies).trans
      (congrArg _ (State.applyAt_poisoned held' poisoned part))
  case missed =>
    have absent := lines_popped ▸ held
    have new := State.lineAt_of_not_held absent
    have need := Req.needs_freshLine load ((popped s k cls rest).slice k).evts ((popped s k cls rest).poison.contains (r.addr / 64))
    have waits := State.takeAt_misses quiet' (State.checkLine_not_held _ absent)
      (by rw [new, need]; exact sectorsOf_ne_nil pos within) (by rw [new]; exact clean)
      (Slice.miss_opens _ (fills_popped ▸ fresh) (fills_popped ▸ room))
    rw [new, need] at waits
    exact (execSliceAccess_taken head victim turn ok fabric captured way waits).trans (congrArg _ (State.onSlice_congr _ rfl))

end Sys2Proof.Machine
end

section
/-! The executive's tables, maintenance, windows and registers (02 R22 to R28; 04 R58, R62 to R69; 24 R378). -/

namespace Sys2Proof.Machine

/-! ## Maps whose keys rise -/

theorem Map.find_below {α : Type} {m : Map α} {p : Nat} (h : ∀ e ∈ m, p < e.1) : Map.find m p = none := by
  cases m with
  | nil => rfl
  | cons e m =>
    have := h e (by simp)
    simp only [Map.find]
    rw [if_neg (by omega), if_pos this]

theorem Map.find_drop_self {α : Type} {m : Map α} (sorted : m.Pairwise fun a b => a.1 < b.1) (i : Nat) :
    Map.find (Map.drop m i) i = none := by
  induction m with
  | nil => rfl
  | cons e m ih =>
    obtain ⟨above, rest⟩ := List.pairwise_cons.mp sorted
    by_cases hi : e.1 = i
    · subst hi
      simpa [Map.drop] using Map.find_below above
    · simp [Map.drop, hi, Map.find, ih rest]

theorem Map.find_drop_ne {α : Type} {m : Map α} (sorted : m.Pairwise fun a b => a.1 < b.1) {i p : Nat} (h : p ≠ i) :
    Map.find (Map.drop m i) p = Map.find m p := by
  induction m with
  | nil => rfl
  | cons e m ih =>
    obtain ⟨above, rest⟩ := List.pairwise_cons.mp sorted
    by_cases hi : e.1 = i
    · simp only [Map.drop, hi, if_true, Map.find, if_neg h.symm]
      split
      · exact Map.find_below fun e' he' => by have := above e' he'; omega
      · rfl
    · simp [Map.drop, hi, Map.find, ih rest]

theorem Map.find_mapVals {α : Type} (g : Nat → α → α) (m : Map α) (i : Nat) :
    Map.find (Map.mapVals g m) i = (Map.find m i).map (g i) := by
  induction m with
  | nil => rfl
  | cons e m ih =>
    simp only [Map.mapVals, List.map_cons, Map.find] at ih ⊢
    split
    · next h => rw [h]; rfl
    · split
      · rfl
      · exact ih

/-! ## The address-range table (02 R22, R23) -/

theorem ArtEntry.control_enable_off {e : ArtEntry} (art : Map ArtEntry) (k : Nat) (stride : BitVec 5) (off : e.en = false) :
    e.control art k true stride = { e with
      stride := stride, en := artFail art k { e with stride := stride } == 0,
      fail := BitVec.ofNat 2 (artFail art k { e with stride := stride }) } := by
  simp [ArtEntry.control, off]

/-- An enabled entry keeps its fields. -/
theorem ArtEntry.control_enable_on {e : ArtEntry} (art : Map ArtEntry) (k : Nat) (stride : BitVec 5) (on : e.en = true) :
    e.control art k true stride = e := by
  obtain ⟨_, _, _, _, _, _⟩ := e
  obtain rfl := on
  rfl

theorem execArtEntryEnable_eq (s : State) {k : Nat} (stride : BitVec 5) (lt : k < 64) :
    execArtEntryEnable k stride s = .next { s with art := s.art.set k ((s.artAt k).control s.art k true stride) } := by
  simp [execArtEntryEnable, Nat.not_le.mpr lt]

theorem execArtEntryDisable_eq (s : State) {k : Nat} (lt : k < 64) :
    execArtEntryDisable k s = .next { s with art := s.art.set k { s.artAt k with en := false } } := by
  simp [execArtEntryDisable, Nat.not_le.mpr lt]

/-- Of three checks in order, the code of the first that fails is 0 when none does. -/
theorem firstCode_eq_zero_iff (a b c : Bool) :
    (if a then 1 else if b then 2 else if c then 3 else 0) = 0 ↔ a = false ∧ b = false ∧ c = false := by
  cases a <;> cases b <;> cases c <;> decide

/-- An attempt is accepted when none of the three failures of 02 R22 holds. -/
theorem artFail_eq_zero_iff (art : Map ArtEntry) (k : Nat) (e : ArtEntry) : artFail art k e = 0 ↔
    6 ≤ e.stride.toNat ∧ e.stride.toNat ≤ 21 ∧ e.base.toNat ≤ e.limit.toNat ∧
    (∀ o ∈ art, o.1 ≠ k → o.2.en = true → o.2.limit.toNat < e.base.toNat ∨ e.limit.toNat < o.2.base.toNat) ∧
    e.mask ≠ 0 ∧ (e.limit.toNat < 2 ^ 34 ∨ 2 ^ 39 ≤ e.base.toNat) ∧
    (e.limit.toNat < 2 ^ 34 → e.mask = BitVec.allOnes 64 ∧ e.base.toNat * 64 % (512 * 2 ^ e.stride.toNat) = 0 ∧
      (e.limit.toNat + 1) * 64 % (512 * 2 ^ e.stride.toNat) = 0) := by
  have one : (decide (e.stride.toNat < 6) || decide (21 < e.stride.toNat) || decide (e.limit.toNat < e.base.toNat)) = false ↔
      6 ≤ e.stride.toNat ∧ e.stride.toNat ≤ 21 ∧ e.base.toNat ≤ e.limit.toNat := by
    simp [and_assoc]
  have two : (art.any fun x => x.1 != k && x.2.en && x.2.meets e) = false ↔
      ∀ o ∈ art, o.1 ≠ k → o.2.en = true → o.2.limit.toNat < e.base.toNat ∨ e.limit.toNat < o.2.base.toNat := by
    simp only [List.any_eq_false, ArtEntry.meets, Bool.and_eq_true, bne_iff_ne, decide_eq_true_eq, not_and, Nat.not_le, and_imp]
    refine forall₂_congr fun o _ => forall₂_congr fun _ _ => ?_
    omega
  have three : (e.mask == 0 || !(e.inDevice || e.inView) || (e.inDevice && (e.mask != BitVec.allOnes 64 ||
      e.base.toNat * 64 % (512 * 2 ^ e.stride.toNat) != 0 || (e.limit.toNat + 1) * 64 % (512 * 2 ^ e.stride.toNat) != 0))) = false ↔
      e.mask ≠ 0 ∧ (e.limit.toNat < 2 ^ 34 ∨ 2 ^ 39 ≤ e.base.toNat) ∧ (e.limit.toNat < 2 ^ 34 → e.mask = BitVec.allOnes 64 ∧
        e.base.toNat * 64 % (512 * 2 ^ e.stride.toNat) = 0 ∧ (e.limit.toNat + 1) * 64 % (512 * 2 ^ e.stride.toNat) = 0) := by
    simp only [ArtEntry.inDevice, ArtEntry.inView, Bool.or_eq_false_iff, Bool.and_eq_false_imp, bne_eq_false_iff_eq, Bool.not_eq_false',
      Bool.or_eq_true, decide_eq_true_eq, beq_eq_false_iff_ne, ne_eq, and_assoc]
  refine (firstCode_eq_zero_iff _ _ _).trans ?_
  rw [one, two, three]
  simp only [and_assoc]

/-! ## Owner tags and the error log (02 R25, R27, R28) -/

/-- The tag of one page changes, and no other: tag 0 is that of an unlisted page. -/
theorem State.get_owner_ownerWrite {s : State} (sorted : s.owner.Pairwise fun a b => a.1 < b.1) (page : Nat) (tag : BitVec 16) (p : Nat) :
    Map.get 0 (s.ownerWrite page tag).owner p = if p = page then tag else Map.get 0 s.owner p := by
  unfold State.ownerWrite
  by_cases zero : tag = 0#16
  · subst zero
    by_cases hp : p = page
    · subst hp
      simp [Map.get, Map.find_drop_self sorted]
    · simp [hp, Map.get, Map.find_drop_ne sorted hp]
  · by_cases hp : p = page
    · subst hp
      simp [zero]
    · simp [zero, hp, Map.get_set_ne _ _ _ hp]

theorem execOwnerTagWrite_eq (s : State) {page : Nat} (tag : BitVec 16) (lt : page < 2 ^ 24) :
    execOwnerTagWrite page tag s = .next (s.ownerWrite page tag) := by
  rw [execOwnerTagWrite, if_neg (Nat.not_le.mpr lt)]

theorem execErrorLogFree_eq (s : State) {n i : Nat} (hn : n < 512) (hi : i < 16) :
    execErrorLogFree n i s = .next (s.logWrite n i false) := by
  rw [execErrorLogFree, if_neg (by omega)]

theorem execLostClear_eq (s : State) {n : Nat} (hn : n < 512) : execLostClear n s = .next (s.lostClear n) := by
  rw [execLostClear, if_neg (by omega)]

/-! ## Maintenance commands (04 R58, R62) -/

theorem Line.valid_iff (l : Line) : l.valid = true ↔ ∃ j, j < 4 ∧ l.sector j ≠ .invalid := by
  simp only [Line.valid, List.any_eq_true, bne_iff_ne, List.mem_iff_getElem]
  constructor
  · rintro ⟨_, ⟨j, hj, rfl⟩, ne⟩
    have lt : j < 4 := by simpa using hj
    exact ⟨j, lt, by simpa [Line.sector, lt] using ne⟩
  · rintro ⟨j, lt, ne⟩
    exact ⟨_, ⟨j, by simpa using lt, rfl⟩, by simpa [Line.sector, lt] using ne⟩

/-- Some slice holds a line with a valid sector. -/
theorem State.anyLine_iff (s : State) :
    s.anyLine = true ↔ ∃ c ∈ s.slices, ∃ l ∈ c.2.lines, ∃ j, j < 4 ∧ l.2.sector j ≠ .invalid := by
  simp only [State.anyLine, List.any_eq_true, Line.valid_iff]

theorem State.maintStart_busy {s : State} (mop : Nat) (busy : s.maint.busy = true) : s.maintStart mop = s := by
  simp [State.maintStart, busy]

theorem State.maintStart_starts {s : State} {mop : Nat} (pos : 0 < mop) (le : mop ≤ 4) (free : mop = 4 → s.anyLine = false)
    (idle : s.maint.busy = false) :
    s.maintStart mop = { s with maint := { s.maint with mop := BitVec.ofNat 3 mop, err := false, busy := true } } := by
  have ok : ¬ (4 < mop ∨ mop = 4 ∧ s.anyLine = true) := by
    rintro (h | ⟨h, any⟩)
    · omega
    · simp [free h] at any
  simp [State.maintStart, idle, Nat.ne_of_gt pos, ok]

/-- REBASE is refused over valid lines. -/
theorem State.maintStart_rebase_refused {s : State} (held : s.anyLine = true) (idle : s.maint.busy = false) :
    s.maintStart 4 = { s with maint := { s.maint with mop := 4, err := true } } := by
  simp [State.maintStart, idle, held]

/-- A step that writes a command to MCTL starts it where none runs, and else does nothing. -/
theorem exec_starts_command {s : State} {i : Instr} {mop : Nat} (meaning : exec i s = .next (s.maintStart mop)) (pos : 0 < mop)
    (le : mop ≤ 4) (free : mop = 4 → s.anyLine = false) :
    (s.maint.busy = false →
      exec i s = .next { s with maint := { s.maint with mop := BitVec.ofNat 3 mop, err := false, busy := true } }) ∧
    (s.maint.busy = true → exec i s = .next s) :=
  ⟨fun idle => by rw [meaning, State.maintStart_starts pos le free idle], fun busy => by rw [meaning, State.maintStart_busy mop busy]⟩

/-- After a rebase every slice has EVTS 0 and holds no line. -/
theorem State.slice_rebase (s : State) (k : Nat) : (s.rebase.slice k).evts = 0 ∧ (s.rebase.slice k).lines = [] := by
  simp only [State.rebase, State.slice, Map.get, Map.find_mapVals]
  cases Map.find s.slices k <;> exact ⟨rfl, rfl⟩

theorem execMaintenanceDone_busy {s : State} (busy : s.maint.busy = true) :
    execMaintenanceDone s = .next { s.maintApply with maint := { s.maintApply.maint with busy := false } } := by
  simp only [execMaintenanceDone, busy, if_true]

theorem execMaintenanceDone_idle {s : State} (idle : s.maint.busy = false) : execMaintenanceDone s = .next s := by
  simp [execMaintenanceDone, idle]

theorem State.maintApply_rebase {s : State} (op : s.maint.mop = 4) :
    s.maintApply = if s.anyLine then { s with maint := { s.maint with err := true } } else s.rebase := by
  simp [State.maintApply, op]

/-! ## What a write-back can change -/

/-- Two states that agree on everything but what the slices and the stacks hold: memory, its poison and errors, the lines of the
slices, and the signals of their logs. -/
def SameBeyondSlices (s t : State) : Prop :=
  ∃ mem poison hbmErr signals slices,
    t = { s with mem := mem, poison := poison, hbmErr := hbmErr, signals := signals, slices := slices }

theorem SameBeyondSlices.refl (s : State) : SameBeyondSlices s s := ⟨_, _, _, _, _, rfl⟩

theorem SameBeyondSlices.trans {s t u : State} (h : SameBeyondSlices s t) (g : SameBeyondSlices t u) : SameBeyondSlices s u := by
  obtain ⟨_, _, _, _, _, rfl⟩ := h
  obtain ⟨_, _, _, _, _, rfl⟩ := g
  exact ⟨_, _, _, _, _, rfl⟩

theorem SameBeyondSlices.foldl {α : Type} {f : State → α → State} (step : ∀ s a, SameBeyondSlices s (f s a)) (as : List α)
    (s : State) : SameBeyondSlices s (as.foldl f s) := by
  induction as generalizing s with
  | nil => exact .refl s
  | cons a as ih => exact (step s a).trans (ih _)

theorem sameBeyondSlices_onSlice (s : State) (k : Nat) (g : Slice → Slice) : SameBeyondSlices s (s.onSlice k g) :=
  ⟨_, _, _, _, _, rfl⟩

theorem sameBeyondSlices_storeByte (s : State) (a : Nat) (b : Byte) : SameBeyondSlices s (s.storeByte a b) := by
  simp only [State.storeByte]
  split
  · split <;> exact ⟨_, _, _, _, _, rfl⟩
  · exact ⟨_, _, _, _, _, rfl⟩

theorem sameBeyondSlices_storeBytes (s : State) (a : Nat) (bs : List Byte) : SameBeyondSlices s (s.storeBytes a bs) := by
  induction bs generalizing s a with
  | nil => exact .refl s
  | cons b bs ih => exact (sameBeyondSlices_storeByte s a b).trans (ih _ _)

theorem sameBeyondSlices_poisonLine (s : State) (line : Nat) : SameBeyondSlices s (s.poisonLine line) := ⟨_, _, _, _, _, rfl⟩

theorem sameBeyondSlices_logError (s : State) (k : Nat) (e : ErrEntry) : SameBeyondSlices s (s.logError k e) := by
  unfold State.logError
  split <;> exact ⟨_, _, _, _, _, rfl⟩

theorem sameBeyondSlices_writeSector (line : Nat) (l : Line) (s : State) (i : Nat) : SameBeyondSlices s (State.writeSector line l s i) := by
  simp only [State.writeSector]
  split
  · exact sameBeyondSlices_storeBytes _ _ _
  · split
    · exact .refl s
    · exact ⟨_, _, _, _, _, rfl⟩

theorem sameBeyondSlices_poisonSector (line : Nat) (s : State) (i : Nat) : SameBeyondSlices s (State.poisonSector line s i) := by
  simp only [State.poisonSector]
  split
  · exact (sameBeyondSlices_poisonLine _ _).trans (sameBeyondSlices_poisonLine _ _)
  · split
    · exact .refl s
    · exact sameBeyondSlices_poisonLine _ _

theorem sameBeyondSlices_writeBackSectors (s : State) (k line : Nat) (l : Line) : SameBeyondSlices s (s.writeBackSectors k line l) := by
  have written := (sameBeyondSlices_onSlice s k (·.countSram (l.corrected (4 :: l.dirtySectors)))).trans
    (.foldl (sameBeyondSlices_writeSector line l) (l.dirtySectors.filter fun i => !l.lostSectors.contains i) _)
  simp only [State.writeBackSectors]
  split
  · exact written
  · exact written.trans ((SameBeyondSlices.foldl (sameBeyondSlices_poisonSector line) l.lostSectors _).trans
      (sameBeyondSlices_logError _ _ _))

theorem sameBeyondSlices_evictLine (s : State) (k line : Nat) : SameBeyondSlices s (s.evictLine k line) := by
  unfold State.evictLine
  split
  · exact .refl s
  · next l _ =>
    refine (sameBeyondSlices_writeBackSectors s k line l).trans (.trans ?_ (sameBeyondSlices_onSlice _ k _))
    split
    · exact ⟨_, _, _, _, _, rfl⟩
    · exact .refl _

theorem sameBeyondSlices_flushSlice (s : State) (k : Nat) (q : Nat → Bool) : SameBeyondSlices s (s.flushSlice k q) :=
  .foldl (fun s l => sameBeyondSlices_evictLine s k l) _ s

/-! ## Format windows (04 R63, R64, R69) -/

/-- A field below one that is replaced stays. -/
theorem bits_insertBits_below {w : Nat} (v : BitVec w) {lo n x hi lo' : Nat} (h : hi < lo) :
    bits (insertBits v lo n x) hi lo' = bits v hi lo' := by
  refine congrArg BitVec.toNat (BitVec.eq_of_getLsbD_eq fun j hj => ?_)
  simp only [BitVec.getLsbD_extractLsb', getLsbD_insertBits]
  rw [if_neg (by omega)]

theorem bitAt_insertBits_below {w : Nat} (v : BitVec w) {lo n x i : Nat} (h : i < lo) :
    bitAt (insertBits v lo n x) i = bitAt v i := by
  simp only [bitAt, getLsbD_insertBits]
  rw [if_neg (by omega)]

theorem setWidth_insertBits_above {w m : Nat} (v : BitVec w) {lo n x : Nat} (h : m ≤ lo) :
    (insertBits v lo n x).setWidth m = v.setWidth m := by
  refine BitVec.eq_of_getLsbD_eq fun j hj => ?_
  simp only [BitVec.getLsbD_setWidth, getLsbD_insertBits]
  rw [if_neg (by omega)]

/-- A word that enables has its highest bit set. -/
theorem bitAt_enable (v : W64) : bitAt (insertBits v 63 1 1) 63 = true := by
  simp [bitAt, getLsbD_insertBits]

/-- A window that takes FMT, SC and SCBASE from its word 3 (04 Table 4-3). -/
def Window.withWord (w : Window) (v : W64) : Window :=
  { w with fmt := BitVec.ofNat 2 (bits v 62 61), sc := bitAt v 60, scbase := v.setWidth 46 }

theorem Window.withWord_enable (w : Window) (v : W64) : w.withWord (insertBits v 63 1 1) = w.withWord v := by
  simp only [Window.withWord]
  rw [bits_insertBits_below v (by omega), bitAt_insertBits_below v (by omega), setWidth_insertBits_above v (by omega)]

/-- An attempt to enable a window that is off stores the word and the outcome of the checks of 04 R64. -/
theorem State.windowControl_enable_off {s : State} {n : Nat} (v : W64) (off : (s.windowK n).en = false) :
    s.windowControl n (insertBits v 63 1 1) = { s with windows := s.windows.set n { (s.windowK n).withWord v with
      en := windowFail s.windows n ((s.windowK n).withWord v) == 0,
      fail := BitVec.ofNat 3 (windowFail s.windows n ((s.windowK n).withWord v)) } } := by
  rw [← Window.withWord_enable]
  simp only [State.windowControl, off, bitAt_enable, Bool.false_eq_true, if_false, if_true]
  rfl

/-- An enabled window keeps its fields. -/
theorem State.windowControl_enable_on {s : State} {n : Nat} (v : W64) (on : (s.windowK n).en = true) :
    s.windowControl n (insertBits v 63 1 1) = s := by
  simp [State.windowControl, on, bitAt_enable]

/-- Disabling writes the view back first, which changes nothing beyond the slices; the window is off. -/
theorem State.windowControl_disable (s : State) (n : Nat) :
    ∃ t w, SameBeyondSlices s t ∧ w.en = false ∧ s.windowControl n 0 = { t with windows := t.windows.set n w } := by
  have zero : bitAt (0 : W64) 63 = false := by decide
  simp only [State.windowControl, zero, Bool.false_eq_true, if_false]
  split
  · exact ⟨_, _, .foldl (fun s k => sameBeyondSlices_flushSlice s k _) s.slices.keys s, rfl, rfl⟩
  · next off => exact ⟨s, _, .refl s, by simpa using off, rfl⟩

theorem execFormatWindowEnable_eq (s : State) {n : Nat} (v : W64) (lt : n < 32) :
    execFormatWindowEnable n v s = .next (s.windowControl n (insertBits v 63 1 1)) := by
  rw [execFormatWindowEnable, if_neg (Nat.not_le.mpr lt)]

theorem execFormatWindowDisable_eq (s : State) {n : Nat} (lt : n < 32) :
    execFormatWindowDisable n s = .next (s.windowControl n 0) := by
  rw [execFormatWindowDisable, if_neg (Nat.not_le.mpr lt)]

/-! ## Registers (24 R378) -/

theorem State.setXroot_masked (s : State) (job : Nat) (v : W64) : s.setXroot job (v &&& xrootMask) = s.setXroot job v := by
  simp only [State.setXroot, BitVec.and_assoc, BitVec.and_self]

/-- The entry that the log takes for a word that the executive may not write (02 R26, R28). -/
def refusedWord (a : Nat) (e : ErrCode) : ErrEntry :=
  ({ Req.blank with addr := a, n := 8, op := .store, job := execTag, cls := 5 } : Req).entry e

theorem execRegisterWrite_refused {s : State} {a : Nat} {e : ErrCode} (v : W64) (err : s.accessError execTag a 8 true = some e) :
    execRegisterWrite (.phys a) v s = .next (s.logError (s.homeOf a) (refusedWord a e)) := by
  simp only [execRegisterWrite, err]
  rfl

theorem execRegisterWrite_executive {s : State} {a : Nat} (v : W64) (ok : s.accessError execTag a 8 true = none) (aligned : a % 8 = 0)
    (fabric : inExec a = true) : execRegisterWrite (.phys a) v s = .next (s.execWord a v) := by
  simp [execRegisterWrite, ok, aligned, fabric]

end Sys2Proof.Machine
end

section
/-! What the executive changes takes effect (02 R22 to R28; 04 R58, R62 to R69; 24 R378). -/

namespace Sys2Proof.Machine

/-- The address-range table, the owner tags and the error log (02 R22 to R28). -/
theorem executiveTablesChangeAsWritten : Claim.ExecutiveTablesChangeAsWritten := by
  intro s k n i stride tag
  refine ⟨fun lt => ⟨fun off => ?_, fun on => ?_, execArtEntryDisable_eq s lt⟩, artFail_eq_zero_iff s.art k _, fun lt => ?_,
    execErrorLogFree_eq s, execLostClear_eq s⟩
  · exact (execArtEntryEnable_eq s stride lt).trans (by rw [ArtEntry.control_enable_off _ _ _ off])
  · exact (execArtEntryEnable_eq s stride lt).trans (by rw [ArtEntry.control_enable_on _ _ _ on])
  · exact ⟨_, execOwnerTagWrite_eq s tag lt, ⟨_, rfl⟩, fun sorted => State.get_owner_ownerWrite sorted n tag⟩

/-- The maintenance commands, from what a write to MCTL starts and from what the rebase leaves (04 R58, R62). -/
theorem maintenanceCommandsStartAndEnd : Claim.MaintenanceCommandsStartAndEnd := by
  intro s
  simp only [← State.anyLine_iff]
  refine ⟨exec_starts_command (mop := 1) rfl (by decide) (by decide) (by omega),
    exec_starts_command (mop := 2) rfl (by decide) (by decide) (by omega),
    exec_starts_command (mop := 3) rfl (by decide) (by decide) (by omega),
    fun none_held => exec_starts_command (mop := 4) rfl (by decide) (by decide) fun _ => by simpa using none_held,
    fun held idle => congrArg _ (State.maintStart_rebase_refused held idle),
    fun busy => ⟨_, execMaintenanceDone_busy busy, rfl, fun op none_held => ?_, fun op held => ?_⟩, execMaintenanceDone_idle⟩
  · rw [State.maintApply_rebase op, if_neg none_held]
    exact ⟨rfl, rfl, s.slice_rebase⟩
  · rw [State.maintApply_rebase op, if_pos held]
    exact ⟨rfl, rfl, rfl⟩

/-- Format windows and registers: a write-back changes nothing beyond the slices, so disabling keeps regions and PEs (04 R69). -/
theorem windowsAndRegisterWrites : Claim.WindowsAndRegisterWrites := by
  intro s n r k v
  refine ⟨fun lt off => ⟨_, execFormatWindowEnable_eq s v lt, State.windowControl_enable_off v off⟩,
    fun lt on => (execFormatWindowEnable_eq s v lt).trans (congrArg _ (State.windowControl_enable_on v on)), fun lt => ?_, rfl,
    congrArg _ (State.setXroot_masked s _ v).symm, fun e err => ?_, fun ok aligned fabric => ?_, rfl, rfl, rfl⟩
  · obtain ⟨t, w, same, off, eq⟩ := s.windowControl_disable n
    obtain ⟨_, _, _, _, _, rfl⟩ := same
    refine ⟨_, (execFormatWindowDisable_eq s lt).trans (congrArg _ eq), ?_, rfl, rfl⟩
    simpa [State.windowK] using off
  · obtain ⟨_, _, _, _, _, same⟩ := sameBeyondSlices_logError s (s.homeOf k) (refusedWord k e)
    exact ⟨_, execRegisterWrite_refused v err, State.logError_mem _ _ _, by rw [same], by rw [same], by rw [same], by rw [same],
      by rw [same]⟩
  · exact execRegisterWrite_executive v ok aligned fabric

/-- Settles O39: the tables, the maintenance commands, and the windows and registers, each from the rule of its step. -/
theorem executiveChangesTakeEffect : Obligations.ExecutiveChangesTakeEffect :=
  ⟨executiveTablesChangeAsWritten, maintenanceCommandsStartAndEnd, windowsAndRegisterWrites⟩

end Sys2Proof.Machine
end

section
/-! What an access does at its line (04 R56 and Table 4-1; 11 R184 and Table 11-4). -/

namespace Sys2Proof.Machine

/-! ## Writing bytes into a line -/

/-- A change of the states of sectors leaves every byte of the line. -/
theorem Line.get_foldl_setSector (x : Sector) (secs : List Nat) (l : Line) (o n : Nat) :
    (secs.foldl (fun l i => l.setSector i x) l).get o n = l.get o n := by
  induction secs generalizing l with
  | nil => rfl
  | cons i secs ih => exact (ih _).trans (l.get_setSector i x o n)

theorem Line.get_write_self (l : Line) {o n : Nat} (v : Nat) (h : o + n ≤ 64) : (l.write o n v).get o n = v % 2 ^ (8 * n) :=
  (Line.get_foldl_setSector _ _ _ _ _).trans (l.get_put_self v h)

theorem Line.get_write_disjoint (l : Line) {o n p m : Nat} (v : Nat) (h : p + m ≤ o ∨ o + n ≤ p) :
    (l.write o n v).get p m = l.get p m :=
  (Line.get_foldl_setSector _ _ _ _ _).trans (l.get_put_disjoint v h)

/-- The low bytes of a value, written, read back as they are. -/
theorem Line.get_write_lowBytes (l : Line) {o n : Nat} (v : W512) (h : o + n ≤ 64) :
    (l.write o n (lowBytes v n)).get o n = lowBytes v n :=
  (l.get_write_self _ h).trans (Nat.mod_mod _ _)

/-! ## What each kind of request does at its line -/

section
variable {r : Req}

theorem Req.apply_load (l : Line) (h : r.op = .load) :
    r.apply l = (l, BitVec.ofNat 512 (l.get (r.addr % 64) r.n), false) := by
  simp only [Req.apply, h]

theorem Req.apply_store (l : Line) (h : r.op = .store) :
    r.apply l = (l.write (r.addr % 64) r.n (lowBytes r.data r.n), 0, true) := by
  simp only [Req.apply, h]

theorem Req.apply_atom {sub : AtomSub} (l : Line) (h : r.op = .atom sub) :
    r.apply l = (l.write (r.addr % 64) r.n (atomNew sub r.n (l.get (r.addr % 64) r.n) (lowBytes r.data r.n)),
      BitVec.ofNat 512 (l.get (r.addr % 64) r.n), true) := by
  simp only [Req.apply, h]

/-- CAS writes its second operand where the line holds the first. -/
theorem Req.apply_cas_equal {l : Line} (h : r.op = .cas) (eq : l.get (r.addr % 64) r.n = lowBytes r.data r.n) :
    r.apply l = (l.write (r.addr % 64) r.n (lowBytes r.data2 r.n), BitVec.ofNat 512 (l.get (r.addr % 64) r.n), true) := by
  simp only [Req.apply, h, if_pos eq]

/-- CAS that finds another value reads as a load does. -/
theorem Req.apply_cas_unequal {l : Line} (h : r.op = .cas) (ne : l.get (r.addr % 64) r.n ≠ lowBytes r.data r.n) :
    r.apply l = (l, BitVec.ofNat 512 (l.get (r.addr % 64) r.n), false) := by
  simp only [Req.apply, h, if_neg ne]

end

/-- Settles O21: each request writes its bytes, or none, and returns what they held; what a write leaves is that of Line.write. -/
theorem atomicsReturnTheOldValue : Obligations.AtomicsReturnTheOldValue := by
  intro r l sub within _ o byte same cut
  have same_write (v : Nat) : same (l.write o r.n v) := fun k _ outside =>
    l.get_write_disjoint v (outside.imp_left Nat.succ_le_of_lt)
  refine ⟨Req.apply_load l, fun store => ?_, fun atom => ?_, fun cas equal => ?_, Req.apply_cas_unequal, fun _ _ => ⟨rfl, rfl⟩⟩
  · rw [Req.apply_store l store]
    exact ⟨l.get_write_lowBytes r.data within, same_write _, rfl⟩
  · rw [Req.apply_atom l atom]
    exact ⟨l.get_write_self _ within, same_write _, rfl, rfl⟩
  · rw [Req.apply_cas_equal cas equal]
    exact ⟨l.get_write_lowBytes r.data2 within, same_write _, rfl, rfl⟩

end Sys2Proof.Machine
end

section
/-! Tokens on circuits, in mailboxes and at ports (04 R61; 08 R115, R119, R120, R126; 17 R271; 20 R302; 24 R355, R362). -/

namespace Sys2Proof.Machine

/-! ## Boxes and output queues (08 R119, R120) -/

section
variable {s : State} {k tag : Nat} {t : Token} {ts : List Token}

theorem State.hopBox_empty (box : Map.get [] (s.pe k).boxes tag = []) : s.hopBox k tag = none := by
  simp only [State.hopBox, box]

theorem State.hopBox_moves (box : Map.get [] (s.pe k).boxes tag = t :: ts)
    (room : ∀ b ∈ s.branches k tag, s.branchRoom k tag t b = true) :
    s.hopBox k tag = some ((s.branches k tag).foldl (State.overBranch k tag t)
      (s.onPe k fun p => { p with boxes := p.boxes.set tag ts })) := by
  simp only [State.hopBox, box, List.all_eq_true.mpr room, if_true]

/-- One branch without room holds the token back from all. -/
theorem State.hopBox_blocked (box : Map.get [] (s.pe k).boxes tag = t :: ts)
    (full : ∃ b ∈ s.branches k tag, s.branchRoom k tag t b = false) : s.hopBox k tag = none := by
  have some_full : (s.branches k tag).all (s.branchRoom k tag t) = false := by simpa [List.all_eq_false] using full
  simp only [State.hopBox, box, some_full, Bool.false_eq_true, if_false]

theorem State.hopOut_empty (outq : Map.get [] (s.pe k).outq tag = []) : s.hopOut k tag = s := by
  simp only [State.hopOut, outq]

theorem State.hopOut_enters (outq : Map.get [] (s.pe k).outq tag = t :: ts) (room : (Map.get [] (s.pe k).boxes tag).length < 2) :
    s.hopOut k tag = (s.onPe k fun p => { p with outq := p.outq.set tag ts }).pushBox k tag t := by
  simp only [State.hopOut, outq, room, if_true]

/-- A tag below 4,096 is that of a circuit: the token in its box goes first, and else one that has left an output port. -/
theorem execTokenHop_circuit (s : State) (k : Nat) (circuit : tag < 4096) :
    execTokenHop k tag s = .next ((s.hopBox k tag).getD (s.hopOut k tag)) := by
  have direct : ¬ tag = controlTag ∧ ¬ tag = threadTag ∧ ¬ tag = dispatchTag ∧ ¬ (4200 ≤ tag ∧ tag < 4264) := by
    unfold controlTag threadTag dispatchTag
    omega
  obtain ⟨control, thread, dispatch, port⟩ := direct
  simp only [execTokenHop, control, thread, dispatch, port, if_false]
  cases s.hopBox k tag <;> rfl

end

/-! ## Mailboxes (04 R61; 08 R126; 24 R361) -/

/-- A mailbox without its oldest token of a queue. -/
def State.popMail (s : State) (n key : Nat) (ts : List Token) : State :=
  s.onSlice n fun c => { c with mailbox := c.mailbox.set key ts, mailErr := c.mailErr.drop key }

section
variable {s : State} {n key : Nat} {t : Token} {ts : List Token} {m : MailEdge}
  (head : Map.get [] (s.slice n).mailbox key = t :: ts)
  (edge : ((s.mailRegion (key / 4096)).mail.find? fun m =>
    (m.slice == n || m.second == some n) && m.tag == key % 4096) = some m)
include head edge

theorem execMailboxForward_held (way : s.mailWay (key / 4096) m t = .held) : execMailboxForward n key s = .next s := by
  simp only [execMailboxForward, head, edge, way]

theorem execMailboxForward_absorbed (way : s.mailWay (key / 4096) m t = .absorbed) :
    execMailboxForward n key s = .next (s.popMail n key ts) := by
  simp only [execMailboxForward, head, edge, way, State.popMail]

variable (way : s.mailWay (key / 4096) m t = .passed) (sound : Map.get .clean (s.slice n).mailErr key = .clean)
include way sound

/-- A mailbox that ends its seam passes the token to the box on the other die, where that has room. -/
theorem execMailboxForward_last (last : m.slice ≠ n ∨ m.second = none) :
    execMailboxForward n key s = .next
      (if (Map.get [] (s.pe m.toPe).boxes m.tag).length < 2 ∧ entryV ((s.pe m.toPe).entry m.tag) = true then
        (s.popMail n key ts).pushBox m.toPe m.tag t else s) := by
  have no_second : (if m.slice = n then m.second else none) = none := by
    rcases last with ne | none_second
    · exact if_neg ne
    · rw [none_second, ite_self]
  simp only [execMailboxForward, head, edge, way, sound, beq_iff_eq, reduceCtorEq, if_false, no_second, Bool.and_eq_true,
    decide_eq_true_eq, State.popMail]
  split <;> rfl

/-- A mailbox on the first of two seams passes the token to the mailbox on the second. -/
theorem execMailboxForward_second {k2 : Nat} (first : m.slice = n) (second : m.second = some k2)
    (room : s.mailBytes k2 key + t.bytes ≤ 128) :
    execMailboxForward n key s = .next ((s.popMail n key ts).pushMail k2 key t) := by
  simp only [execMailboxForward, head, edge, way, sound, beq_iff_eq, reduceCtorEq, if_false, first, second, if_true, mailRoom, room,
    State.popMail]

end

/-! ## Arrivals (08 R115; 17 R271; 20 R302; 24 R355, R362) -/

/-- Changes of an input port that agree on it make the same state. -/
theorem State.onPort_congr (s : State) {k port : Nat} {g h : InPort → InPort} (eq : g ((s.pe k).inport port) = h ((s.pe k).inport port)) :
    s.onPort k port g = s.onPort k port h := by
  unfold Pe.inport State.pe at eq
  simp only [State.onPort, State.onPe, Map.modify, eq]

/-- Where no batch has been taken, a token joins the tail of a port that does not coalesce, and counts its own time. -/
theorem InPort.take_plain {ip : InPort} (due : Option Nat) (t : Token) (cycle : Nat) (counts : ip.counts = []) :
    ip.take false due t cycle = { ip with q := ip.q ++ [t], counts := [] } := by
  simp [InPort.take, InPort.push, counts]

section
variable {s : State} {k port : Nat} {t : Token} (quiet : s.noteSink k port t = s)
include quiet

theorem State.arrive_mark (mark : t.val.kind = .mark) (open_ : (s.pe k).sealed = false) :
    s.arrive k port t = (s.onPort k port fun x => { x with marked := true }, []) := by
  simp [State.arrive, quiet, mark, open_]

variable (token : t.val.kind ≠ .mark)
include token

theorem State.arrive_sealed (closed : (s.pe k).sealed = true) : s.arrive k port t = (s, s.portCount k port t.time (-1)) := by
  simp [State.arrive, quiet, token, closed]

variable (open_ : (s.pe k).sealed = false)
include open_

/-- A token behind the frontier that its port has seen breaks TIMEORDER. -/
theorem State.arrive_late {r : Nat} (located : (s.pe k).active.iloc port ≠ none) (late : t.time < ((s.pe k).inport port).passed)
    (region : (s.pe k).region = some r) :
    s.arrive k port t = (s.unrecoverable r k .timeorder 0 0, s.portCount k port t.time (-1)) := by
  have has_location : ((s.pe k).active.iloc port).isSome = true := Option.isSome_iff_ne_none.mpr located
  simp [State.arrive, quiet, token, open_, has_location, late, region]

theorem State.arrive_taken (timely : (s.pe k).active.iloc port = none ∨ ¬ t.time < ((s.pe k).inport port).passed) :
    s.arrive k port t = (s.onPort k port (·.take ((s.pe k).active.coalesces port)
      ((s.pe k).active.launchCause port ((s.pe k).inport port)) t s.cycle), []) := by
  have in_time : (((s.pe k).active.iloc port).isSome && decide (t.time < ((s.pe k).inport port).passed)) = false := by
    rcases timely with unlocated | not_behind
    · simp [unlocated]
    · simp [not_behind]
  simp only [State.arrive, quiet, beq_iff_eq, token, open_, in_time, Bool.false_eq_true, if_false]

end

end Sys2Proof.Machine
end

section
/-! Tokens advance on their circuits and join the queue of their port (04 R61; 08 R115 to R126; 17 R271; 20 R302; 24 R355, R362). -/

namespace Sys2Proof.Machine

/-- Boxes, output queues and mailboxes, each by what moves its oldest token. -/
theorem tokensAdvanceOnTheirCircuits : Claim.TokensAdvanceOnTheirCircuits := by
  intro s k tag n key t ts circuit p box branches
  have hop : exec (.tokenHop k tag) s = .next ((s.hopBox k tag).getD (s.hopOut k tag)) := execTokenHop_circuit s k circuit
  refine ⟨fun head room => ?moves, fun head out full => ?blocked, fun empty out => ?enters, ?mailbox⟩
  case moves => rw [hop, State.hopBox_moves head room]; rfl
  case blocked =>
    have none_out : Map.get [] (s.pe k).outq tag = [] := by rw [Map.get, out]; rfl
    rw [hop, State.hopBox_blocked head full, Option.getD_none, State.hopOut_empty none_out]
  case enters =>
    have room : box.length < 2 := by simp [empty]
    rw [hop, State.hopBox_empty empty, Option.getD_none, State.hopOut_enters out room]
    rfl
  case mailbox =>
    intro m head edge sound popped room last
    refine ⟨fun way is_last has_room => ?_, fun way is_last no_room => ?_,
      fun _ way first second fits => execMailboxForward_second head edge way sound first second fits,
      execMailboxForward_held head edge, execMailboxForward_absorbed head edge⟩
    · exact (execMailboxForward_last head edge way sound is_last).trans (congrArg _ (if_pos has_room))
    · exact (execMailboxForward_last head edge way sound is_last).trans (congrArg _ (if_neg no_room))

/-- The cases of an arrival: a MARK, a sealed node, a token behind the frontier, and one that its port takes. -/
theorem arrivalsJoinTheQueue : Claim.ArrivalsJoinTheQueue := by
  intro s k port t quiet p ip a taken
  refine ⟨State.arrive_mark quiet, State.arrive_sealed quiet,
    fun token open_ located late r => State.arrive_late quiet token open_ located late,
    fun token open_ plain timely counts => ?_⟩
  refine (State.arrive_taken quiet token open_ timely).trans (Prod.ext (State.onPort_congr s ?_) rfl)
  rw [plain]
  exact InPort.take_plain _ t s.cycle counts

/-- Settles O43: the tokens on circuits, and those that reach a port. -/
theorem tokensAdvanceAndArrive : Obligations.TokensAdvanceAndArrive := ⟨tokensAdvanceOnTheirCircuits, arrivalsJoinTheQueue⟩

end Sys2Proof.Machine
end

section
/-! A precise fault commits nothing and reaches its handler or its queue (09 R141, R160; 24 R353, R354). -/

namespace Sys2Proof.Machine

/-- What a PE holds beyond the block that runs on it: its memory, registers, ports, time capabilities, status and matrix unit. -/
structure Pe.SameHeld (p q : Pe) : Prop where
  lmem : p.lmem = q.lmem
  full : p.full = q.full
  nregs : p.nregs = q.nregs
  vregs : p.vregs = q.vregs
  inports : p.inports = q.inports
  outq : p.outq = q.outq
  caps : p.caps = q.caps
  status : p.status = q.status
  matrix : p.matrix = q.matrix

/-- A PE that forgets what an agent waits for there keeps all that it holds. -/
theorem Pe.sameHeld_forget (p : Pe) (q : Agent → Bool) : (p.forget q).SameHeld p :=
  ⟨rfl, rfl, rfl, rfl, rfl, rfl, rfl, rfl, rfl⟩

theorem Pe.sameHeld_stop {p q : Pe} (same : p.SameHeld q) : Pe.SameHeld { p with stopped := true } q := { same with }

/-! ## The block that ends -/

theorem State.pe_forget (s : State) (q : Agent → Bool) (k : Nat) : (s.forget q).pe k = (s.pe k).forget q := by
  simp only [State.pe, State.forget, Map.get, Map.find_mapVals]
  cases Map.find s.pes k <;> rfl

/-- A state whose block in execution has ended uncommitted. -/
def State.ended (s : State) : State :=
  { s.forget (· == s.cur.agent) with cur := { s.cur with live := false }, tails := s.tails ++ s.cur.leftPort }

/-- The block that faults keeps what a PE holds: nothing of it has been committed. -/
theorem State.pe_ended (s : State) (k : Nat) : s.ended.pe k = (s.pe k).forget (· == s.cur.agent) := s.pe_forget _ k

/-! ## Where the fault goes (24 R353, R354) -/

/-- A precise fault, by the agent whose block it ends. -/
theorem State.raisePrecise_eq (s : State) (t : Trap) : s.raisePrecise t = match s.cur.agent with
    | .ctl r => s.ended.threadFault r (s.record s.cur t 0 s.cur.turn) s.cur.addr
    | .rule _ => s.ended.ruleFault s.cur t s.cur.turn
    | .node p => (s.ended.onPe p fun q => { q with stopped := true }).post s.cur.region (s.record s.cur t 0 s.cur.turn)
    | .ag a k => ((s.ended.leaveAg a k).onPe (agBase + a) fun q => { q with stopped := true }).post s.cur.region
        (s.record s.cur t 0 s.cur.turn) := rfl

/-- A control thread whose handler is enabled, and does not run, enters it. -/
theorem State.threadFault_handled {s : State} {rid : Nat} (rec : TrapRecord) (epc : W64)
    (enabled : bitAt (s.region rid).tvec 63 = true) (idle : statusInh (s.region rid).status = false) :
    s.threadFault rid rec epc = s.enterHandler rid rec epc := by
  simp only [State.threadFault, enabled, idle, Bool.not_false, Bool.and_self, if_true]

/-- A record joins a fault queue that has room. -/
theorem State.post_room {s : State} {rid : Nat} (rec : TrapRecord) (open_ : (s.region rid).overflow = false)
    (room : (s.region rid).faultq.length < 32) : s.post rid rec = s.onRegion rid (·.enqueue rec) := by
  simp only [State.post, open_, room, Bool.false_eq_true, if_false, if_true]

/-- Settles O58: the two places that a fault goes to, and what the block that ends leaves. -/
theorem preciseFaultsCommitNothing : Obligations.PreciseFaultsCommitNothing := by
  rintro s _ t rfl _ u x keeps rest
  have held (k : Nat) (same : (u.pe k).SameHeld (s.pe k)) : keeps k :=
    ⟨same.lmem, same.full, same.nregs, same.vregs, same.inports, same.outq, same.caps, same.status, same.matrix⟩
  refine ⟨fun rid agent enabled idle => ?handler, fun pe agent open_ room => ?queue, rfl, rfl, rfl, rfl, rfl, rfl⟩
  case handler =>
    have entered : u = s.ended.enterHandler rid x s.cur.addr := by
      rw [← State.threadFault_handled x s.cur.addr (s := s.ended) enabled idle]
      exact (s.raisePrecise_eq t).trans (by rw [agent])
    have pe_eq (k : Nat) : u.pe k = (s.pe k).forget (· == s.cur.agent) := by rw [entered]; exact s.pe_ended k
    refine ⟨by rw [entered]; exact State.region_onRegion_self .., fun k ne => by rw [entered]; exact State.region_onRegion_ne _ _ ne,
      fun k => ⟨held k (by rw [pe_eq k]; exact Pe.sameHeld_forget _ _), by rw [pe_eq k]; rfl⟩,
      by simp only [rest, entered]; exact ⟨rfl, rfl, rfl, rfl, rfl, rfl⟩⟩
  case queue =>
    have posted : u = (s.ended.onPe pe fun q => { q with stopped := true }).onRegion s.cur.region (·.enqueue x) := by
      rw [← State.post_room x (s := s.ended.onPe pe _) open_ room]
      exact (s.raisePrecise_eq t).trans (by rw [agent])
    have pe_self : u.pe pe = { (s.pe pe).forget (· == s.cur.agent) with stopped := true } := by
      rw [posted, State.pe_onRegion, State.pe_onPe_self, State.pe_ended]
    have pe_ne (k : Nat) (ne : k ≠ pe) : u.pe k = (s.pe k).forget (· == s.cur.agent) := by
      rw [posted, State.pe_onRegion, State.pe_onPe_ne _ _ ne, State.pe_ended]
    refine ⟨by rw [posted]; exact State.region_onRegion_self .., fun k ne => by rw [posted]; exact State.region_onRegion_ne _ _ ne,
      by rw [pe_self], fun k => ⟨held k ?_, fun ne => by rw [pe_ne k ne]; rfl⟩,
      by simp only [rest, posted]; exact ⟨rfl, rfl, rfl, rfl, rfl, rfl⟩⟩
    by_cases at_ : k = pe
    · subst at_
      rw [pe_self]
      exact Pe.sameHeld_stop (Pe.sameHeld_forget _ _)
    · rw [pe_ne k at_]
      exact Pe.sameHeld_forget _ _

end Sys2Proof.Machine
end

section
/-! Decoding and encoding agree (09 R135 to R138, R155 to R159). -/

namespace Sys2Proof.Laws

open Machine

/-- Every encoded instruction, by the lemma of its constructor; a step of the machine has no word. -/
theorem decode_encode (i : Instr) : RoundTrip.Statement i := by
  cases i with
  | read => apply RoundTrip.read
  | mov => apply RoundTrip.mov
  | movi => apply RoundTrip.movi
  | movis => apply RoundTrip.movis
  | null => apply RoundTrip.null
  | recv => apply RoundTrip.recv
  | recvk => apply RoundTrip.recvk
  | recvo => apply RoundTrip.recvo
  | join => apply RoundTrip.join
  | bro => apply RoundTrip.bro
  | bri => apply RoundTrip.bri
  | callo => apply RoundTrip.callo
  | retb => apply RoundTrip.retb
  | halt => apply RoundTrip.halt
  | fence => apply RoundTrip.fence
  | add => apply RoundTrip.add
  | sub => apply RoundTrip.sub
  | mul => apply RoundTrip.mul
  | mulh => apply RoundTrip.mulh
  | div => apply RoundTrip.div
  | rem => apply RoundTrip.rem
  | and => apply RoundTrip.and
  | or => apply RoundTrip.or
  | xor => apply RoundTrip.xor
  | andn => apply RoundTrip.andn
  | shl => apply RoundTrip.shl
  | shr => apply RoundTrip.shr
  | sra => apply RoundTrip.sra
  | rot => apply RoundTrip.rot
  | min => apply RoundTrip.min
  | max => apply RoundTrip.max
  | absneg => apply RoundTrip.absneg
  | bitc => apply RoundTrip.bitc
  | bfx => apply RoundTrip.bfx
  | bfi => apply RoundTrip.bfi
  | cmp => apply RoundTrip.cmp
  | sel => apply RoundTrip.sel
  | ext => apply RoundTrip.ext
  | addi => apply RoundTrip.addi
  | andi => apply RoundTrip.andi
  | ori => apply RoundTrip.ori
  | xori => apply RoundTrip.xori
  | shli => apply RoundTrip.shli
  | shri => apply RoundTrip.shri
  | srai => apply RoundTrip.srai
  | cmpi => apply RoundTrip.cmpi
  | muli => apply RoundTrip.muli
  | xlate => apply RoundTrip.xlate
  | paadd => apply RoundTrip.paadd
  | paoff => apply RoundTrip.paoff
  | ld => apply RoundTrip.ld
  | st => apply RoundTrip.st
  | ldv => apply RoundTrip.ldv
  | stv => apply RoundTrip.stv
  | ldl => apply RoundTrip.ldl
  | stl => apply RoundTrip.stl
  | ldlw => apply RoundTrip.ldlw
  | stlf => apply RoundTrip.stlf
  | ldlv => apply RoundTrip.ldlv
  | stlv => apply RoundTrip.stlv
  | atom => apply RoundTrip.atom
  | cas => apply RoundTrip.cas
  | atoml => apply RoundTrip.atoml
  | bufdef => apply RoundTrip.bufdef
  | bufget => apply RoundTrip.bufget
  | bufput => apply RoundTrip.bufput
  | bufstat => apply RoundTrip.bufstat
  | cpyopen => apply RoundTrip.cpyopen
  | cpyclose => apply RoundTrip.cpyclose
  | cpywait => apply RoundTrip.cpywait
  | gather => apply RoundTrip.gather
  | scatter => apply RoundTrip.scatter
  | epatom => apply RoundTrip.epatom
  | epfence => apply RoundTrip.epfence
  | lmstream => apply RoundTrip.lmstream
  | fadd => apply RoundTrip.fadd
  | fsub => apply RoundTrip.fsub
  | fmul => apply RoundTrip.fmul
  | fma => apply RoundTrip.fma
  | fdiv => apply RoundTrip.fdiv
  | fsqrt => apply RoundTrip.fsqrt
  | frsq => apply RoundTrip.frsq
  | fminmax => apply RoundTrip.fminmax
  | fcmp => apply RoundTrip.fcmp
  | fclass => apply RoundTrip.fclass
  | fsign => apply RoundTrip.fsign
  | frnd => apply RoundTrip.frnd
  | fexp2 => apply RoundTrip.fexp2
  | flog2 => apply RoundTrip.flog2
  | cvt => apply RoundTrip.cvt
  | cvti => apply RoundTrip.cvti
  | cvtf => apply RoundTrip.cvtf
  | gxpack => apply RoundTrip.gxpack
  | gxunp => apply RoundTrip.gxunp
  | vred => apply RoundTrip.vred
  | vshuf => apply RoundTrip.vshuf
  | vbcast => apply RoundTrip.vbcast
  | vlane => apply RoundTrip.vlane
  | vdot => apply RoundTrip.vdot
  | mlda => apply RoundTrip.mlda
  | mldb => apply RoundTrip.mldb
  | mldl => apply RoundTrip.mldl
  | mma => apply RoundTrip.mma
  | mst => apply RoundTrip.mst
  | mrel => apply RoundTrip.mrel
  | mjob => apply RoundTrip.mjob
  | ctr => apply RoundTrip.ctr
  | pldef => apply RoundTrip.pldef
  | pshift => apply RoundTrip.pshift
  | pstep => apply RoundTrip.pstep
  | pact => apply RoundTrip.pact
  | psum => apply RoundTrip.psum
  | pcopy => apply RoundTrip.pcopy
  | lmarch => apply RoundTrip.lmarch
  | site => apply RoundTrip.site
  | timeNow => apply RoundTrip.timeNow
  | timeCmp => apply RoundTrip.timeCmp
  | timeMake => apply RoundTrip.timeMake
  | timeField => apply RoundTrip.timeField
  | frontRead => apply RoundTrip.frontRead
  | frontWait => apply RoundTrip.frontWait
  | frontSubscribe => apply RoundTrip.frontSubscribe
  | tcapNew => apply RoundTrip.tcapNew
  | tcapAdvance => apply RoundTrip.tcapAdvance
  | tcapDrop => apply RoundTrip.tcapDrop
  | callq => apply RoundTrip.callq
  | sysTrap => apply RoundTrip.sysTrap
  | sysEret => apply RoundTrip.sysEret
  | sysBkpt => apply RoundTrip.sysBkpt
  | sysFeatq => apply RoundTrip.sysFeatq
  | sysWdog => apply RoundTrip.sysWdog
  | sysPmonctl => apply RoundTrip.sysPmonctl
  | sysPmonrd => apply RoundTrip.sysPmonrd
  | sysRrmark => apply RoundTrip.sysRrmark
  | sysTlbinv => apply RoundTrip.sysTlbinv
  | sysCsload => apply RoundTrip.sysCsload
  | sregRd => apply RoundTrip.sregRd
  | sregWr => apply RoundTrip.sregWr
  | sectCfgload => apply RoundTrip.sectCfgload
  | sectArm => apply RoundTrip.sectArm
  | sectBound => apply RoundTrip.sectBound
  | sectDrain => apply RoundTrip.sectDrain
  | sectSinkw => apply RoundTrip.sectSinkw
  | sectRelease => apply RoundTrip.sectRelease
  | sectGred => apply RoundTrip.sectGred
  | sectGbcast => apply RoundTrip.sectGbcast
  | _ => exact fun encoded => absurd encoded Bool.false_ne_true

/-- A word that decodes to a well-formed instruction is legal (09 R159). -/
theorem instrOf_of_decode {w : Word} {i : Instr} (decoded : decode w = .ok i) (fits : i.wellFormed = true) :
    instrOf w = some i := by
  simp only [instrOf, decoded, fits, if_true]

/-- Settles O3: each encoded instruction by the lemma of its constructor, and legality from the decoding. -/
theorem decodeAndEncodeAgree : Obligations.DecodeAndEncodeAgree := fun i encoded fits =>
  ⟨decode_encode i encoded fits, instrOf_of_decode (decode_encode i encoded fits) fits⟩

end Sys2Proof.Laws
end

section
/-! Issuing, in the words of the claims: from the answer of an instruction to what it delivers, does or raises, and the rule of kinds
(09 R138, R144, R145). -/

namespace Sys2Proof.Machine

open Claim

/-! ## From the answer of an instruction to its claim -/

section
variable {i : Instr} {s s1 : State} {p : Pm} {vs : List Value} {ts : List Tgt} {k : List Value → Res}

theorem delivers_of_retire {out : List (Tgt × Value)} (h : exec i s = .next (s1.retire out)) : Delivers i s s1 out :=
  fun _ taken => h.trans (congrArg _ (State.retire_ok taken))

/-- Where the rule of kinds does not come in, the answer alone counts. -/
theorem delivers_of_any {out : List (Tgt × Value)} (ready : Ready s p vs) (answers : exec i s = issueAny p vs.length s k)
    (done : k vs = .done s1 out) : Delivers i s s1 out :=
  delivers_of_retire (answers.trans ((issueAny_ready ready k).trans (by rw [done]; rfl)))

variable (ready : Ready s p vs) (data : nonData vs = none) (answers : exec i s = issue p vs.length ts s k)
include ready data answers

/-- An instruction that is ready, and has no kind to pass on, answers by its own rule. -/
theorem exec_eq_settle : exec i s = .next ((k vs).settle s) := answers.trans (issue_data ready data k)

theorem delivers_of_done {out : List (Tgt × Value)} (done : k vs = .done s1 out) : Delivers i s s1 out :=
  delivers_of_retire ((exec_eq_settle ready data answers).trans (by rw [done]; rfl))

theorem traps_of_trap {t : Trap} (trap : k vs = .trap t) : Traps i s t :=
  (exec_eq_settle ready data answers).trans (by rw [trap]; rfl)

theorem waits_of_wait (wait : k vs = .wait s) : Waits i s := (exec_eq_settle ready data answers).trans (by rw [wait]; rfl)

theorem acts_of_done {g : Frame → Frame} (done : k vs = .done (s.onCur g) []) : Acts i s g :=
  (exec_eq_settle ready data answers).trans (by rw [done]; rfl)

end

/-! ## The kinds of two operands (09 R145) -/

/-- Two operands pass on the first kind, in the order of precedence, that one of them has. -/
theorem nonData_pair (a b : Value) : nonData [a, b] = kindOrder.find? fun k => a.kind == k || b.kind == k := by
  simp [nonData]

/-- A kind that an operand has, where no operand has one above it in the order of precedence, is passed on. -/
theorem nonData_pair_eq_some {a b : Value} {k : Kind} (above below : List Kind) (order : kindOrder = above ++ k :: below)
    (none_above : ∀ x ∈ above, ¬ (a.kind = x ∨ b.kind = x)) (some_k : a.kind = k ∨ b.kind = k) : nonData [a, b] = some k := by
  rw [nonData_pair, List.find?_eq_some_iff_append]
  exact ⟨by simpa using some_k, above, below, order, fun x mem => by simpa using none_above x mem⟩

/-! ## Instructions of two operands that follow the rule of kinds -/

theorem Frame.ready_of_skips {f : Frame} {p : Pm} (n : Nat) (skips : f.skips p = true) : f.ready p n = none := by
  have unmatched : f.slot.predicate p = some false := by
    simp only [Frame.skips, Bool.and_eq_true, beq_iff_eq] at skips
    exact skips.2
  simp [Frame.ready, unmatched]

theorem Slot.operands_two_of_missing {sl : Slot} (missing : sl.op0 = none ∨ sl.op1 = none) : sl.operands 2 = none := by
  rcases missing with h | h <;> simp [Slot.operands, h]

theorem Frame.ready_of_missing {f : Frame} {n : Nat} (p : Pm) (missing : f.slot.operands n = none) : f.ready p n = none := by
  simp [Frame.ready, missing]

/-- An instruction issues with two operands, by the rule of kinds. -/
def IssuesPair (i : Instr) (p : Pm) (t u : Tgt) : Prop := ∀ s, ∃ k, exec i s = issue p 2 [t, u] s k

section
variable {i : Instr} {p : Pm} {t u : Tgt} {s : State} (pair : IssuesPair i p t u)
include pair

theorem IssuesPair.passes_kind {a b : Value} {k : Kind} (ready : Ready s p [a, b]) (kind : nonData [a, b] = some k) :
    Delivers i s s [(t, .ofKind k), (u, .ofKind k)] :=
  let ⟨g, answers⟩ := pair s
  delivers_of_retire (answers.trans (issue_kind ready kind g))

theorem IssuesPair.skips (skips : s.cur.skips p = true) : exec i s = .next (s.onCur (·.mark .skipped)) :=
  let ⟨_, answers⟩ := pair s
  answers.trans (issueAny_skips (Frame.ready_of_skips 2 skips) skips _)

theorem IssuesPair.waits (stays : s.cur.skips p = false) (missing : s.cur.slot.op0 = none ∨ s.cur.slot.op1 = none) :
    exec i s = .next s :=
  let ⟨_, answers⟩ := pair s
  answers.trans (issueAny_idle (Frame.ready_of_missing p (Slot.operands_two_of_missing missing)) stays _)

end

/-- The two-operand integer instructions, the compare and the lane-wise arithmetic all issue so. -/
theorem issuesPair_of_mem {p : Pm} {t u : Tgt} {sg : Bool} {c : Cond} {ty : FType} {r : Round} :
    ∀ i ∈ [Instr.add p t u, .sub p t u, .mul p t u, .mulh p t u sg, .div p t u sg, .rem p t u sg, .and p t u, .or p t u,
      .xor p t u, .andn p t u, .shl p t u, .shr p t u, .sra p t u, .rot p t u, .min p t u sg, .max p t u sg, .bfx p t u sg,
      .cmp p t u c sg, .fadd p t u ty r, .fsub p t u ty r, .fmul p t u ty r, .fdiv p t u ty r], IssuesPair i p t u := by
  repeat refine List.forall_mem_cons.mpr ⟨fun _ => ⟨_, rfl⟩, ?_⟩
  exact List.forall_mem_nil _

/-- Settles O6: every instruction of the list issues with two operands by the rule of kinds; the order of precedence, kind by kind. -/
theorem kindsPredicatesAndWaiting : Obligations.KindsPredicatesAndWaiting := by
  intro s p t u sg c ty r a b i listed some_
  have pair : IssuesPair i p t u := issuesPair_of_mem i listed
  refine ⟨fun k ready kind => pair.passes_kind ready kind, nonData_pair_eq_some [] _ rfl (by simp), fun no_null => ?_,
    fun no_null no_err => ?_, fun no_null no_err no_eos => ?_, fun da bb => ?_, fun ab ba => ?_, fun da db => ?_,
    fun _ => rfl, pair.skips, fun _ _ _ stays missing => pair.waits stays missing⟩
  · exact nonData_pair_eq_some [.null] _ rfl (List.forall_mem_singleton.mpr no_null)
  · exact nonData_pair_eq_some [.null, .err] _ rfl (List.forall_mem_cons.mpr ⟨no_null, List.forall_mem_singleton.mpr no_err⟩)
  · exact nonData_pair_eq_some [.null, .err, .eos] _ rfl (List.forall_mem_cons.mpr
      ⟨no_null, List.forall_mem_cons.mpr ⟨no_err, List.forall_mem_singleton.mpr no_eos⟩⟩)
  · exact nonData_pair_eq_some [.null, .err, .eos, .eor] _ rfl (by simp [da, bb]) (.inr bb)
  · exact nonData_pair_eq_some [.null, .err, .eos, .eor] _ rfl (by simp [ab, ba]) (.inl ab)
  · exact nonData_two (by simp [Value.isData, da]) (by simp [Value.isData, db])

end Sys2Proof.Machine
end

section
/-! What a delivery does: to an operand or predicate, to a register, to a port (09 R144, R146, R147; 10 R162). -/

namespace Sys2Proof.Machine

section
variable {f : Frame}

theorem Frame.countOut_room (room : f.outs < f.nout) : f.countOut = .ok { f with outs := f.outs + 1 } := if_pos room

section
variable {k : Nat} {held : Slot → Option Value} (put : Slot → Slot)

theorem Frame.toSlot_free (free : held (f.slotAt k) = none) : f.toSlot k held put = .ok (f.onSlot k put) := by
  simp [Frame.toSlot, free]

theorem Frame.toSlot_held {w : Value} (full : held (f.slotAt k) = some w) : f.toSlot k held put = .error (trap .opdup) := by
  simp [Frame.toSlot, full]

end

section
variable {i : Nat} (a : Act)

theorem Frame.toReg_taken (taken : f.regTaken i = true) : f.toReg i a = .error (trap .regdup) := if_pos taken

theorem Frame.toReg_free (free : f.regTaken i = false) : f.toReg i a = f.countOut.map (·.act a) := by
  simp [Frame.toReg, free]

end

/-- What a value that reaches a port becomes at the commit: nothing for NULL, and else what the port sends (09 R146). -/
def Value.sent (v : Value) : Option Value := if v.kind = .null then none else some v.onPort

section
variable {v : Value} {i : BitVec 6}

theorem Frame.deliver_port_late (some_ : v.kind ≠ .null) (late : f.ovf.contains i.toNat = true) :
    f.deliver (.port i) v = .error (trap .timeovf) := by
  simp only [Frame.deliver, beq_iff_eq, some_, if_false, late, if_true]

/-- Where no action of the port overflows, and where it sends nothing, the delivery counts toward NOUT. -/
theorem Frame.deliver_port (timely : ¬ (v.kind ≠ .null ∧ f.ovf.contains i.toNat = true)) :
    f.deliver (.port i) v = f.countOut.map (·.act (.send i.toNat v.sent)) := by
  by_cases null : v.kind = .null
  · simp [Frame.deliver, Value.sent, null]
  · have in_time : f.ovf.contains i.toNat = false := by simpa [null] using timely
    simp only [Frame.deliver, Value.sent, beq_iff_eq, null, if_false, in_time, Bool.false_eq_true]

end

end

/-- Settles O7: each target by the rule of what it names. -/
theorem deliveriesHaveTheirEffect : Obligations.DeliveriesHaveTheirEffect := by
  intro f v k sl counted toReg toPort late
  refine ⟨f.toSlot_free _, f.toSlot_free _, f.toSlot_free _, f.toSlot_free _, fun _ => f.toSlot_held _, fun _ => f.toSlot_held _,
    fun _ => f.toSlot_held _, fun _ => f.toSlot_held _, f.deliver_none v, f.toReg_taken _, fun free room => ?_, fun free full => ?_,
    fun ⟨some_, overflows⟩ => f.deliver_port_late some_ overflows, fun timely room => ?_, fun timely full => ?_, fun other => ?_,
    fun data => ?_⟩
  · exact (f.toReg_free _ free).trans (by rw [Frame.countOut_room room]; rfl)
  · exact (f.toReg_free _ free).trans (by rw [Frame.countOut_full full]; rfl)
  · exact (f.deliver_port timely).trans (by rw [Frame.countOut_room room]; rfl)
  · exact (f.deliver_port timely).trans (by rw [Frame.countOut_full full]; rfl)
  · simp [Value.onPort, Value.isData, other]
  · simp [Value.onPort, data]

end Sys2Proof.Machine
end

section
/-! Receiving and joining: which heads each instruction takes and what it delivers (09 R151 to R153; 12 R190, R192 and Table 12-1). -/

namespace Sys2Proof.Machine

open Claim

/-! ## Receiving (09 R151 to R153; 12 R190) -/

/-- The heads before the last one whose time has come leave the port; what follows that one decides (12 R190). -/
theorem yieldKept_append {now frontier : LTime} {x : Token} {pre post : List Token}
    (due : ∀ y ∈ pre ++ [x], y.time ≤ now) (n : Nat) :
    yieldKept now frontier (pre ++ x :: post) n = yieldKept now frontier (x :: post) (n + pre.length) := by
  induction pre generalizing n with
  | nil => rfl
  | cons y ys ih =>
    have due_rest : ∀ z ∈ ys ++ [x], z.time ≤ now := fun z mem => due z (List.mem_cons_of_mem _ mem)
    have due_y : ¬ now < y.time := BitVec.not_lt.mpr (due y List.mem_cons_self)
    have step : yieldKept now frontier (y :: (ys ++ x :: post)) n = yieldKept now frontier (ys ++ x :: post) (n + 1) := by
      cases ys with
      | nil => simp only [yieldKept, List.nil_append, due_y, if_false, due_rest x (by simp), if_true]
      | cons z zs => simp only [yieldKept, List.cons_append, due_y, if_false, due_rest z (by simp), if_true]
    rw [List.cons_append, step, ih due_rest, List.length_cons, Nat.add_assoc, Nat.add_comm 1]

section
variable {now frontier : LTime} {x : Token} (due : ¬ now < x.time) (n : Nat)
include due

theorem yieldKept_last (passed : now < frontier) : yieldKept now frontier [x] n = .got x.val x.stamp n := by
  simp only [yieldKept, due, passed, if_false, if_true]

theorem yieldKept_open (open_ : ¬ now < frontier) : yieldKept now frontier [x] n = .later := by
  simp only [yieldKept, due, open_, if_false]

theorem yieldKept_before {y : Token} {ys : List Token} (later : now < y.time) :
    yieldKept now frontier (x :: y :: ys) n = .got x.val x.stamp n := by
  simp only [yieldKept, due, BitVec.not_le.mpr later, if_false]

end

theorem yieldKept_early {now frontier : LTime} {x : Token} (xs : List Token) (n : Nat) (early : now < x.time) :
    yieldKept now frontier (x :: xs) n = .bad (trap .recvorder) := by
  simp only [yieldKept, early, if_true]

/-- An instruction receives from a port what a rule yields at the time of its firing. -/
def Receives (i : Instr) (port : BitVec 6) (t u : Tgt) (s : State) (y : Yield) : Prop :=
  exec i s = issue .always 0 [t, u] s fun _ => receive port.toNat [t, u] s y

section
variable {i : Instr} {port : BitVec 6} {t u : Tgt} {s : State} {y : Yield} (ready : Ready s .always []) (rule : Receives i port t u s y)
include ready rule

theorem Receives.gives {v : Value} {stamp n : Nat} (got : y = .got v stamp n) :
    Delivers i s ((s.raisePts stamp).onCur (·.take port.toNat n)) [(t, v), (u, v)] :=
  delivers_of_done ready rfl rule (by rw [got]; rfl)

theorem Receives.waits (later : y = .later) : Waits i s := waits_of_wait ready rfl rule (by rw [later]; rfl)

theorem Receives.traps {e : Trap} (bad : y = .bad e) : Traps i s e := traps_of_trap ready rfl rule (by rw [bad]; rfl)

end

/-- RECV, RECVO and RECVK, each by what its own rule yields. -/
theorem receiveTakesTheHeads : Claim.ReceiveTakesTheHeads := by
  intro s port t u ready now hs passed gives order
  have recv : Receives (.recv port t u) port t u s (yieldRecv now hs) := rfl
  have recvo : Receives (.recvo port t u) port t u s
    (yieldOpt now (s.portOf s.cur port.toNat).frontier (s.portOf s.cur port.toNat).fstamp hs) := rfl
  have recvk : Receives (.recvk port t u) port t u s (yieldKept now (s.portOf s.cur port.toNat).frontier hs 0) := rfl
  refine ⟨fun x xs heads at_now => ⟨recv.gives ready ?_, recvo.gives ready ?_⟩, fun none_now => recv.waits ready ?_,
    fun x xs heads early => ⟨recvo.gives ready ?_, recvk.traps ready ?_⟩, fun x xs heads late => recvo.traps ready ?_,
    fun empty past => ⟨recvo.gives ready ?_, recvk.traps ready ?_⟩,
    fun empty open_ => ⟨recvo.waits ready ?_, recvk.waits ready ?_⟩, fun pre x post heads due => ?kept⟩
  · simp only [heads, yieldRecv, at_now, if_true]
  · simp only [heads, yieldOpt, at_now, if_true]
  · cases heads : hs with
    | nil => rfl
    | cons x xs =>
      have ne : x.time ≠ now := none_now x (by rw [heads]; rfl)
      simp only [yieldRecv, ne, if_false]
  · have ne : x.time ≠ now := fun e => absurd early (by rw [e]; exact BitVec.lt_irrefl _)
    simp only [heads, yieldOpt, ne, early, if_false, if_true]
  · rw [heads]
    exact yieldKept_early xs 0 early
  · have ne : x.time ≠ now := fun e => absurd late (by rw [e]; exact BitVec.lt_irrefl _)
    have not_early : ¬ now < x.time := BitVec.lt_asymm late
    simp only [heads, yieldOpt, ne, not_early, if_false]
    rfl
  · exact (congrArg _ empty).trans (if_pos past)
  · exact (congrArg (yieldKept _ _ · 0) empty).trans (if_pos past)
  · exact (congrArg _ empty).trans (if_neg open_)
  · exact (congrArg (yieldKept _ _ · 0) empty).trans (if_neg open_)
  case kept =>
    have x_due : ¬ now < x.time := BitVec.not_lt.mpr (due x (by simp))
    have taken := yieldKept_append (frontier := (s.portOf s.cur port.toNat).frontier) (post := post) due 0
    rw [← heads, Nat.zero_add] at taken
    refine ⟨fun y ys more later => recvk.gives ready (taken.trans ?_), fun none past => recvk.gives ready (taken.trans ?_),
      fun none open_ => recvk.waits ready (taken.trans ?_)⟩
    · rw [more]
      exact yieldKept_before x_due _ later
    · rw [none]
      exact yieldKept_last x_due _ past
    · rw [none]
      exact yieldKept_open x_due _ open_

/-! ## Joining (12 R192 and Table 12-1) -/

/-- The key that a head takes part with: DATA has its own, and EOR sorts above every key. -/
def Value.runKey (v : Value) : Option Nat := if v.isData then some (keyOf v) else none

theorem Value.runKey_data {v : Value} (data : v.kind = .data) : v.runKey = some (keyOf v) := by
  simp [Value.runKey, Value.isData, data]

theorem Value.runKey_eor {v : Value} (eor : v.kind = .eor) : v.runKey = none := by simp [Value.runKey, Value.isData, eor]

/-- A head that keeps the order of its run: its key is above the one last consumed. -/
theorem keyBad_of_kept {last : Option Nat} {v : Value} (kept : ∀ k, last = some k → k < keyOf v) : keyBad last v = false := by
  cases last with
  | none => simp [keyBad]
  | some k => simp [keyBad, kept k rfl]

theorem keyBad_of_not_kept {last : Option Nat} {v : Value} (data : v.kind = .data) (broken : ¬ ∀ k, last = some k → k < keyOf v) :
    keyBad last v = true := by
  cases last with
  | none => simp at broken
  | some k => simpa [keyBad, Value.isData, data] using broken

theorem keyBad_eor {last : Option Nat} {v : Value} (eor : v.kind = .eor) : keyBad last v = false := by
  simp [keyBad, Value.isData, eor]

section
variable (mode : JoinMode) (pa pb : Nat) (la lb : Option Nat) {a b : Token}

theorem joinHeads_order (apart : a.time ≠ b.time) : joinHeads mode pa pb la lb a b = .error (joinTrap pa pb a b) := if_pos apart

variable (together : a.time = b.time)
include together

theorem joinHeads_err (err : a.val.kind = .err ∨ b.val.kind = .err) :
    joinHeads mode pa pb la lb a b = .ok ⟨b2n (a.val.kind == .err), b2n (b.val.kind == .err), .ofKind .err, Flags.none⟩ := by
  rcases err with err | err <;> simp [joinHeads, together, err]

theorem joinHeads_eos (ea : a.val.kind = .eos) (eb : b.val.kind = .eos) :
    joinHeads mode pa pb la lb a b = .ok ⟨1, 1, .ofKind .eos, Flags.none⟩ := by
  simp [joinHeads, together, ea, eb]

theorem joinHeads_eor (ea : a.val.kind = .eor) (eb : b.val.kind = .eor) :
    joinHeads mode pa pb la lb a b = .ok ⟨1, 1, .ofKind .eor, Flags.none⟩ := by
  simp [joinHeads, together, ea, eb]

/-- A stream that ends while the other goes on breaks the order. -/
theorem joinHeads_eos_alone (ea : a.val.kind = .eos) (on : b.val.kind = .data ∨ b.val.kind = .eor) :
    joinHeads mode pa pb la lb a b = .error (joinTrap pa pb a b) := by
  rcases on with eb | eb <;> simp [joinHeads, together, ea, eb]

/-- A key that is not above the one last consumed at its port breaks the order. -/
theorem joinHeads_keyBad (da : a.val.kind = .data) (on : b.val.kind = .data ∨ b.val.kind = .eor) (bad : keyBad la a.val = true) :
    joinHeads mode pa pb la lb a b = .error (joinTrap pa pb a b) := by
  rcases on with eb | eb <;> simp [joinHeads, together, da, eb, bad]

/-- Two heads that take part, each in the order of its run and one of them DATA, follow Table 12-1. -/
theorem joinHeads_table (ka : a.val.kind = .data ∨ a.val.kind = .eor) (kb : b.val.kind = .data ∨ b.val.kind = .eor)
    (one : a.val.kind = .data ∨ b.val.kind = .data) (ga : keyBad la a.val = false) (gb : keyBad lb b.val = false) :
    joinHeads mode pa pb la lb a b = .ok (joinTable mode a.val b.val a.val.runKey b.val.runKey) := by
  rcases ka with ka | ka <;> rcases kb with kb | kb <;> simp_all [joinHeads, Value.runKey]

end

section
variable {s : State} {pa pb : BitVec 6} {t : Tgt} {a b : Token} {as bs : List Token} {mode : JoinMode}
  (ready : Ready s .always []) (head_a : s.heads s.cur pa.toNat = a :: as) (head_b : s.heads s.cur pb.toNat = b :: bs)
include ready head_a head_b

theorem delivers_join {na nb : Nat} {v : Value} {fl : Flags}
    (ok : joinHeads mode pa.toNat pb.toNat (s.lastKey s.cur pa.toNat) (s.lastKey s.cur pb.toNat) a b = .ok ⟨na, nb, v, fl⟩) :
    Delivers (.join pa pb mode t) s ((s.onCur (·.take pa.toNat na)).onCur fun f => (f.take pb.toNat nb).flag fl) [(t, v)] :=
  delivers_of_done ready rfl rfl (by simp only [State.joinNow, head_a, head_b, ok])

theorem traps_join {e : Trap}
    (error : joinHeads mode pa.toNat pb.toNat (s.lastKey s.cur pa.toNat) (s.lastKey s.cur pb.toNat) a b = .error e) :
    Traps (.join pa pb mode t) s e :=
  traps_of_trap ready rfl rfl (by simp only [State.joinNow, head_a, head_b, error])

end

/-- Table 12-1 where A's head comes first. -/
theorem joinTable_left {ka kb : Option Nat} (mode : JoinMode) (a b : Value) (first : keyLt ka kb = true) :
    joinTable mode a b ka kb = match mode with
      | .isect => ⟨1, 0, .ofKind .null, Flags.none⟩
      | .union => ⟨1, 0, pairOf (some a) none, Flags.none⟩
      | .sub | .madd | .less => ⟨1, 0, .data a.lo, Flags.none⟩ := by
  cases mode <;> simp only [joinTable, first, if_true]

/-- Table 12-1 where B's head comes first. -/
theorem joinTable_right {ka kb : Option Nat} (mode : JoinMode) (a b : Value) (not_a : keyLt ka kb = false) (first : keyLt kb ka = true) :
    joinTable mode a b ka kb = match mode with
      | .isect | .sub => ⟨0, 1, .ofKind .null, Flags.none⟩
      | .union => ⟨0, 1, pairOf none (some b), Flags.none⟩
      | .madd | .less => ⟨0, 1, .data b.lo, Flags.none⟩ := by
  cases mode <;> simp only [joinTable, not_a, first, if_true, Bool.false_eq_true, if_false]

/-- Table 12-1 where both heads have one key. -/
theorem joinTable_same (mode : JoinMode) (a b : Value) (k : Nat) :
    joinTable mode a b (some k) (some k) = match mode with
      | .isect | .union => ⟨1, 1, pairOf (some a) (some b), Flags.none⟩
      | .sub => ⟨1, 1, .ofKind .null, Flags.none⟩
      | .madd => ⟨1, 1, .data (packFields 64 [(32, 32, keyOf a), (0, 32, (fp32.add .rn (valOf a) (valOf b)).1)]),
        (fp32.add .rn (valOf a) (valOf b)).2⟩
      | .less => ⟨1, 0, .data a.lo, Flags.none⟩ := by
  cases mode <;> simp [joinTable, keyLt]

/-- JOIN, by what its two heads are. -/
theorem joinFollowsItsTable : Claim.JoinFollowsItsTable := by
  intro s pa pb t a b as bs ready head_a head_b ka kb kept gives null dataA dataB
  refine ⟨fun m apart => traps_join ready head_a head_b (joinHeads_order m _ _ _ _ apart), fun together => ?_⟩
  refine ⟨fun m err => delivers_join ready head_a head_b (joinHeads_err m _ _ _ _ together err),
    fun m ea eb => delivers_join ready head_a head_b (joinHeads_eos m _ _ _ _ together ea eb),
    fun m ea eb => delivers_join ready head_a head_b (joinHeads_eor m _ _ _ _ together ea eb),
    fun m ea on => traps_join ready head_a head_b (joinHeads_eos_alone m _ _ _ _ together ea on),
    fun ⟨da, kept_a⟩ first => ?left, fun ⟨db, kept_b⟩ first => ?right, fun ⟨da, kept_a⟩ ⟨db, kept_b⟩ same => ?same,
    fun m da on broken => traps_join ready head_a head_b
      (joinHeads_keyBad m _ _ _ _ together da on (keyBad_of_not_kept da broken))⟩
  case left =>
    have table (m : JoinMode) := joinHeads_table m pa.toNat pb.toNat (s.lastKey s.cur pa.toNat) (s.lastKey s.cur pb.toNat) together
      (.inl da) (first.imp (·.1.1) id) (.inl da) (keyBad_of_kept kept_a)
      (first.elim (fun f => keyBad_of_kept f.1.2) fun eor => keyBad_eor eor)
    have lt : keyLt a.val.runKey b.val.runKey = true := by
      rcases first with ⟨⟨db, _⟩, lt⟩ | eor
      · simp [Value.runKey_data da, Value.runKey_data db, keyLt, lt]
      · simp [Value.runKey_data da, Value.runKey_eor eor, keyLt]
    simp only [joinTable_left _ _ _ lt] at table
    refine ⟨delivers_join ready head_a head_b (table .isect), delivers_join ready head_a head_b (table .union), ?_⟩
    rintro _ (rfl | rfl | rfl)
    · exact delivers_join ready head_a head_b (table .sub)
    · exact delivers_join ready head_a head_b (table .madd)
    · exact delivers_join ready head_a head_b (table .less)
  case right =>
    have table (m : JoinMode) := joinHeads_table m pa.toNat pb.toNat (s.lastKey s.cur pa.toNat) (s.lastKey s.cur pb.toNat) together
      (first.imp (·.1.1) id) (.inl db) (.inr db)
      (first.elim (fun f => keyBad_of_kept f.1.2) fun eor => keyBad_eor eor) (keyBad_of_kept kept_b)
    have lt : keyLt a.val.runKey b.val.runKey = false ∧ keyLt b.val.runKey a.val.runKey = true := by
      rcases first with ⟨⟨da, _⟩, lt⟩ | eor
      · simp [Value.runKey_data da, Value.runKey_data db, keyLt, lt, Nat.le_of_lt lt]
      · simp [Value.runKey_data db, Value.runKey_eor eor, keyLt]
    simp only [joinTable_right _ _ _ lt.1 lt.2] at table
    refine ⟨delivers_join ready head_a head_b (table .isect), delivers_join ready head_a head_b (table .sub),
      delivers_join ready head_a head_b (table .union), ?_⟩
    rintro _ (rfl | rfl)
    · exact delivers_join ready head_a head_b (table .madd)
    · exact delivers_join ready head_a head_b (table .less)
  case same =>
    have table (m : JoinMode) := joinHeads_table m pa.toNat pb.toNat (s.lastKey s.cur pa.toNat) (s.lastKey s.cur pb.toNat) together
      (.inl da) (.inl db) (.inl da) (keyBad_of_kept kept_a) (keyBad_of_kept kept_b)
    simp only [Value.runKey_data da, Value.runKey_data db, ← same, joinTable_same] at table
    refine ⟨?_, delivers_join ready head_a head_b (table .sub), delivers_join ready head_a head_b (table .madd),
      delivers_join ready head_a head_b (table .less)⟩
    rintro _ (rfl | rfl)
    · exact delivers_join ready head_a head_b (table .isect)
    · exact delivers_join ready head_a head_b (table .union)

/-- Settles O12: the receiving instructions by what they yield, and JOIN by its table. -/
theorem receivesAndJoins : Obligations.ReceivesAndJoins := ⟨receiveTakesTheHeads, joinFollowsItsTable⟩

end Sys2Proof.Machine
end

section
/-! A step runs what the word of its slot decodes to (09 R133, R144, R159; 18 R275, R278, R279). -/

namespace Sys2Proof.Machine

/-! ## The instruction of a slot (09 R159) -/

section
variable {f : Frame} {k : Nat} {w : Word} (word : f.words[k]? = some w)
include word

theorem Frame.instr_eq_some {i : Instr} (decoded : decode w = .ok i) (fits : i.wellFormed = true) : f.instr k = some i := by
  simp only [Frame.instr, word]
  exact Laws.instrOf_of_decode decoded fits

theorem Frame.instr_eq_none (illegal : ∀ i, decode w = .ok i → i.wellFormed = false) : f.instr k = none := by
  simp only [Frame.instr, word, instrOf]
  cases decoded : decode w with
  | error e => rfl
  | ok i => simp [illegal i decoded]

end

/-! ## The choice of the next step (09 R133; 18 R275) -/

/-- What a choice answers. -/
def Choice.outcome : Choice → Host.Outcome State Fault Refusal
  | .run i t => exec i t
  | .did o => o
  | .moved t => .next t

theorem step_eq_outcome {s : State} (on : s.fabricOff = false) : step s = s.tick.choose.outcome := by
  simp only [step, on, Bool.false_eq_true, if_false]
  cases s.tick.choose <;> rfl

/-- A state in which a slot has the turn. -/
def State.turnTo (s : State) (k : Nat) : State := s.onCur fun f => { f with turn := k }

section
variable {s : State} {k : Nat}

theorem State.runSlot_instr {i : Instr} (instr : s.cur.instr k = some i) : s.runSlot k = .run i (s.turnTo k) := by
  have same : (s.turnTo k).cur.instr k = some i := instr
  simp only [State.turnTo] at same
  simp only [State.runSlot, State.turnTo, same]

theorem State.runSlot_illegal (instr : s.cur.instr k = none) :
    s.runSlot k = .moved ((s.turnTo k).raisePrecise (trap .illinsn)) := by
  have same : (s.turnTo k).cur.instr k = none := instr
  simp only [State.turnTo] at same
  simp only [State.runSlot, State.turnTo, same]

theorem State.choose_due (free : s.agenda = []) (due : s.cur.dueSlot = some k) : s.choose = s.runSlot k := by
  simp only [State.choose, free, State.proceed, due]

theorem State.choose_turn {u : Turn} {ts : List Turn} (next : s.agenda = u :: ts) :
    s.choose = ({ s with agenda := ts } : State).takeTurn u := by
  simp only [State.choose, next]

end

/-! ## What the passing of a cycle leaves (17 R273; 26 R404) -/

/-- Numbering the entries that have become ready changes the jobs and the age alone. -/
theorem State.numberReady_same (s : State) : ∃ jobs age, s.numberReady = { s with jobs := jobs, wsAge := age } := by
  suffices fold : ∀ (l : List (Nat × Nat)) (s : State), ∃ jobs age, l.foldl (fun s x =>
      { s with wsAge := s.wsAge + 1 }.onEntry x.1 x.2 fun e => { e with ready := true, age := s.wsAge }) s =
        { s with jobs := jobs, wsAge := age } from fold _ s
  intro l
  induction l with
  | nil => exact fun s => ⟨_, _, rfl⟩
  | cons x l ih => exact fun s => ih _

/-- What a cycle leaves, and what it does to PEs and bays. -/
theorem State.tick_same (s : State) : ∃ regions jobs age, s.tick = { s with
    cycle := s.cycle + 1, regions := regions, jobs := jobs, wsAge := age, bays := s.bays.mapVals fun b x => s.cool b (s.count b x),
    pes := s.pes.mapVals fun _ p => p.launchAllLate (s.cycle + 1) } :=
  let ⟨jobs, age, same⟩ := State.numberReady_same _
  ⟨_, jobs, age, same⟩

/-- Settles O1: the agenda, the due slot and the events, each by the choice that it makes. -/
theorem stepRunsDecodedInstruction : Obligations.StepRunsDecodedInstruction := by
  intro s k i w ts on t turn reads illegal
  have step_eq : step s = t.choose.outcome := step_eq_outcome on
  refine ⟨fun free due ⟨word, decoded, fits⟩ => ?due, fun next may ⟨word, decoded, fits⟩ => ?slot, fun next held => ?held,
    fun next step_ => ?event, fun next may ⟨word, unfit⟩ => ?illegal, fun u next => ?upset, ?_⟩
  case due => rw [step_eq, State.choose_due free due, State.runSlot_instr (Frame.instr_eq_some word decoded fits)]; rfl
  case slot =>
    rw [step_eq, State.choose_turn next, State.takeTurn, if_pos may,
      State.runSlot_instr (s := { t with agenda := ts }) (Frame.instr_eq_some word decoded fits)]
    rfl
  case held => rw [step_eq, State.choose_turn next, State.takeTurn, if_neg (by simp [held])]; rfl
  case event => rw [step_eq, State.choose_turn next, State.takeTurn, if_neg (by simp [step_])]; rfl
  case illegal =>
    rw [step_eq, State.choose_turn next, State.takeTurn, if_pos may,
      State.runSlot_illegal (s := { t with agenda := ts }) (Frame.instr_eq_none word unfit)]
    rfl
  case upset => rw [step_eq, State.choose_turn next]; rfl
  obtain ⟨regions, jobs, age, same⟩ := s.tick_same
  have tick_eq : t = _ := same
  simp only [tick_eq, and_self]

end Sys2Proof.Machine
end

section
/-! READ, the moves and SEL, and the exits of a control block (09 R140, R147; 10 R163, R164, R171; 11 R188; 18 R277, R278). -/

namespace Sys2Proof.Machine

open Claim

/-! ## READ, the moves and SEL (10 R163, R164, R171) -/

/-- READ, by the state of its register. -/
theorem readDeliversRegister : Claim.ReadDeliversRegister := by
  intro s reg fe t u ready r
  refine ⟨fun full => delivers_of_done ready rfl rfl ?_, fun empty precise => traps_of_trap ready rfl rfl ?_,
    fun empty patient => waits_of_wait ready rfl rfl ?_, fun e failed => traps_of_trap ready rfl rfl ?_⟩
  · simp only [r] at full; simp only [full]; rfl
  · simp only [r] at empty; simp only [empty, precise, if_true]; rfl
  · simp only [r] at empty; simp only [empty, patient, Bool.false_eq_true, if_false]
  · simp only [r] at failed; simp only [failed]

/-- MOV passes its operand on whatever its kind; the others deliver a value of their own. -/
theorem movesDeliverTheirValue : Claim.MovesDeliverTheirValue := fun _ _ _ _ _ _ =>
  ⟨fun ready => delivers_of_any ready rfl rfl, fun ready => delivers_of_done ready rfl rfl rfl,
    fun ready data => delivers_of_done ready (nonData_one data) rfl rfl, fun ready => delivers_of_done ready rfl rfl rfl⟩

/-- SEL chooses by the payload of a DATA operand, and else follows the rule of kinds. -/
theorem selectKeepsTheChosenOperand : Claim.SelectKeepsTheChosenOperand := by
  intro s p t u a b c ready
  refine ⟨fun data => ⟨fun nonzero => delivers_of_any ready rfl ?_, fun zero => delivers_of_any ready rfl ?_,
    fun one => delivers_of_any ready rfl ?_, fun zero => delivers_of_any ready rfl ?_⟩,
    fun nz k other kind => delivers_of_any ready rfl ?_⟩
  · simp only [data, if_true, bne_iff_ne, ne_eq, nonzero, not_false_eq_true]; rfl
  · simp only [data, if_true, zero, bne_self_eq_false, Bool.false_eq_true, if_false]; rfl
  · simp only [data, if_true, bitAt, one, Bool.false_eq_true, if_false]; rfl
  · simp only [data, if_true, bitAt, zero, Bool.false_eq_true, if_false]; rfl
  · simp only [other, Bool.false_eq_true, if_false, kind]; rfl

/-- Settles O8: READ, the moves and SEL. -/
theorem readsAndMovesDeliver : Obligations.ReadsAndMovesDeliver :=
  ⟨readDeliversRegister, movesDeliverTheirValue, selectKeepsTheChosenOperand⟩

/-! ## The exits of a control block (09 R147; 18 R277, R278) -/

section
variable {s : State} (k : ExitKind) (n : BitVec 3)

/-- The first exit of a block is the one that it takes. -/
theorem takeExit_free (free : s.cur.exit = none) : takeExit s k n = .done (s.onCur fun f => { f with exit := some (k, n) }) [] := by
  simp [takeExit, free]

/-- A second exit is BLOCKEXIT. -/
theorem takeExit_taken (taken : s.cur.exit ≠ none) : takeExit s k n = .trap (trap .blockexit) := by
  simp [takeExit, Option.isSome_iff_ne_none.mpr taken]

end

/-- Settles O13: each exit is taken where its own condition holds and the block has no other. -/
theorem exitsAreTaken : Obligations.ExitsAreTaken := by
  intro s p n off a g sc h target free takes
  refine ⟨fun ready => ?none, fun ready data => ?one⟩
  case none =>
    refine ⟨fun first => acts_of_done ready rfl rfl (takeExit_free _ n first),
      fun first room => acts_of_done ready rfl rfl ((if_neg (Nat.not_le.mpr room)).trans (takeExit_free _ n first)),
      fun deep => traps_of_trap ready rfl rfl (if_pos deep),
      fun first some_ => acts_of_done ready rfl rfl ((if_neg (by simpa using some_)).trans (takeExit_free _ n first)),
      fun empty => traps_of_trap ready rfl rfl (if_pos (by simpa using empty)),
      fun first idle => acts_of_done ready rfl rfl ((if_pos (by simpa using idle)).trans (takeExit_free _ 0 first)),
      fun busy => traps_of_trap ready rfl rfl (if_neg (by simpa using busy)),
      fun second => traps_of_trap ready rfl rfl (takeExit_taken _ n second),
      fun scope => acts_of_done ready rfl rfl (if_neg ?_), fun group missing => traps_of_trap ready rfl rfl (if_pos ?_)⟩
    · simp only [Bool.and_eq_true, beq_iff_eq, Option.isNone_iff_eq_none, not_and]
      exact fun group missing => scope.elim (· group) (· missing)
    · simp [group, missing]
  case one =>
    exact ⟨fun first aligned => acts_of_done ready (nonData_one data) rfl ((if_pos aligned).trans (takeExit_free _ n first)),
      fun crooked => traps_of_trap ready (nonData_one data) rfl (if_neg crooked)⟩

end Sys2Proof.Machine
end

section
/-! When a firing begins, and what its block begins with (09 R151, R154; 12 R197; 20 R299). -/

namespace Sys2Proof.Machine

open Claim

/-! ## The least time -/

theorem minTime_le_left (a b : LTime) : minTime a b ≤ a := by unfold minTime; split <;> bv_omega

theorem minTime_le_right (a b : LTime) : minTime a b ≤ b := by unfold minTime; split <;> bv_omega

theorem minTime_eq (a b : LTime) : minTime a b = a ∨ minTime a b = b := by unfold minTime; split <;> simp

/-- The least head time is no later than any head, and is the time of one. -/
theorem leastHead_spec {heads : Nat → List Token} {ps : List Nat} {t : LTime} (least : leastHead heads ps = some t) :
    (∀ p ∈ ps, ∃ h tl, heads p = h :: tl ∧ t ≤ h.time) ∧ ∃ p ∈ ps, ∃ h tl, heads p = h :: tl ∧ h.time = t := by
  induction ps generalizing t with
  | nil => simp [leastHead] at least
  | cons p ps ih =>
    cases head : heads p with
    | nil => simp [leastHead, head] at least
    | cons h tl =>
      cases ps with
      | nil =>
        obtain rfl : h.time = t := by simpa [leastHead, head] using least
        exact ⟨by simp [head], p, by simp, h, tl, head, rfl⟩
      | cons q qs =>
        obtain ⟨u, rest, rfl⟩ : ∃ u, leastHead heads (q :: qs) = some u ∧ minTime h.time u = t := by
          simpa only [leastHead, head, Option.map_eq_some_iff] using least
        obtain ⟨below, r, mem, g, gs, held, at_u⟩ := ih rest
        refine ⟨List.forall_mem_cons.mpr ⟨⟨h, tl, head, minTime_le_left _ _⟩, fun r mem => ?_⟩, ?_⟩
        · obtain ⟨g, gs, held, le⟩ := below r mem
          exact ⟨g, gs, held, BitVec.le_trans (minTime_le_right _ _) le⟩
        · rcases minTime_eq h.time u with eq | eq
          · exact ⟨p, List.mem_cons_self, h, tl, head, eq.symm⟩
          · exact ⟨r, List.mem_cons_of_mem _ mem, g, gs, held, at_u.trans eq.symm⟩

/-- The time of a firing is the least head time of its mandatory ports. -/
theorem State.readyFiring_time {s : State} {f : Frame} {is : List Instr} {t : LTime} {st : Nat}
    (fires : s.readyFiring f is = some (t, st)) : leastHead (s.heads f) (mandatoryPorts is) = some t := by
  unfold State.readyFiring at fires
  split at fires
  · exact absurd fires (by simp)
  · rename_i u least
    simp only [Option.ite_none_right_eq_some, Option.some.injEq, Prod.mk.injEq] at fires
    rw [least, fires.2.1]

/-! ## The steps that begin a firing -/

section
variable {s : State} {pe rid : Nat} {img : List Word} (region : s.fireRegion pe = some rid) (node : (s.pe pe).active.node = some img)
include region node

section
variable (reads : isSource (s.pe pe).active.instrs = false)
include reads

section
variable (interior : pe < agBase) (free : s.running (· == .node pe) = false)
include interior free

theorem execNodeFiring_fires {t : LTime} {st : Nat} (fires : s.readyFiring (probe (.node pe)) (s.pe pe).active.instrs = some (t, st)) :
    execNodeFiring pe s = .next (s.openNode (.node pe) rid pe img t (max (s.pe pe).stamp st)) := by
  simp [execNodeFiring, region, node, reads, Nat.not_le.mpr interior, free, fires]

theorem execNodeFiring_waits (waits : s.readyFiring (probe (.node pe)) (s.pe pe).active.instrs = none) :
    execNodeFiring pe s = .next s := by
  simp [execNodeFiring, region, node, reads, Nat.not_le.mpr interior, free, waits]

end

theorem execAgAdmit_fires {ag : Nat} {t : LTime} {st : Nat} (at_ : pe = agBase + ag)
    (room : (Map.get Ag.blank s.ags ag).inflight.length < 8)
    (none_running : ((s.cur :: s.parked).filter fun f => f.live && agentOnNode pe f.agent) = [])
    (fires : s.readyFiring (probe (s.nextAgent pe)) (s.pe pe).active.instrs = some (t, st)) :
    execAgAdmit ag s =
      .next ((s.enrol (s.nextAgent pe)).openNode (s.nextAgent pe) rid pe img t (max (s.pe pe).stamp st)) := by
  subst at_
  simp only [execAgAdmit, region, node, reads, Nat.not_le.mpr room, none_running, fires, decide_false, Bool.or_false, List.any_nil,
    Bool.false_eq_true, if_false]

end

theorem execAgAdmit_full {ag : Nat} (at_ : pe = agBase + ag) (full : 8 ≤ (Map.get Ag.blank s.ags ag).inflight.length) :
    execAgAdmit ag s = .next s := by
  subst at_
  simp only [execAgAdmit, region, node, full, decide_true, Bool.or_true, Bool.true_or, if_true]

/-- A source that reads no port fires at its least capability, with the stamp of its node. -/
theorem execSourceFiring_fires {t : LTime} (source : isSource (s.pe pe).active.instrs = true) (free : s.running (agentOnNode pe) = false)
    (cap : leastCap (s.pe pe).caps = some t) (no_yields : yieldsAt s (probe (s.nextAgent pe)) (s.pe pe).active.instrs t = []) :
    execSourceFiring pe s = .next ((s.enrol (s.nextAgent pe)).openNode (s.nextAgent pe) rid pe img t (s.pe pe).stamp) := by
  simp only [execSourceFiring, region, node, cap, source, free, no_yields, Bool.not_true, Bool.or_false, Bool.false_eq_true, if_false,
    List.all_nil, List.foldl_nil, if_true]

end

theorem yieldsAt_portless {s : State} {f : Frame} {is : List Instr} (t : LTime) (bound : readsBound is = false)
    (recv : recvPorts is = []) (kept : keptPorts is = []) (opt : optPorts is = []) : yieldsAt s f is t = [] := by
  simp [yieldsAt, bound, recv, kept, opt]

/-- Entering an agent among the firings of its node changes the AG nodes alone. -/
theorem State.enrol_same (s : State) (a : Agent) : ∃ ags, s.enrol a = { s with ags := ags } := by
  cases a <;> exact ⟨_, rfl⟩

/-- Settles O46: the least head time, and the block that each step opens. -/
theorem firingsBeginAtTheLeastTime : Obligations.FiringsBeginAtTheLeastTime := by
  intro s pe rid img t st region node is begins a
  have begins_enrolled {i : Instr} {stamp : Nat} (opens : exec i s = .next ((s.enrol a).openNode a rid pe img t stamp)) :
      begins i a stamp := by
    obtain ⟨ags, enrolled⟩ := s.enrol_same a
    rw [enrolled] at opens
    exact ⟨_, opens, rfl, rfl, rfl, rfl, rfl, rfl, rfl, rfl, rfl, rfl, rfl, rfl, rfl, rfl, rfl, rfl⟩
  refine ⟨fun f fires => leastHead_spec (State.readyFiring_time fires),
    fun reads interior free => ⟨fun fires => ?_, execNodeFiring_waits region node reads interior free⟩,
    fun ag at_ reads room none_running fires => begins_enrolled (execAgAdmit_fires region node reads at_ room none_running fires),
    fun ag at_ full => execAgAdmit_full region node at_ full,
    fun source free cap bound recv kept opt =>
      begins_enrolled (execSourceFiring_fires region node source free cap (yieldsAt_portless t bound recv kept opt))⟩
  exact ⟨_, execNodeFiring_fires region node reads interior free fires,
    rfl, rfl, rfl, rfl, rfl, rfl, rfl, rfl, rfl, rfl, rfl, rfl, rfl, rfl, rfl, rfl⟩

end Sys2Proof.Machine
end

section
/-! A complete block commits together, and the exits of a control block (09 R148; 18 R274 to R277; 24 R373). -/

namespace Sys2Proof.Machine

/-! ## The commit of a complete block (09 R148; 12 R195) -/

section
variable {s : State} (complete : s.cur.complete = true)
include complete

theorem execBlockCommit_fencing {n : Nat} (fencing : s.cur.phase = .fencing n) : execBlockCommit s = .next (s.tryFinish n) := by
  simp only [execBlockCommit, complete, fencing, Bool.not_true, Bool.false_eq_true, if_false]

section
variable (running : s.cur.phase = .running)
include running

theorem execBlockCommit_rule (rule : s.cur.kind = .rule) : execBlockCommit s = .next s.commitRule := by
  simp only [execBlockCommit, complete, running, rule, Bool.not_true, Bool.false_eq_true, if_false, beq_self_eq_true, if_true]

theorem execBlockCommit_running (other : s.cur.kind ≠ .rule) : execBlockCommit s = .next s.tryCommit := by
  simp only [execBlockCommit, complete, running, Bool.not_true, Bool.false_eq_true, if_false, beq_iff_eq, other]

end

end

section
variable {s : State}

theorem State.tryCommit_moved {k : Nat} {ks : List Nat} (moved : s.cur.bufMoved (s.pe s.cur.pe) = k :: ks) :
    s.tryCommit = s.restartSlots (k :: ks) := by
  simp only [State.tryCommit, moved]

variable (kept : s.cur.bufMoved (s.pe s.cur.pe) = [])
include kept

theorem State.tryCommit_fault {k : Nat} {t : Trap} (fault : s.commitFault s.cur = some (k, t)) :
    s.tryCommit = (s.turnTo k).raisePrecise t := by
  simp only [State.tryCommit, kept, fault, State.turnTo]

theorem State.tryCommit_starts (sound : s.commitFault s.cur = none) (ready : s.commitWaits s.cur = false)
    (pages : s.cur.pagesWait (s.pe s.cur.pe) = false) (full : s.cur.emptyWait (s.pe s.cur.pe) = false) :
    s.tryCommit = s.commitStart.tryFinish s.commitStart.nextId := by
  simp only [State.tryCommit, kept, sound, ready, pages, full, Bool.false_eq_true, if_false]

end

/-! ## Where a block leaves to (18 R276, R277; 24 R373) -/

/-- Go on at an address: the program counter of the region, and the digest of the agent (18 R276, R277; 26 R396). -/
def State.goTo (s : State) (f : Frame) (pc : W64) (x : Nat) : State :=
  (s.onRegion f.region fun r => { r with pc := pc }).fold f.agent ((pc <<< 3) + BitVec.ofNat 64 x)

section
variable {s : State} {f : Frame} {x : BitVec 3}

theorem State.leave_goto {pc : W64} (exit : f.exit = some (.goto pc, x)) : s.leave f = s.goTo f pc x.toNat := by
  simp only [State.leave, exit, State.goTo]

theorem State.leave_call {pc : W64} (exit : f.exit = some (.call pc, x)) :
    s.leave f = (s.onRegion f.region fun r => { r with rstack := followAddr f :: r.rstack }).goTo f pc x.toNat := by
  simp only [State.leave, exit, State.goTo]

theorem State.leave_ret (exit : f.exit = some (.ret, x)) :
    s.leave f = (s.onRegion f.region fun r => { r with rstack := r.rstack.drop 1 }).goTo f
      ((s.region f.region).rstack.headD 0) x.toNat := by
  simp only [State.leave, exit, State.goTo]

/-- ERET that resumes the agent goes on at SYS_EPC, with INH clear (24 R373). -/
theorem State.leave_eret_resume {a : W64} (exit : f.exit = some (.eret 0 a, x)) :
    s.leave f = ((s.onRegion f.region fun r => { r with status := statusSet r.status 14 false }).resumeAgent
      (s.region f.region).trec).goTo f (s.region f.region).epc 0 := by
  simp only [State.leave, exit]
  rfl

/-- ERET to an address goes on there, with INH clear (24 R373). -/
theorem State.leave_eret_to {a : W64} (exit : f.exit = some (.eret 1 a, x)) :
    s.leave f = (s.onRegion f.region fun r => { r with status := statusSet r.status 14 false }).goTo f a 0 := by
  simp only [State.leave, exit]
  rfl

end

/-! ### Resuming an agent changes PEs alone (24 R373) -/

theorem State.resumeAgent_mem (s : State) (trec : W512) : (s.resumeAgent trec).mem = s.mem := by
  unfold State.resumeAgent; split <;> rfl

theorem State.region_resumeAgent (s : State) (trec : W512) (k : Nat) : (s.resumeAgent trec).region k = s.region k := by
  unfold State.resumeAgent; split <;> rfl

/-! ### The digest of an agent (26 R396) -/

theorem State.fold_mem (s : State) (a : Agent) (v : W64) : (s.fold a v).mem = s.mem := by cases a <;> rfl

theorem State.region_fold (s : State) (a : Agent) (v : W64) (k : Nat) :
    ∃ d, (s.fold a v).region k = { s.region k with digest := d } := by
  cases a with
  | ctl r =>
    by_cases at_ : k = r
    · subst at_
      exact ⟨_, State.region_onRegion_self s k _⟩
    · exact ⟨_, State.region_onRegion_ne s _ at_⟩
  | _ => exact ⟨_, rfl⟩

theorem State.region_fold_ctl_ne (s : State) {r k : Nat} (v : W64) (ne : k ≠ r) : (s.fold (.ctl r) v).region k = s.region k :=
  State.region_onRegion_ne s _ ne

/-- What a block that goes on at an address makes of its region, from a state that differs from `s` there and beyond regions and memory:
its program counter and its digest; memory stays, and so do the other regions where the block is of the thread of its own. -/
theorem State.leaves_by_goTo {s s1 : State} {f : Frame} {pc : W64} {n : Nat} (leave : s.leave f = s1.goTo f pc n)
    (mem : s1.mem = s.mem) (others : ∀ k, k ≠ f.region → s1.region k = s.region k) :
    (∃ d, (s.leave f).region f.region = { s1.region f.region with pc := pc, digest := d }) ∧ (s.leave f).mem = s.mem ∧
      (f.agent = .ctl f.region → ∀ k, k ≠ f.region → (s.leave f).region k = s.region k) := by
  rw [leave]
  refine ⟨?_, (State.fold_mem _ _ _).trans mem, fun thread k ne => ?_⟩
  · obtain ⟨d, eq⟩ := State.region_fold (s1.onRegion f.region fun r => { r with pc := pc }) f.agent
      ((pc <<< 3) + BitVec.ofNat 64 n) f.region
    exact ⟨d, by rw [State.goTo, eq, State.region_onRegion_self]⟩
  · rw [State.goTo, thread, State.region_fold_ctl_ne _ _ ne, State.region_onRegion_ne _ _ ne, others k ne]

/-- The same, where nothing but the region of the block differs. -/
theorem State.leaves_by_onRegion {s : State} {f : Frame} {g : Region → Region} {pc : W64} {n : Nat}
    (leave : s.leave f = (s.onRegion f.region g).goTo f pc n) :
    (∃ d, (s.leave f).region f.region = { g (s.region f.region) with pc := pc, digest := d }) ∧ (s.leave f).mem = s.mem ∧
      (f.agent = .ctl f.region → ∀ k, k ≠ f.region → (s.leave f).region k = s.region k) := by
  have same := State.leaves_by_goTo leave rfl fun _ ne => State.region_onRegion_ne s g ne
  rwa [State.region_onRegion_self] at same

/-- Settles O49: the phases of a commit, and each exit by what it makes of the region of its block. -/
theorem blocksCommitTogether : Obligations.BlocksCommitTogether := by
  rintro s _ rfl complete pe r left
  refine ⟨fun n fencing waits => ?_, fun n fencing met => ?_, fun running other => ⟨fun k ks moved => ?_, fun k t kept fault => ?_,
    fun sound kept ready pages full => ?_⟩, fun running rule => execBlockCommit_rule complete running rule,
    fun pc x exit => ?goto, fun pc x exit => ?call, fun x exit => ?ret, fun a x exit => ?resume, fun a x exit => ?address⟩
  · exact (execBlockCommit_fencing complete fencing).trans (congrArg _ (if_pos waits))
  · exact (execBlockCommit_fencing complete fencing).trans (congrArg _ (if_neg (by simp [met])))
  · exact (execBlockCommit_running complete running other).trans (congrArg _ (State.tryCommit_moved moved))
  · exact (execBlockCommit_running complete running other).trans (congrArg _ (State.tryCommit_fault kept fault))
  · exact (execBlockCommit_running complete running other).trans
      (congrArg _ (State.tryCommit_starts kept sound ready pages full))
  case goto =>
    obtain ⟨⟨d, own⟩, rest⟩ := State.leaves_by_goTo (State.leave_goto (s := s) exit) rfl fun _ _ => rfl
    exact ⟨by rw [own]; exact ⟨rfl, rfl, rfl⟩, rest⟩
  case call =>
    obtain ⟨⟨d, own⟩, rest⟩ := State.leaves_by_onRegion (State.leave_call (s := s) exit)
    exact ⟨by rw [own]; exact ⟨rfl, rfl, rfl⟩, rest⟩
  case ret =>
    obtain ⟨⟨d, own⟩, rest⟩ := State.leaves_by_onRegion (State.leave_ret (s := s) exit)
    exact ⟨by rw [own]; exact ⟨rfl, rfl, rfl⟩, rest⟩
  case resume =>
    obtain ⟨⟨d, own⟩, rest⟩ := State.leaves_by_goTo (State.leave_eret_resume (s := s) exit) (State.resumeAgent_mem _ _) fun k ne =>
      (State.region_resumeAgent _ _ k).trans (State.region_onRegion_ne s _ ne)
    rw [State.region_resumeAgent, State.region_onRegion_self] at own
    exact ⟨by rw [own]; exact ⟨rfl, rfl⟩, rest⟩
  case address =>
    obtain ⟨⟨d, own⟩, rest⟩ := State.leaves_by_onRegion (State.leave_eret_to (s := s) exit)
    exact ⟨by rw [own]; exact ⟨rfl, rfl⟩, rest⟩

end Sys2Proof.Machine
end

section
/-! Results of the two-operand, compare and immediate integer instructions (10 R165 to R167, R170, R172, R173). -/

namespace Sys2Proof.Machine

open Claim

/-! ## From a result to its delivery -/

section
variable {i : Instr} {s : State} {p : Pm} {ts : List Tgt} {t u : Tgt} {a b c : Value} {v : W64} (da : a.isData = true)
include da

theorem delivers_of_issue1 (g : W64 → W64) (ready : Ready s p [a]) (answers : exec i s = issue1 p ts s g) (result : g a.lo = v) :
    Delivers i s s (toEach ts (.data v)) :=
  delivers_of_retire (answers.trans (result ▸ issue1_data ready da g))

variable (db : b.isData = true)
include db

theorem delivers_of_issue2 (g : W64 → W64 → W64) (ready : Ready s p [a, b]) (answers : exec i s = issue2 p [t, u] s g)
    (result : g a.lo b.lo = v) : Delivers i s s [(t, .data v), (u, .data v)] :=
  delivers_of_retire (answers.trans (result ▸ issue2_data ready da db g))

theorem delivers_of_issue3 (dc : c.isData = true) (g : W64 → W64 → W64 → W64) (ready : Ready s p [a, b, c])
    (answers : exec i s = issue3 p [t, u] s g) (result : g a.lo b.lo c.lo = v) :
    Delivers i s s [(t, .data v), (u, .data v)] :=
  delivers_of_retire (answers.trans (result ▸ issue3_data ready da db dc g))

end

/-! ## Order (10 R165, R170) -/

/-- One value is below another, as signed or as unsigned numbers. -/
def below (sg : Bool) (x y : W64) : Prop := if sg then x.toInt < y.toInt else x.toNat < y.toNat

theorem lessThan_iff_below (sg : Bool) (x y : W64) : (if sg then x.slt y else x.ult y) = true ↔ below sg x y := by
  cases sg
  · exact BitVec.ult_iff_toNat_lt
  · exact BitVec.slt_iff_toInt_lt

theorem below_asymm {sg : Bool} {x y : W64} (less : below sg x y) : ¬ below sg y x := by
  cases sg
  · exact Nat.lt_asymm less
  · exact Int.lt_asymm less

theorem eq_of_not_below {sg : Bool} {x y : W64} (not_less : ¬ below sg x y) (not_more : ¬ below sg y x) : x = y := by
  cases sg
  · exact BitVec.eq_of_toNat_eq (Nat.le_antisymm (Nat.not_lt.mp not_more) (Nat.not_lt.mp not_less))
  · exact BitVec.eq_of_toInt_eq (Int.le_antisymm (Int.not_lt.mp not_more) (Int.not_lt.mp not_less))

section
variable {sg : Bool} {x y : W64}

theorem minW_of_below (less : below sg x y) : minW sg x y = x :=
  if_neg (mt (lessThan_iff_below sg y x).mp (below_asymm less))

theorem maxW_of_below (less : below sg x y) : maxW sg x y = y := if_pos ((lessThan_iff_below sg x y).mpr less)

theorem maxW_of_not_below (not_less : ¬ below sg x y) : maxW sg x y = x := if_neg (mt (lessThan_iff_below sg x y).mp not_less)

/-- Where neither is below the other, the two are equal, and it does not matter which one MIN takes. -/
theorem minW_of_not_below (not_less : ¬ below sg x y) : minW sg x y = y := by
  by_cases more : below sg y x
  · exact if_pos ((lessThan_iff_below sg y x).mpr more)
  · rw [eq_of_not_below not_less more]
    exact ite_self y

end

/-! ## Quotients and remainders (10 R166) -/

theorem divQ_of_ne_zero (sg : Bool) {x y : W64} (nonzero : y ≠ 0) :
    divQ sg x y = if sg then BitVec.ofInt 64 (x.toInt.tdiv y.toInt) else BitVec.ofNat 64 (x.toNat / y.toNat) := if_neg nonzero

/-- The remainder is what the quotient times the divisor leaves of the dividend. -/
theorem divR_of_ne_zero (sg : Bool) {x y : W64} (nonzero : y ≠ 0) :
    divR sg x y = if sg then BitVec.ofInt 64 (x.toInt - x.toInt.tdiv y.toInt * y.toInt)
      else BitVec.ofNat 64 (x.toNat - x.toNat / y.toNat * y.toNat) := by
  rw [divR, if_neg nonzero, Int.tmod_def, Int.mul_comm, Nat.mod_eq_sub_div_mul]

/-! ## Shifts and rotation (10 R167) -/

theorem shiftLeft_eq_ofNat (x : W64) (n : Nat) : x <<< n = BitVec.ofNat 64 (x.toNat * 2 ^ n) :=
  BitVec.eq_of_toNat_eq (by rw [BitVec.toNat_shiftLeft, BitVec.toNat_ofNat, Nat.shiftLeft_eq])

theorem ushiftRight_eq_ofNat (x : W64) (n : Nat) : x >>> n = BitVec.ofNat 64 (x.toNat / 2 ^ n) := by
  rw [← Nat.shiftRight_eq_div_pow, ← BitVec.toNat_ushiftRight, BitVec.ofNat_toNat, BitVec.setWidth_eq]

theorem sshiftRight_eq_ofInt (x : W64) (n : Nat) : x.sshiftRight n = BitVec.ofInt 64 (x.toInt / 2 ^ n) := by
  rw [BitVec.sshiftRight_eq, Int.shiftRight_eq_div_pow]
  exact congrArg (fun d => BitVec.ofInt 64 (x.toInt / d)) (Int.natCast_pow 2 n)

theorem rotl_shiftAmt (x y : W64) : rotl x (shiftAmt y) = x <<< (y.toNat % 64) ||| x >>> (64 - y.toNat % 64) := by
  rw [rotl, shiftAmt, BitVec.rotateLeft_def, Nat.mod_mod]

/-- Settles O9: the function of each instruction, and what it computes. -/
theorem twoOperandIntegerResults : Obligations.TwoOperandIntegerResults := by
  intro s p t u sg a b ready da db x y n less gives
  have result {i : Instr} {v : W64} (g : W64 → W64 → W64) (answers : exec i s = issue2 p [t, u] s g) (value : g x y = v) :
      gives i v := delivers_of_issue2 da db g ready answers value
  refine ⟨result (· + ·) rfl rfl, result (· - ·) rfl rfl, result (· * ·) rfl rfl, result (mulHigh true) rfl rfl,
    result (mulHigh false) rfl rfl, fun zero => ?zero, fun least minus_one => ?overflow, fun nonzero => ?nonzero,
    result (· &&& ·) rfl rfl, result (· ||| ·) rfl rfl, result (· ^^^ ·) rfl rfl, result (· &&& ~~~·) rfl rfl,
    result (fun v w => v <<< shiftAmt w) rfl (shiftLeft_eq_ofNat x n),
    result (fun v w => v >>> shiftAmt w) rfl (ushiftRight_eq_ofNat x n),
    result (fun v w => v.sshiftRight (shiftAmt w)) rfl (sshiftRight_eq_ofInt x n),
    result (fun v w => rotl v (shiftAmt w)) rfl (rotl_shiftAmt x y), fun lower => ?lower, fun not_lower => ?not_lower⟩
  case zero => exact ⟨result (divQ sg) rfl (if_pos zero), result (divR sg) rfl (if_pos zero)⟩
  case overflow =>
    exact ⟨result (divQ true) rfl (by rw [least, minus_one]; decide), result (divR true) rfl (by rw [least, minus_one]; decide)⟩
  case nonzero =>
    exact ⟨result (divQ true) rfl (divQ_of_ne_zero true nonzero), result (divR true) rfl (divR_of_ne_zero true nonzero),
      result (divQ false) rfl (divQ_of_ne_zero false nonzero), result (divR false) rfl (divR_of_ne_zero false nonzero)⟩
  case lower => exact ⟨result (minW sg) rfl (minW_of_below lower), result (maxW sg) rfl (maxW_of_below lower)⟩
  case not_lower =>
    exact ⟨result (minW sg) rfl (minW_of_not_below not_lower), result (maxW sg) rfl (maxW_of_not_below not_lower)⟩

/-! ## CMP and the immediate instructions (10 R170, R172, R173) -/

section
variable {x y : W64} (sg : Bool)

theorem compare2_lt_iff : compare2 .lt sg x y = true ↔ below sg x y := lessThan_iff_below sg x y

theorem compare2_gt_iff : compare2 .gt sg x y = true ↔ below sg y x := lessThan_iff_below sg y x

theorem compare2_le_iff : compare2 .le sg x y = true ↔ ¬ below sg y x := by
  rw [← compare2_gt_iff, compare2, compare2, Bool.not_eq_true', Bool.not_eq_true]

theorem compare2_ge_iff : compare2 .ge sg x y = true ↔ ¬ below sg x y := by
  rw [← compare2_lt_iff, compare2, compare2, Bool.not_eq_true', Bool.not_eq_true]

end

section
variable {k : BitVec 11} {x : W64}

theorem toInt_signExtend_imm : (k.signExtend 64).toInt = k.toInt := BitVec.toInt_signExtend_of_le (by decide)

theorem toNat_setWidth_imm : (k.setWidth 64).toNat = k.toNat := BitVec.toNat_setWidth_of_le (by decide)

theorem compareImm_ltS_iff : compareImm .ltS k x = true ↔ x.toInt < k.toInt := by
  rw [compareImm, BitVec.slt_iff_toInt_lt, toInt_signExtend_imm]

theorem compareImm_gtS_iff : compareImm .gtS k x = true ↔ k.toInt < x.toInt := by
  rw [compareImm, BitVec.slt_iff_toInt_lt, toInt_signExtend_imm]

theorem compareImm_ltZ_iff : compareImm .ltZ k x = true ↔ x.toNat < k.toNat := by
  rw [compareImm, BitVec.ult_iff_toNat_lt, toNat_setWidth_imm]

theorem compareImm_geS_iff : compareImm .geS k x = true ↔ k.toInt ≤ x.toInt := by
  rw [← Int.not_lt, ← compareImm_ltS_iff, compareImm, compareImm, Bool.not_eq_true', Bool.not_eq_true]

theorem compareImm_leS_iff : compareImm .leS k x = true ↔ x.toInt ≤ k.toInt := by
  rw [← Int.not_lt, ← compareImm_gtS_iff, compareImm, compareImm, Bool.not_eq_true', Bool.not_eq_true]

theorem compareImm_geZ_iff : compareImm .geZ k x = true ↔ k.toNat ≤ x.toNat := by
  rw [← Nat.not_lt, ← compareImm_ltZ_iff, compareImm, compareImm, Bool.not_eq_true', Bool.not_eq_true]

end

section
variable {test : Bool} {q : Prop} (tells : test = true ↔ q)
include tells

theorem boolW_of_holds (holds : q) : boolW test = 1 := if_pos (tells.mpr holds)

theorem boolW_of_fails (fails : ¬ q) : boolW test = 0 := if_neg (mt tells.mp fails)

end

theorem compareGivesOneOrZero : Claim.CompareGivesOneOrZero := by
  intro s p t u sg a b ready da db x y less tells
  have result {c : Cond} {v : W64} (value : boolW (compare2 c sg x y) = v) :
      Delivers (.cmp p t u c sg) s s [(t, .data v), (u, .data v)] :=
    delivers_of_issue2 da db (fun v w => boolW (compare2 c sg v w)) ready rfl value
  have told {c : Cond} {q : Prop} (test : compare2 c sg x y = true ↔ q) : tells c q :=
    ⟨fun holds => result (boolW_of_holds test holds), fun fails => result (boolW_of_fails test fails)⟩
  exact ⟨told beq_iff_eq, told bne_iff_ne, told (compare2_lt_iff sg), told (compare2_le_iff sg), told (compare2_gt_iff sg),
    told (compare2_ge_iff sg), told bne_iff_ne⟩

theorem immediateIntegerResults : Claim.ImmediateIntegerResults := by
  intro s p t imm n k a ready data x i ks gives tells
  have result {i : Instr} {v : W64} (g : W64 → W64) (answers : exec i s = issue1 p [t] s g) (value : g x = v) : gives i v :=
    delivers_of_issue1 data g ready answers value
  have told {c : CondI} {q : Prop} (test : compareImm c k x = true ↔ q) : tells c q :=
    ⟨fun holds => result (boolW <| compareImm c k ·) rfl (boolW_of_holds test holds),
      fun fails => result (boolW <| compareImm c k ·) rfl (boolW_of_fails test fails)⟩
  exact ⟨result (· + i) rfl rfl, result (· &&& i) rfl rfl, result (· ||| i) rfl rfl, result (· ^^^ i) rfl rfl, result (· * i) rfl rfl,
    result (· <<< n.toNat) rfl (shiftLeft_eq_ofNat x n.toNat), result (· >>> n.toNat) rfl (ushiftRight_eq_ofNat x n.toNat),
    result (·.sshiftRight n.toNat) rfl (sshiftRight_eq_ofInt x n.toNat), told beq_iff_eq, told bne_iff_ne,
    told compareImm_ltS_iff, told compareImm_geS_iff, told compareImm_leS_iff, told compareImm_gtS_iff, told compareImm_ltZ_iff,
    told compareImm_geZ_iff⟩

/-- Settles O11: CMP, and the immediate instructions. -/
theorem compareAndImmediateResults : Obligations.CompareAndImmediateResults := ⟨compareGivesOneOrZero, immediateIntegerResults⟩

end Sys2Proof.Machine
end

section
/-! Absolute values, counts, extension and bit fields (10 R168, R169). -/

namespace Sys2Proof.Machine

open Claim

/-! ## Absolute values and counts (10 R168) -/

theorem absNeg_abs (x : W64) : absNeg .abs x = BitVec.ofNat 64 x.toInt.natAbs := by
  rw [← BitVec.ofInt_natCast, absNeg, BitVec.msb_eq_toInt]
  by_cases negative : x.toInt < 0
  · rw [Int.ofNat_natAbs_of_nonpos (Int.le_of_lt negative), BitVec.ofInt_neg, BitVec.ofInt_toInt]
    simp [negative]
  · rw [Int.natAbs_of_nonneg (Int.not_lt.mp negative), BitVec.ofInt_toInt]
    simp [negative]

/-- The highest set bit of a number other than zero is the one whose power of two is the last that does not exceed it. -/
theorem leadingZeros_spec {x : W64} (nonzero : x ≠ 0) :
    leadingZeros x < 64 ∧ 2 ^ (63 - leadingZeros x) ≤ x.toNat ∧ x.toNat < 2 ^ (64 - leadingZeros x) := by
  have some_bit : x.toNat ≠ 0 := fun zero => nonzero (BitVec.eq_of_toNat_eq zero)
  have high : x.toNat.log2 < 64 := (Nat.log2_lt some_bit).mpr x.isLt
  rw [leadingZeros, if_neg nonzero, Nat.sub_sub_self (Nat.le_of_lt_succ high),
    show 64 - (63 - x.toNat.log2) = x.toNat.log2 + 1 by omega]
  exact ⟨by omega, Nat.log2_self_le some_bit, Nat.lt_log2_self⟩

theorem trailingZeros_zero (n : Nat) : trailingZeros n 0 = n := by
  induction n with
  | zero => rfl
  | succ n ih => rw [trailingZeros, if_neg (by decide), Nat.zero_div, ih, Nat.add_comm]

/-- Among the bits counted, the first that is set comes behind as many zeros as are counted. -/
theorem trailingZeros_spec {n v : Nat} (nonzero : v ≠ 0) (fits : v < 2 ^ n) :
    trailingZeros n v < n ∧ v.testBit (trailingZeros n v) = true ∧ ∀ i, i < trailingZeros n v → v.testBit i = false := by
  induction n generalizing v with
  | zero => omega
  | succ n ih =>
    rw [trailingZeros]
    by_cases odd : v % 2 = 1
    · rw [if_pos odd]
      exact ⟨n.succ_pos, by simpa [Nat.testBit_zero] using odd, fun i lower => absurd lower i.not_lt_zero⟩
    · obtain ⟨inside, set_, clear⟩ := ih (v := v / 2) (by omega) (by rw [Nat.pow_succ] at fits; omega)
      rw [if_neg odd, Nat.add_comm 1]
      refine ⟨Nat.succ_lt_succ inside, by rwa [Nat.testBit_succ], fun i lower => ?_⟩
      cases i with
      | zero => simpa [Nat.testBit_zero] using odd
      | succ i => rw [Nat.testBit_succ]; exact clear i (Nat.lt_of_succ_lt_succ lower)

theorem setBits_eq_length_filter (n v : Nat) : setBits n v = ((List.range n).filter v.testBit).length := by
  induction n generalizing v with
  | zero => rfl
  | succ n ih =>
    have shifted : v.testBit ∘ Nat.succ = (v / 2).testBit := funext fun i => Nat.testBit_succ v i
    rw [setBits, ih, List.range_succ_eq_map, List.filter_cons, List.filter_map, shifted, Nat.testBit_zero]
    rcases Nat.mod_two_eq_zero_or_one v with even | odd
    · simp [even]
    · simp [odd, Nat.add_comm]

section
variable (x : W64)

theorem bitCount_clz_spec : (x = 0 → bitCount .clz x = 64) ∧ (x ≠ 0 → (bitCount .clz x).toNat < 64 ∧
    2 ^ (63 - (bitCount .clz x).toNat) ≤ x.toNat ∧ x.toNat < 2 ^ (64 - (bitCount .clz x).toNat)) := by
  refine ⟨fun zero => by rw [zero]; rfl, fun nonzero => ?_⟩
  have spec := leadingZeros_spec nonzero
  rwa [bitCount, BitVec.toNat_ofNat, Nat.mod_eq_of_lt (Nat.lt_trans spec.1 (by decide))]

theorem bitCount_ctz_spec : (x = 0 → bitCount .ctz x = 64) ∧ (x ≠ 0 → (bitCount .ctz x).toNat < 64 ∧
    x.getLsbD (bitCount .ctz x).toNat = true ∧ ∀ i, i < (bitCount .ctz x).toNat → x.getLsbD i = false) := by
  refine ⟨fun zero => by subst zero; exact congrArg (BitVec.ofNat 64) (trailingZeros_zero 64), fun nonzero => ?_⟩
  have spec := trailingZeros_spec (fun zero => nonzero (BitVec.eq_of_toNat_eq zero)) x.isLt
  rwa [bitCount, BitVec.toNat_ofNat, Nat.mod_eq_of_lt (Nat.lt_trans spec.1 (by decide))]

theorem bitCount_popc_toNat : (bitCount .popc x).toNat = ((List.range 64).filter x.getLsbD).length := by
  have few : setBits 64 x.toNat ≤ 64 := by
    rw [setBits_eq_length_filter]
    exact Nat.le_trans (List.length_filter_le _ _) (Nat.le_of_eq List.length_range)
  rw [bitCount, BitVec.toNat_ofNat, Nat.mod_eq_of_lt (Nat.lt_of_le_of_lt few (by decide)), setBits_eq_length_filter]
  rfl

end

/-! ## Bit fields (10 R169) -/

theorem fieldPos_eq (c : W64) : fieldPos c = c.toNat % 64 := by simp [fieldPos, bits]

theorem fieldLen_eq (c : W64) : fieldLen c = Nat.min (c.toNat / 256 % 64 + 1) (64 - c.toNat % 64) := by
  rw [fieldLen, fieldPos_eq]
  simp [bits, Nat.shiftRight_eq_div_pow]

theorem fieldLen_pos (c : W64) : 0 < fieldLen c := by
  rw [fieldLen, fieldPos_eq]
  omega

/-- BFX gives the bits of the field, and above them zeros, or the highest bit of the field. -/
theorem getLsbD_fieldGet (sg : Bool) (x c : W64) {i : Nat} (inside : i < 64) : (fieldGet sg x c).getLsbD i =
    if i < fieldLen c then x.getLsbD (fieldPos c + i) else sg && x.getLsbD (fieldPos c + fieldLen c - 1) := by
  have field (j : Nat) : (BitVec.ofNat (fieldLen c) (x.toNat / 2 ^ fieldPos c)).getLsbD j =
      (decide (j < fieldLen c) && x.getLsbD (fieldPos c + j)) := by
    rw [BitVec.getLsbD_ofNat, Nat.testBit_div_two_pow, Nat.add_comm]
    rfl
  have last : fieldLen c - 1 < fieldLen c := Nat.sub_lt (fieldLen_pos c) Nat.one_pos
  rw [Nat.add_sub_assoc (fieldLen_pos c), fieldGet]
  cases sg
  · simp [-BitVec.getLsbD_eq_getElem, BitVec.getLsbD_setWidth, field, inside]
  · simp +contextual [-BitVec.getLsbD_eq_getElem, BitVec.getLsbD_signExtend, BitVec.msb_eq_getLsbD_last, field, inside, last]

/-- BFI replaces the bits of the field, and every other bit stays. -/
theorem getLsbD_fieldPut (x y c : W64) {i : Nat} (inside : i < 64) : (fieldPut x y c).getLsbD i =
    if fieldPos c ≤ i ∧ i < fieldPos c + fieldLen c then y.getLsbD (i - fieldPos c) else x.getLsbD i := by
  rw [fieldPut, getLsbD_insertBits, decide_eq_true inside, Bool.true_and]
  rfl

/-- Settles O10: each count by what it counts, and each field bit by bit. -/
theorem bitFieldsAndCounts : Obligations.BitFieldsAndCounts := by
  intro s p t u sg a b c da db dc x gives widened pos len
  have length (w : W64) : len w = fieldLen w := (fieldLen_eq w).symm
  have place_ (w : W64) : pos w = fieldPos w := (fieldPos_eq w).symm
  refine ⟨fun ready => ?one,
    fun ready => ⟨fieldGet sg x b.lo, fun i inside => ?get, delivers_of_issue2 da db (fieldGet sg) ready rfl rfl⟩,
    fun ready => ⟨fieldPut x b.lo c.lo, fun i inside => ?put, delivers_of_issue3 da db dc fieldPut ready rfl rfl⟩⟩
  case one =>
    have result {i : Instr} {q : W64 → Prop} (g : W64 → W64) (answers : exec i s = issue1 p [t, u] s g) (value : q (g x)) :
        gives i q := ⟨g x, value, delivers_of_issue1 da g ready answers rfl⟩
    exact ⟨result (absNeg .neg) rfl rfl, result (absNeg .abs) rfl (absNeg_abs x), result (bitCount .clz) rfl (bitCount_clz_spec x),
      result (bitCount .ctz) rfl (bitCount_ctz_spec x), result (bitCount .popc) rfl (bitCount_popc_toNat x),
      result (extend .w8 sg) rfl rfl, result (extend .w16 sg) rfl rfl, result (extend .w32 sg) rfl rfl⟩
  case get => rw [length, place_]; exact getLsbD_fieldGet sg x b.lo inside
  case put => rw [length, place_]; exact getLsbD_fieldPut x b.lo c.lo inside

end Sys2Proof.Machine
end

section
/-! The words that the manual writes out (05; 09 R161; 11 R188, R190, R191; 12; 13 R208; 15; 18; 22; 24). -/

namespace Sys2Proof.Laws

/-- Settles O2: the decoder runs on each word. -/
theorem decodesSpecWords : Obligations.DecodesSpecWords :=
  ⟨rfl, rfl, rfl, rfl, rfl, rfl, rfl, rfl, rfl, rfl, rfl, rfl, rfl, rfl, rfl⟩

end Sys2Proof.Laws
end
